-- ==== Sys2Proof/Word.lean ====
section
/-! DEFINITION. The word types of the ZC-40: line bytes, serials, zone time, web positions. -/

namespace Sys2Proof

/-- One byte of the hall line or of the serial memory. -/
abbrev Byte := BitVec 8

/-- A roll serial: 32 bits (0-5); serial 0 marks a roll present but not identified. -/
abbrev Serial := BitVec 32

/-- Zone time in deciseconds: 32 bits, wrapping (0-5). -/
abbrev Time := BitVec 32

/-- A web counter value: 40 bits, wrapping (R117). -/
abbrev WebPos := BitVec 40

/-- The six reference bytes of a REQUEST ANSWER (Table 11-2-3). -/
abbrev Reference := BitVec 48

end Sys2Proof
end

