-- ==== Sys2Proof/Syntax.lean ====
section
/-! DEFINITION. The commands of the ZC-40: one constructor of Instr per row of the opcode table, and the frames
and places their operands are made of. -/

namespace Sys2Proof

/-- The two arms of a reelstand (0-5). -/
inductive Arm where
  | a
  | b
deriving DecidableEq, Repr

/-- A place: the 49 places of the roll table (Table 3-1-1) and the docks the carriage reaches (4-1). -/
inductive Place where
  | lane (l p : Nat)
  | arm (r : Nat) (x : Arm)
  | vehicle (slot : Nat)
  | carriage
  | dock (d : Nat)
deriving DecidableEq, Repr

/-- A place as two bytes on the line (Table 11-1-1). -/
structure PlaceCode where
  type : Byte
  value : Byte
deriving DecidableEq, Repr

/-- Sender and addressee of a frame heard (1-1). -/
structure Header where
  sender : Byte
  addressee : Byte
deriving DecidableEq, Repr

/-- Any frame that has passed the line check, before its kind and length are judged. -/
structure RawFrame where
  sender : Byte
  addressee : Byte
  kind : Byte
  body : List Byte
deriving DecidableEq, Repr

/-- One byte as heard on the line, with whether its stop bit was there (R6). -/
structure HeardByte where
  value : Byte
  stopBit : Bool
deriving DecidableEq, Repr

/-- The vehicle part of a PASS OFFER, 7 bytes (11-2). -/
structure PassVehicle where
  number : Byte
  home : Byte
  target : Byte
  purpose : Byte
  field1 : Byte
  field2 : Byte
  field3 : Byte
deriving DecidableEq, Repr

/-- The roll part of a PASS OFFER, 17 bytes (11-2). -/
structure PassRoll where
  load : Byte
  serial : Serial
  state : Byte
  grade : Byte
  width : BitVec 16
  caliper : Byte
  remaining : BitVec 24
  breaks : Byte
  defect : Byte
  waste : BitVec 16
deriving DecidableEq, Repr

/-- The body of a frame of each kind, its fields at the widths of Tables 11-2-2 and 11-2-3. -/
inductive Body where
  | rollCall (call urgency grade : Byte) (width : BitVec 16) (minLength : BitVec 24)
  | rollOffer (call : Byte) (serial : Serial) (remaining : BitVec 24) (estimate : BitVec 16) (flags : Byte)
  | rollTake (call : Byte) (serial : Serial) (urgency dock : Byte)
  | takeAnswer (call : Byte) (serial : Serial) (result : Byte)
  | callWithdraw (call : Byte)
  | passOffer (v : PassVehicle) (r : PassRoll)
  | passAccept (vehicle segment : Byte)
  | passDefer (vehicle segment : Byte)
  | passDone (vehicle segment : Byte)
  | rollWaste (serial : Serial) (metres : BitVec 16)
  | lotAlert (lot roll : Serial)
  | rollEntry (place : PlaceCode) (serial : Serial) (grade : Byte) (width : BitVec 16) (caliper : Byte)
      (remaining : BitVec 24)
  | rollRemove (serial : Serial) (place : PlaceCode)
  | orderRequest (queue : Byte) (serial : Serial) (source destination : PlaceCode)
  | laneService (lane direction : Byte)
  | quarantineSet (slot : Byte) (base limit : Serial)
  | quarantineClear (slot : Byte)
  | segmentRelease (segment : Byte)
  | spliceNow (reelstand : Byte)
  | faultAck
  | logClear
  | reportRequest (page index part : Byte)
  | zoneRestart
  | pressState (subKind : Byte) (run edition : BitVec 16)
  | requestAnswer (kind result : Byte) (reference : Reference)
  | zoneReport (page index part count : Byte) (data : List Byte)
  | faultReport (entry : BitVec 120) (lead : BitVec 64) (level : Byte)
deriving DecidableEq, Repr

/-- The commands: one constructor per row of spec/opcode_table.json, in the table's order. Field events name the
active or inactive level of a line, that is the level read through its polarity (R13, log entry 2). -/
inductive Instr where
  /-- POWER_ON_RESET: release of RESET with the five strap pins as read (R20, R11). -/
  | powerOnReset (straps : BitVec 5)
  /-- IMAGE_CHECK: the serial memory from its first byte; bytes it does not answer read as all ones (R12). -/
  | imageCheck (memory : List Byte)
  | inertReportRepeat
  | joiningEnd
  | lineErrorPeriodEnd
  /-- LINE_ERROR: the bytes heard from a quiet line until it fell quiet again (R6, R188). -/
  | lineError (heard : List HeardByte)
  /-- DUPLICATE_STATION: a frame that passes the line check with the own number as sender (R7). -/
  | duplicateStation (addressee kind : Byte) (body : List Byte)
  /-- FRAME_DISCARD: any frame that passes the line check (R8). -/
  | frameDiscard (frame : RawFrame)
  /-- TRANSMIT_START: bit times of quiet heard, and the sender byte as it stands on the line (R2, R3). -/
  | transmitStart (quiet : Nat) (readBack : Byte)
  | frameSent
  | rollCall (h : Header) (call urgency grade : Byte) (width : BitVec 16) (minLength : BitVec 24)
  | rollOffer (h : Header) (call : Byte) (serial : Serial) (remaining : BitVec 24) (estimate : BitVec 16)
      (flags : Byte)
  | rollTake (h : Header) (call : Byte) (serial : Serial) (urgency dock : Byte)
  | takeAnswer (h : Header) (call : Byte) (serial : Serial) (result : Byte)
  | callWithdraw (h : Header) (call : Byte)
  | passOffer (h : Header) (v : PassVehicle) (r : PassRoll)
  | passAccept (h : Header) (vehicle segment : Byte)
  | passDefer (h : Header) (vehicle segment : Byte)
  | passDone (h : Header) (vehicle segment : Byte)
  | rollWaste (h : Header) (serial : Serial) (metres : BitVec 16)
  | lotAlert (h : Header) (lot roll : Serial)
  | rollEntry (h : Header) (place : PlaceCode) (serial : Serial) (grade : Byte) (width : BitVec 16)
      (caliper : Byte) (remaining : BitVec 24)
  | rollRemove (h : Header) (serial : Serial) (place : PlaceCode)
  | orderRequest (h : Header) (queue : Byte) (serial : Serial) (source destination : PlaceCode)
  | laneServiceOut (h : Header) (lane : Byte)
  | laneServiceIn (h : Header) (lane : Byte)
  | quarantineSet (h : Header) (slot : Byte) (base limit : Serial)
  | quarantineClear (h : Header) (slot : Byte)
  | segmentRelease (h : Header) (segment : Byte)
  | spliceNow (h : Header) (reelstand : Byte)
  | faultAck (h : Header)
  | logClear (h : Header)
  | reportRequest (h : Header) (page index part : Byte)
  | zoneRestart (h : Header)
  | runStart (h : Header) (run edition : BitVec 16)
  | editionChange (h : Header) (edition : BitVec 16)
  | runEnd (h : Header)
  /-- TAG_READ: an occupancy input goes active with the six tag lines at this value (2-1). -/
  | tagRead (segment : Nat) (tag : BitVec 6)
  | occupancyClear (segment : Nat)
  | atDockRise (dock : Nat)
  | atDockFall (dock : Nat)
  | passAnswerTimeout (vehicle : Nat)
  | passOfferRepeat (vehicle : Nat)
  | passUnconfirmed (vehicle : Nat)
  | laneDetectorChange (lane position : Nat) (active : Bool)
  | laneDisagreeTimeout (lane position : Nat)
  | restockPeriod
  /-- TRAVEL_COMPLETE, PICK_COMPLETE, SET_COMPLETE: carriage-done goes active, with the carriage place input as it
  then reads (4-1, R72). -/
  | travelComplete (place : Option Place)
  | pickComplete (place : Option Place)
  | setComplete (place : Option Place)
  | stepLimitExpiry
  | holdLimitExpiry
  | offerWindowEnd (call : Nat)
  | takeAnswerTimeout (call : Nat)
  | reissueTime (call : Nat)
  | unloadRetry (vehicle : Nat)
  | armOpenChange (reelstand : Nat) (arm : Arm) (active : Bool)
  | encoderPulse (reelstand : Nat)
  | missingIndexPoint (reelstand : Nat)
  | speedGateEnd (reelstand : Nat)
  | revolutionIndex (reelstand : Nat) (arm : Arm)
  | rollPresentChange (reelstand : Nat) (arm : Arm) (active : Bool)
  | armDisagreeTimeout (reelstand : Nat) (arm : Arm)
  | standbyReadyChange (reelstand : Nat) (active : Bool)
  | speedMatchedChange (reelstand : Nat) (active : Bool)
  | matchTimeout (reelstand : Nat)
  | pasteDone (reelstand : Nat)
  | pasteTimeout (reelstand : Nat)
  | knifeFallback (reelstand : Nat)
  | knifeDone (reelstand : Nat)
  | knifeTimeout (reelstand : Nat)
  | webBreak (reelstand : Nat)
  | webBreakClear (reelstand : Nat)
  /-- WASTE_GATE_CHANGE: the level the gate takes, active being 'showing waste' (9-1). -/
  | wasteGateChange (waste : Bool)
  | folderCopyPulse
  | rateWindowEnd
  | resetHeldActive
  | receiveQuiet12Bits
deriving DecidableEq, Repr

end Sys2Proof
end

