-- ==== Sys2Proof/Decode.lean ====
section
/-! DEFINITION. The command that a word of the opcode table spells. No row of the table gives bits: the commands are
events, and a frame's bytes are read by Frames.lean. -/

namespace Sys2Proof

/-- No word spells a command, since no row of the table has bits. (DESIGN CHOICE, log entry 5.) -/
def decodeTableWord (_nbits _w : Nat) : Option Instr := none

end Sys2Proof
end

