-- ==== Sys2Proof/Config.lean ====
section
/-! DEFINITION. What the manual fixes for every part (limits and times), and the free values it leaves open. -/

namespace Sys2Proof.Config

/-- Transmit queue entries (1-3). -/
def queueEntries : Nat := 16
/-- Waiting list entries (1-3). -/
def waitingEntries : Nat := 32
/-- Maximum of the 16-bit line counts (1-3, 1-4). -/
def max16 : Nat := 65535
/-- Maximum of the 32-bit copy counts (R170). -/
def max32 : Nat := 4294967295
/-- Listening time of JOINING in ds (R15). -/
def joiningTime : Time := 10
/-- Line error period in ds (R6). -/
def errorPeriod : Time := 100
/-- Line errors of one period at which the fault is raised (R6). -/
def errorRate : Nat := 65
/-- Distance of INERT reports in ds (R18). -/
def inertRepeat : Time := 100
/-- Answer time of a PASS OFFER in ds (R37). -/
def passAnswer : Time := 20
/-- Repeat distance of a deferred PASS OFFER in ds (R36). -/
def passRepeat : Time := 300
/-- Time to PASS DONE after the permit in ds (R38). -/
def passConfirm : Time := 100
/-- Vehicle table slots (R23). -/
def vehicleSlots : Nat := 8
/-- Vehicles in one wait list (R27). -/
def waitLength : Nat := 7
/-- Deferred pass offers (R40). -/
def deferredLength : Nat := 4
/-- Time of unbroken disagreement in ds (R59, R138). -/
def disagreeTime : Time := 50
/-- Rolls of a zone that may carry a reservation (R52). -/
def reservations : Nat := 8
/-- Restock period in ds (R63). -/
def restockPeriod : Time := 600
/-- Order table slots (R73). -/
def orderSlots : Nat := 24
/-- Held requests of each queue (R74). -/
def heldRequests : Nat := 32
/-- Step limit in ds (R79). -/
def stepLimit : Time := 600
/-- Hold limit in ds (R79). -/
def holdLimit : Time := 1200
/-- Offers of a call (R96). -/
def callOffers : Nat := 6
/-- Offer window in ds (R100). -/
def offerWindow : Time := 15
/-- Answer time of a ROLL TAKE in ds (R103). -/
def takeAnswer : Time := 10
/-- Re-issue distance in ds (R105). -/
def reissue : Time := 300
/-- Distance to a second unloading order in ds (R112). -/
def unloadRetry : Time := 300
/-- Greatest remaining length in mm (R120, R126). -/
def lengthMax : Nat := 71619300
/-- Distance of a missing-index point past the reference in mm (R121). -/
def missingIndex : Nat := 6001
/-- Greatest accepted circumference in mm (R122). -/
def circumferenceMax : Nat := 6000
/-- Match time in ds (R140, R141). -/
def matchTime : Time := 300
/-- Paste time in ds (R142). -/
def pasteTime : Time := 20
/-- Time from paste done to the knife without an index in ds (R143). -/
def knifeFallback : Time := 10
/-- Knife time in ds (R143). -/
def knifeTime : Time := 20
/-- Marks in one path queue (R154). -/
def pathMarks : Nat := 4
/-- Smallest and greatest image length (R12, R193). -/
def imageMin : Nat := 74
def imageMax : Nat := 1024
/-- The format number of the image (R12). -/
def imageFormat : Nat := 3

/-- How many inner requests one event may serve. Any left over are served first by the next event
(DESIGN CHOICE, log entry 4). -/
def cascadeFuel : Nat := 4096

/-- FREE VALUE (DESIGN CHOICE, log entry 12): the byte offset that the IMAGE fault reports when the relation 'a zone with
reelstands provides one of the three butt destinations' fails; the manual states no offset for a relation that
is no single value (R12). The argument is the image length. -/
opaque buttDestinationOffset : Nat → Nat

end Sys2Proof.Config
end

