-- ==== Sys2Proof/Machine/State.lean ====
section
/-! DEFINITION. The state of the zone controller as plain data: every register, table, queue, timer and output the
manual names, block by block, and the machine right after reset. Numbers of things (segments, lanes, reelstands ...)
are Nat; serials, times and web positions have the manual's widths. -/

namespace Sys2Proof.Machine

/-- A table by number: keys rising, at most one entry a key. -/
abbrev Tbl (α : Type) := List (Nat × α)

/-! ### The configuration image (1-6, R193) -/

/-- A successor of a segment: station 0 names a local segment (R193). -/
structure Succ where
  station : Nat
  segment : Nat
deriving DecidableEq, Repr

/-- A segment of the image (R21, R193). -/
structure SegCfg where
  transit : Nat
  succ1 : Succ
  succ2 : Succ
  points : Nat
  dock : Nat
deriving DecidableEq, Repr

/-- Roles of a dock, in the order of R22. -/
inductive DockRole where
  | loading
  | receiving
  | parking
  | scrap
deriving DecidableEq, Repr

structure DockCfg where
  segment : Nat
  role : DockRole
deriving DecidableEq, Repr

/-- A boundary entry: where vehicles of a neighbour arrive (2-1). -/
structure BoundaryCfg where
  station : Nat
  segment : Nat
deriving DecidableEq, Repr

/-- An exit table entry (R24). -/
structure ExitCfg where
  station : Nat
  segment : Nat
  index : Nat
  hops : Nat
deriving DecidableEq, Repr

inductive LaneMode where
  | through
  | pick
deriving DecidableEq, Repr

inductive LaneRole where
  | stock
  | staging
  | butt
deriving DecidableEq, Repr

/-- A lane of the image (R53); grade, width and low mark belong to the role STAGING. -/
structure LaneCfg where
  mode : LaneMode
  positions : Nat
  role : LaneRole
  grade : Nat
  width : Nat
  low : Nat
deriving DecidableEq, Repr

/-- A reelstand of the image (R193): circumferences in mm, caliper in µm, lead A and horizon H in ds, path in mm. -/
structure ReelCfg where
  core : Nat
  splice : Nat
  margin : Nat
  caliper : Nat
  lead : Nat
  horizon : Nat
  path : Nat
  webInUse : Bool
deriving DecidableEq, Repr

inductive ResumePolicy where
  | resumeStep
  | restartOrder
deriving DecidableEq, Repr

/-- The configuration image as the blocks use it (R12, R193). -/
structure Image where
  segments : List SegCfg
  points : List Nat
  docks : List DockCfg
  boundary : List BoundaryCfg
  exits : List ExitCfg
  lanes : List LaneCfg
  reels : List ReelCfg
  locked : List (Serial × Serial)
  meanTransit : Nat
  transferTime : Nat
  penalty : Nat
  minLength : Nat
  cutoff : Nat
  ejectCount : Nat
  rateX : Nat
  rateY : Nat
  rateM : Nat
  lotThreshold : Nat
  level : Nat
  console : Nat
  permission : List Nat
  queueB : Nat
  resume : ResumePolicy
  acceptAlerts : Bool
  buttReturn : Nat
  polarity : List Byte
deriving DecidableEq, Repr

/-- No image: a zone of nothing, as the blocks stand before a good image (R14). -/
def Image.absent : Image :=
  { segments := [], points := [], docks := [], boundary := [], exits := [], lanes := [], reels := [], locked := [],
    meanTransit := 0, transferTime := 0, penalty := 0, minLength := 0, cutoff := 0, ejectCount := 0, rateX := 0,
    rateY := 0, rateM := 0, lotThreshold := 0, level := 0, console := 0, permission := [], queueB := 0,
    resume := .resumeStep, acceptAlerts := false, buttReturn := 0, polarity := [] }

/-! ### Field inputs (1-7) -/

/-- The level inputs of one reelstand (7-1), active or inactive. -/
structure ReelIns where
  presentA : Bool
  presentB : Bool
  openA : Bool
  openB : Bool
  standbyReady : Bool
  speedMatched : Bool
  webBreak : Bool
deriving DecidableEq, Repr

def ReelIns.idle : ReelIns := ⟨false, false, false, false, false, false, false⟩

/-- The level inputs of the zone. occupancy lists the segments whose occupancy input is active, with the present tag. -/
structure Inputs where
  occupancy : Tbl Nat
  atDock : Tbl Bool
  lanes : Tbl Bool
  reels : Tbl ReelIns
  wasteGate : Bool
deriving DecidableEq, Repr

def Inputs.idle : Inputs := ⟨[], [], [], [], false⟩

/-! ### Station and loader (1-6 to 1-9) -/

/-- Station states (Table 1-8-1). -/
inductive Station where
  | start
  | joining
  | active
  | inert
deriving DecidableEq, Repr

/-- The station and loader state (SL, with the LI's part of it). -/
structure Loader where
  /-- The RESET pin is held active (R20). -/
  held : Bool
  station : Station
  /-- The strap value; 0 until the straps are sampled (R11, DESIGN CHOICE, log entry 1). -/
  number : Nat
  /-- The image once it has been found good (R12). -/
  image : Option Image
  /-- Entry to JOINING (R15). -/
  joinedAt : Time
  /-- JOINING was entered by a warm restart (R19). -/
  warm : Bool
  /-- The terminal to be answered DONE on entering ACTIVE (R19). -/
  restartAnswer : Option Nat
  /-- When INERT reports next (R18). -/
  inertNext : Option Time
deriving DecidableEq, Repr

/-! ### Line interface (Chapter 1) -/

/-- A frame of the part: its addressee and its body; the sender is the own station. -/
structure TxFrame where
  dest : Nat
  body : Body
deriving DecidableEq, Repr

/-- The frame whose transmission has passed the sender byte; queued tells whether it still holds its entry (R3, R5). -/
structure Sending where
  frame : TxFrame
  queued : Bool
deriving DecidableEq, Repr

structure Line where
  queue : List TxFrame
  waiting : List TxFrame
  /-- Protocol-class frames that their blocks hold in JOINING (R5). -/
  heldFrames : List TxFrame
  sending : Option Sending
  /-- The frame just sent to its end, still to be heard from the line (R7). -/
  justSent : Option TxFrame
  dropped : Nat
  lineErrors : Nat
  unknown : Nat
  malformed : Nat
  refused : Nat
  periodStart : Time
  periodErrors : Nat
  /-- The line is ignored until it has been quiet for 12 bit times (R188). -/
  ignoring : Bool
deriving DecidableEq, Repr

/-! ### Track controller (Chapter 2) -/

/-- Segment states (Table 2-1-1). -/
inductive SegState where
  | free
  | granted (v : Nat)
  | occupied (v : Nat)
  | reserved (v : Nat)
  | blocked
deriving DecidableEq, Repr

/-- The changing part of a segment record (R21) and its permit output. -/
structure Segment where
  state : SegState
  wait : List Nat
  permit : Bool
deriving DecidableEq, Repr

/-- Vehicle states (Table 2-1-2). -/
inductive VehState where
  | moving
  | held
  | docked
  | parked
  | passing
  | stranded
  | incoming
deriving DecidableEq, Repr

/-- Vehicle purposes (Table 2-1-2). -/
inductive Purpose where
  | ship (callStation call destination dock : Nat)
  | returnTo (station : Nat)
  | home
  | fetch (dock : Nat)
  | none
deriving DecidableEq, Repr

/-- Hand-over status (Table 2-1-2). -/
inductive HandOver where
  | none
  | offered
  | deferred
  | timedOut
  | accepted
deriving DecidableEq, Repr

/-- Roll states (Table 3-1-2). -/
inductive RollState where
  | stock
  | reserved
  | standby
  | running
  | butt
  | inTransfer
  | shipping
deriving DecidableEq, Repr

/-- A call reference: caller station and call number, and for a SHIP the caller's receiving dock (R107), 0 otherwise. -/
structure CallRef where
  station : Nat
  call : Nat
  dock : Nat
deriving DecidableEq, Repr

/-- What an identified roll record adds (R49). -/
structure RollData where
  grade : Nat
  width : Nat
  caliper : Nat
  remaining : Nat
deriving DecidableEq, Repr

/-- A roll record (Table 3-1-2); data is absent in an unidentified entry. -/
structure Roll where
  serial : Serial
  data : Option RollData
  state : RollState
  reservation : Option CallRef
  breaks : Nat
  waste : Nat
  defect : Bool
deriving DecidableEq, Repr

/-- A vehicle record (Table 2-1-2). -/
structure Vehicle where
  number : Nat
  state : VehState
  current : Option Nat
  granted : Option Nat
  trailing : Option Nat
  loaded : Bool
  purpose : Purpose
  order : Option Nat
  home : Nat
  route : List Nat
  handOver : HandOver
  handOverTime : Time
  /-- Station and segment the vehicle has been offered to (R35). -/
  offeredTo : Option (Nat × Nat)
  /-- When a deferred offer is repeated next (R36). -/
  repeatAt : Time
  /-- The pass unconfirmed fault has been raised (R38). -/
  unconfirmed : Bool
  /-- For an INCOMING record, the offering station and the roll record it carries (R39). -/
  offeredBy : Option Nat
  carried : Option Roll
  /-- Order of the vehicle's latest request among all claims (R29). -/
  claim : Nat
deriving DecidableEq, Repr

/-- A deferred pass offer (R40). -/
structure PassOffer where
  number : Nat
  home : Nat
  target : Nat
  purpose : Purpose
  roll : Option Roll
  station : Nat
  time : Time
  claim : Nat
deriving DecidableEq, Repr

structure Track where
  segments : Tbl Segment
  points : Tbl Nat
  vehicles : Tbl Vehicle
  deferred : List PassOffer
  /-- Orders the claims on segments in time (R29, DESIGN CHOICE, log entry 18). -/
  claims : Nat
deriving DecidableEq, Repr

/-! ### Stock table (Chapter 3) -/

/-- The changing part of a lane record (Table 3-2-1). -/
structure Lane where
  inService : Bool
  overrun : Bool
  underrun : Bool
  mismatch : Bool
  full : Bool
  empty : Bool
deriving DecidableEq, Repr

/-- Origin of a quarantine slot (R64). -/
inductive SlotOrigin where
  | image
  | terminal
  | alert (station : Nat)
deriving DecidableEq, Repr

/-- A quarantine slot that is written; a free slot has no entry (R64). -/
structure Slot where
  base : Serial
  limit : Serial
  origin : SlotOrigin
deriving DecidableEq, Repr

structure Stock where
  /-- The roll table by place key (Place.key). -/
  rolls : Tbl Roll
  lanes : Tbl Lane
  slots : Tbl Slot
  /-- Lane positions that disagree with their detector, with the time it began (R59). -/
  watch : Tbl Time
  /-- Disagreeing positions (R59). -/
  disagreeing : Tbl Unit
  restockAt : Time
deriving DecidableEq, Repr

/-! ### Transfer sequencer (Chapter 4) -/

inductive Queue where
  | p
  | o
deriving DecidableEq, Repr

/-- Order origins (Table 4-2-1). -/
inductive Origin where
  | callLoad
  | localLoad
  | buttClear
  | ship
  | receive
  | operator
deriving DecidableEq, Repr

/-- Destination of an order: a place, a PICK lane as a whole, or ANY of a role; anyStockOrButt is that of a
redirected order (R73, R76, R84). -/
inductive Dest where
  | place (p : Place)
  | lane (l : Nat)
  | anyStock
  | anyButt
  | anyStockOrButt
deriving DecidableEq, Repr

/-- States of a pending order (Table 4-2-1); DONE and FAILED orders leave the table at once (R73). -/
inductive OrderState where
  | waitingTrigger
  | ready
  | running
  | suspended
deriving DecidableEq, Repr

/-- Failure reasons (Table 4-2-1). -/
inductive Reason where
  | stepLimit
  | holdLimit
  | underrun
  | duplicate
  | laneOut
  | withdrawn
deriving DecidableEq, Repr

/-- A request for an order, as a block makes it and as the held lists keep it (R74, R75). -/
structure OrderReq where
  queue : Queue
  origin : Origin
  serial : Serial
  source : Place
  dest : Dest
  dockTrigger : Option Nat
  armTrigger : Option (Nat × Arm)
  vehicle : Option Nat
  callRef : Option CallRef
deriving DecidableEq, Repr

/-- An order record (Table 4-2-1). -/
structure Order where
  number : Nat
  /-- The request as accepted: its serial is the one the request named (R88). -/
  req : OrderReq
  /-- The serial as resolved (R80). -/
  serial : Serial
  /-- The vehicle named or assigned (R73). -/
  vehicle : Option Nat
  /-- The place the destination has been fixed to (R73, R76). -/
  target : Option Place
  state : OrderState
  step : Nat
  stepStart : Time
  /-- The order holds in its WAIT step (R79). -/
  holding : Bool
  /-- The overrun fault of this step 5 has been raised (R83). -/
  overrunRaised : Bool
  /-- Order of acceptance across both queues (R42, DESIGN CHOICE, log entry 18). -/
  accepted : Nat
deriving DecidableEq, Repr

/-- The carriage (Table 4-1-1). HALTED keeps the failed order (R90, R91). -/
inductive Carriage where
  | idle
  | running (order : Nat)
  | halted (order : Order)
deriving DecidableEq, Repr

/-- Carriage motions (1-7). -/
inductive Motion where
  | travel
  | pick
  | set
deriving DecidableEq, Repr

structure HoldNotice where
  order : Nat
  step : Nat
  time : Time
deriving DecidableEq, Repr

structure DoneNotice where
  order : Nat
  origin : Origin
  /-- none is DONE, some is FAILED with its reason (R93). -/
  failed : Option Reason
deriving DecidableEq, Repr

/-- The two notices of a place (R93). -/
structure Notice where
  hold : Option HoldNotice
  completion : Option DoneNotice
deriving DecidableEq, Repr

/-- The counts of a queue (R93). -/
structure QueueStat where
  done : Nat
  failed : Nat
  overrun : Nat
  last : Nat
deriving DecidableEq, Repr

structure Transfer where
  ordersP : List Order
  ordersO : List Order
  heldP : List OrderReq
  heldO : List OrderReq
  nextNumber : Nat
  accepted : Nat
  carriage : Carriage
  command : Option (Motion × Place)
  /-- The carriage-done input (4-1). -/
  doneInput : Bool
  /-- The carriage place input (4-1). -/
  placeInput : Option Place
  statP : QueueStat
  statO : QueueStat
  /-- Notices by place key, a lane under position 0 (R93). -/
  notices : Tbl Notice
deriving DecidableEq, Repr

/-! ### Supply agent (Chapter 5) -/

/-- Purposes of a call (R96). -/
inductive Need where
  | runout (r : Nat)
  | restock (l : Nat)
deriving DecidableEq, Repr

inductive Urgency where
  | runout
  | routine
deriving DecidableEq, Repr

/-- Call states (Table 5-1-2). -/
inductive CallState where
  | localService
  | collecting
  | taking
  | confirmed
  | delivered
  | noStock
  | withdrawn
deriving DecidableEq, Repr

structure Offer where
  station : Nat
  serial : Serial
  remaining : Nat
  estimate : Nat
  ready : Bool
deriving DecidableEq, Repr

/-- A call record (Table 5-1-2). -/
structure Call where
  number : Nat
  need : Need
  urgency : Urgency
  grade : Nat
  width : Nat
  minLength : Nat
  deadline : Nat
  state : CallState
  offers : List Offer
  chosen : Option Offer
  takeTime : Option Time
  windowStart : Option Time
  reissueAt : Option Time
  late : Bool
deriving DecidableEq, Repr

structure Supply where
  /-- The call table by Need.key. -/
  calls : Tbl Call
  nextCall : Nat
  /-- Vehicles that get a second unloading order, with its time (R112). -/
  retries : Tbl Time
  /-- Reelstands whose unidentified running roll has had its no stock fault (R98). -/
  noStockRaised : Tbl Unit
  /-- Calls asked for in JOINING, in order (R16, R115). -/
  asked : List Need
deriving DecidableEq, Repr

/-! ### Runout engine (Chapter 6) -/

/-- The web counter, the running gate and the speed of a reelstand (R117, R118). -/
structure Web where
  counter : WebPos
  gatePulses : Nat
  gateStart : Time
  speed : Nat
deriving DecidableEq, Repr

inductive MeasState where
  | noRoll
  | seeded
  | measuring
  | deadReckoning
deriving DecidableEq, Repr

inductive Seed where
  | fromRecord
  | unseeded
deriving DecidableEq, Repr

/-- A measurement record (Table 6-2-1). -/
structure Meas where
  /-- The serial of the roll that was seeded or identified, which the RE names in its writes (R51, R128); 0 for an
  unidentified entry. (DEDUCED, log entry 61.) -/
  serial : Serial
  state : MeasState
  seed : Seed
  readings : List Nat
  average : Option Nat
  reference : Option WebPos
  rejects : Nat
  totalRejects : Nat
  lastRejected : Option Nat
  caliper : Nat
  loadLength : Nat
  fed : Nat
  countLength : Nat
  measLength : Option Nat
  remaining : Nat
  spliceLength : Nat
  minLength : Nat
deriving DecidableEq, Repr

def Meas.initial : Meas :=
  { serial := 0, state := .noRoll, seed := .unseeded, readings := [], average := none, reference := none, rejects := 0,
    totalRejects := 0, lastRejected := none, caliper := 0, loadLength := 0, fed := 0, countLength := 0,
    measLength := none, remaining := 0, spliceLength := 0, minLength := 0 }

/-- The two measurement records of a reelstand and its time to splice T (6-2). -/
structure Reel where
  measA : Meas
  measB : Meas
  timeToSplice : Nat
deriving DecidableEq, Repr

/-! ### Faults (Chapter 10) -/

inductive FaultClass where
  | track
  | transfer
  | splice
  | measure
  | supply
  | line
  | quality
deriving DecidableEq, Repr

/-- Fault codes (Table 10-1-1). -/
inductive FaultCode where
  | tagMismatch
  | intrusion
  | stranded
  | passUnconfirmed
  | haltedGripping
  | stepLimit
  | holdLimit
  | underrun
  | overrun
  | runout
  | missedPaste
  | missedKnife
  | matchTimeout
  | deadReckoning
  | mismatch
  | noStock
  | lateRoll
  | loadFailed
  | image
  | duplicateStation
  | errorRate
  | rateHigh
  | lotAlertIssued
  | quarantineFull
deriving DecidableEq, Repr

inductive Severity where
  | notice
  | degrading
  | stopping
deriving DecidableEq, Repr

/-- The input or timer that failed a splice (R146). -/
inductive SpliceCause where
  | webBreak
  | rollPresent (x : Arm)
  | pasteTimer
  | knifeTimer
deriving DecidableEq, Repr

/-- One element of a fault context, in the words of the rule that raises it (11-2). (DESIGN CHOICE, log entry 13.) -/
inductive CtxElem where
  | segment (n : Nat)
  | lane (n : Nat)
  | reelstand (n : Nat)
  | order (n : Nat)
  | dock (n : Nat)
  | call (n : Nat)
  | slot (n : Nat)
  | vehicle (n : Nat)
  | position (n : Nat)
  | arm (x : Arm)
  | step (n : Nat)
  | station (n : Nat)
  | serial (s : Serial)
  | place (p : Place)
  | number (n : Nat)
  /-- The input or timer that failed (R146): it has no field among the nine bytes. -/
  | cause (c : SpliceCause)
deriving DecidableEq, Repr

/-- A fault occurrence or its latest record: code, zone time and context (R179). -/
structure Occurrence where
  code : FaultCode
  time : Time
  context : List CtxElem
deriving DecidableEq, Repr

/-- A class entry (Table 10-2-1). -/
structure ClassEntry where
  highest : Severity
  count : Nat
  latest : Occurrence
deriving DecidableEq, Repr

structure FaultRecord where
  /-- The class entries by class index 1 to 7 (10-1). -/
  entries : Tbl ClassEntry
  lead : Option Occurrence
  /-- The current reporting level; none before a good image (R186). -/
  level : Option Nat
deriving DecidableEq, Repr

/-! ### Splice sequencer (Chapter 7) -/

/-- Splice states (Table 7-1-1). -/
inductive SpliceState where
  | empty
  | single
  | loaded
  | prepared
  | accelerating
  | matched
  | pasting
  | cutting
  | spliceFailed
deriving DecidableEq, Repr

/-- An entry of a deferred set (R150). -/
structure HeldFault where
  count : Nat
  latest : Occurrence
deriving DecidableEq, Repr

/-- A splice record (Table 7-1-1) with the three outputs of its reelstand. -/
structure Splice where
  state : SpliceState
  running : Option Arm
  inhibited : Bool
  manual : Bool
  pasteArmed : Bool
  /-- Armed with the zone time of paste done (R142). -/
  knifeArmed : Option Time
  pasteFired : Bool
  knifeFired : Bool
  pasteDone : Bool
  knifeDone : Bool
  matchTimer : Option Time
  pasteTimer : Option Time
  knifeTimer : Option Time
  runoutRaised : Bool
  lateRaised : Bool
  deferred : List HeldFault
  accelerateOut : Bool
  pasteOut : Bool
  knifeOut : Bool
deriving DecidableEq, Repr

def Splice.initial : Splice :=
  { state := .empty, running := none, inhibited := false, manual := false, pasteArmed := false, knifeArmed := none,
    pasteFired := false, knifeFired := false, pasteDone := false, knifeDone := false, matchTimer := none,
    pasteTimer := none, knifeTimer := none, runoutRaised := false, lateRaised := false, deferred := [],
    accelerateOut := false, pasteOut := false, knifeOut := false }

structure SpliceBlock where
  stands : Tbl Splice
  /-- Arms (by place key) that disagree with roll-present, with the time it began (R138). -/
  watch : Tbl Time
  pressStop : Bool
deriving DecidableEq, Repr

/-! ### Web path and folder (Chapter 8) -/

structure Mark where
  position : WebPos
  old : Serial
  new : Serial
deriving DecidableEq, Repr

/-- Disposals of a closed account (Table 8-3-1), in the order of Table 8-1-1. -/
inductive Disposal where
  | own
  | line
  | unattributed
  | none
deriving DecidableEq, Repr

structure Account where
  serial : Serial
  metres : Nat
  copies : Nat
  disposal : Disposal
deriving DecidableEq, Repr

/-- A web record (Table 8-1-1). -/
structure WebPath where
  marks : List Mark
  markLost : Bool
  folderRoll : Option Serial
  wasteLength : Nat
  wasteCopies : Nat
  window : Nat
  lastClosed : Option Account
  unattributed : Nat
deriving DecidableEq, Repr

def WebPath.initial : WebPath :=
  { marks := [], markLost := false, folderRoll := none, wasteLength := 0, wasteCopies := 0, window := 0,
    lastClosed := none, unattributed := 0 }

structure Folder where
  webs : Tbl WebPath
  /-- The eject state the latest copy pulse set (R161). -/
  eject : Bool
deriving DecidableEq, Repr

/-! ### Spoilage counters (Chapter 9) -/

inductive PressCondition where
  | idle
  | makeready
  | production
  | broken
  | changeover
deriving DecidableEq, Repr

/-- A length in m with its remainder in mm (R170). -/
structure Metres where
  m : Nat
  rest : Nat
deriving DecidableEq, Repr

/-- The counts that the edition record and the run record share (Table 9-3-1). -/
structure Counts where
  good : Nat
  makeready : Nat
  splice : Nat
  breaks : Nat
  changeover : Nat
  running : Nat
  overlap : Nat
  sheet : Metres
  webWaste : Tbl Metres
deriving DecidableEq, Repr

def Counts.zero : Counts := ⟨0, 0, 0, 0, 0, 0, 0, ⟨0, 0⟩, []⟩

structure EditionRecord where
  number : Nat
  counts : Counts
deriving DecidableEq, Repr

structure RunRecord where
  number : Nat
  editions : Nat
  counts : Counts
  overWindow : Nat
deriving DecidableEq, Repr

/-- One bit for each cause of waste (9-4). -/
structure Causes where
  makeready : Bool
  splice : Bool
  breaks : Bool
  changeover : Bool
  running : Bool
  rateHigh : Bool
deriving DecidableEq, Repr

def Causes.clear : Causes := ⟨false, false, false, false, false, false⟩

/-- An alert held in JOINING until ACTIVE (R176). (DEDUCED, log entry 49.) -/
structure HeldAlert where
  serial : Serial
deriving DecidableEq, Repr

structure Spoilage where
  condition : PressCondition
  edition : EditionRecord
  run : RunRecord
  lastRun : RunRecord
  idleCopies : Nat
  status : Causes
  log : Causes
  windowCopies : Nat
  windowWaste : Nat
  lastWindowWaste : Nat
  heldAlerts : List HeldAlert
deriving DecidableEq, Repr

/-! ### The zone: the blocks that act on one another within one event -/

/-- Why an empty vehicle is offered for capture (R42). -/
inductive CaptureMoment where
  | entered
  | emptied
  | parked
  | released
deriving DecidableEq, Repr

/-- A request of one block to another that the running event still has to serve (DESIGN CHOICE, log entry 4). -/
inductive Task where
  /-- The restock check (R63). -/
  | restock
  /-- A call is asked for (R98). -/
  | askCall (n : Need)
  /-- A call is withdrawn (R110, R111). -/
  | withdrawCall (n : Need)
  /-- A load of a call ended: completed, failed with order number and serial, or redirected (R113). -/
  | loadDone (call : Nat)
  | loadFailed (call order : Nat) (serial : Serial)
  | loadRedirected (call : Nat)
  /-- An order is requested by a block (R74). -/
  | requestOrder (r : OrderReq)
  /-- A freed slot invites a held request (R74). -/
  | invite (q : Queue)
  /-- An order begins to wait for a vehicle (R43). -/
  | assignVehicle (order : Nat)
  /-- An empty vehicle is offered for capture (R42). -/
  | offerVehicle (vehicle : Nat) (why : CaptureMoment)
  /-- A loaded vehicle docked at the receiving dock gets an unloading order (R112). -/
  | unload (vehicle : Nat)
deriving DecidableEq, Repr

structure Zone where
  line : Line
  track : Track
  stock : Stock
  transfer : Transfer
  supply : Supply
  reels : Tbl Reel
  splice : SpliceBlock
  folder : Folder
  faults : FaultRecord
  /-- Requests between blocks that the running event has still to serve (DESIGN CHOICE, log entry 4). -/
  agenda : List Task
deriving DecidableEq, Repr

/-- The whole part. -/
structure State where
  /-- The commands that wait, first in first out. -/
  pending : List Instr
  /-- Zone time (0-5). -/
  time : Time
  loader : Loader
  inputs : Inputs
  /-- Web counters and speeds by reelstand (R117, R118). -/
  webs : Tbl Web
  spoilage : Spoilage
  zone : Zone
deriving DecidableEq, Repr

/-- The machine stops with no fault: every fault of the manual is an entry of the fault record and the part goes on
(Chapter 10). -/
inductive Fault where
deriving DecidableEq, Repr

/-- Why a command has no meaning. -/
inductive Refusal where
  /-- Raised by an arm of exec whose command is not modelled; safe. No arm uses it. -/
  | notModelled (mnemonic : String)
deriving DecidableEq, Repr

def Line.initial : Line :=
  { queue := [], waiting := [], heldFrames := [], sending := none, justSent := none, dropped := 0, lineErrors := 0,
    unknown := 0, malformed := 0, refused := 0, periodStart := 0, periodErrors := 0, ignoring := false }

def QueueStat.zero : QueueStat := ⟨0, 0, 0, 0⟩

def Transfer.initial : Transfer :=
  { ordersP := [], ordersO := [], heldP := [], heldO := [], nextNumber := 1, accepted := 0, carriage := .idle,
    command := none, doneInput := false, placeInput := none, statP := QueueStat.zero, statO := QueueStat.zero,
    notices := [] }

/-- Every block at its power-on values with no image distributed (R20, R46, R70, R94, R114, R132, R152, R165, R186).
(DESIGN CHOICE, log entry 17.) -/
def Zone.initial : Zone :=
  { line := Line.initial
    track := { segments := [], points := [], vehicles := [], deferred := [], claims := 0 }
    stock := { rolls := [], lanes := [], slots := [], watch := [], disagreeing := [], restockAt := 0 }
    transfer := Transfer.initial
    supply := { calls := [], nextCall := 1, retries := [], noStockRaised := [], asked := [] }
    reels := []
    splice := { stands := [], watch := [], pressStop := false }
    folder := { webs := [], eject := false }
    faults := { entries := [], lead := none, level := none }
    agenda := [] }

def RunRecord.zero : RunRecord := ⟨0, 0, Counts.zero, 0⟩

/-- The spoilage counters after power-on reset (R177). -/
def Spoilage.initial : Spoilage :=
  { condition := .idle, edition := ⟨0, Counts.zero⟩, run := RunRecord.zero, lastRun := RunRecord.zero,
    idleCopies := 0, status := Causes.clear, log := Causes.clear, windowCopies := 0, windowWaste := 0,
    lastWindowWaste := 0, heldAlerts := [] }

/-- The station and loader on the release of RESET, before the straps are sampled (R20; DESIGN CHOICE, log entry 1).
(DESIGN CHOICE, log entry 17.) -/
def Loader.initial : Loader :=
  { held := false, station := .start, number := 0, image := none, joinedAt := 0, warm := false,
    restartAnswer := none, inertNext := none }

/-- The part right after power-on reset (R20): zone time 0, START, everything empty; the straps are the operand of
POWER_ON_RESET (DESIGN CHOICE, log entry 1), and no input line is active (DESIGN CHOICE, log entry 2). -/
def State.reset : State :=
  { pending := [], time := 0, loader := Loader.initial, inputs := Inputs.idle, webs := [],
    spoilage := Spoilage.initial, zone := Zone.initial }

end Sys2Proof.Machine
end

