-- ==== Sys2Proof/Machine/Ops.lean ====
section
/-! DEFINITION. Named operations under every block: tables by number, zone time, saturating counts, bytes, the CRC,
place keys and lots. -/

namespace Sys2Proof.Machine

/-! ### Tables by number -/

/-- The entry of a table at a key. -/
def Tbl.get? {α : Type} : Tbl α → Nat → Option α
  | [], _ => none
  | (k, v) :: t, j => if j = k then some v else Tbl.get? t j

/-- Write an entry, keeping the keys in rising order. -/
def Tbl.set {α : Type} : Tbl α → Nat → α → Tbl α
  | [], j, v => [(j, v)]
  | (k, w) :: t, j, v =>
    if j = k then (j, v) :: t else if j < k then (j, v) :: (k, w) :: t else (k, w) :: Tbl.set t j v

/-- Remove the entry at a key. -/
def Tbl.erase {α : Type} : Tbl α → Nat → Tbl α
  | [], _ => []
  | (k, w) :: t, j => if j = k then Tbl.erase t j else (k, w) :: Tbl.erase t j

/-- Change the entry at a key, if there is one. -/
def Tbl.modify {α : Type} : Tbl α → Nat → (α → α) → Tbl α
  | [], _, _ => []
  | (k, w) :: t, j, f => if j = k then (k, f w) :: t else (k, w) :: Tbl.modify t j f

/-- Whether a key has an entry. -/
def Tbl.has {α : Type} (t : Tbl α) (j : Nat) : Bool := (t.get? j).isSome

/-- A line of a pin table: a pin with no entry is inactive. -/
def Tbl.pin (t : Tbl Bool) (j : Nat) : Bool := (t.get? j).getD false

/-- The first free key among 1 to n. -/
def Tbl.freeKey {α : Type} (t : Tbl α) (n : Nat) : Option Nat :=
  (List.range n).findSome? fun i => if t.has (i + 1) then none else some (i + 1)

/-- The keys rise strictly: the one canonical form of a table. -/
def Tbl.sorted {α : Type} : Tbl α → Bool
  | [] => true
  | (k, _) :: t => t.all (fun e => k < e.1) && Tbl.sorted t

/-- The numbers 1 to n. -/
def upTo (n : Nat) : List Nat := (List.range n).map (· + 1)

/-- The entry number k of an image list, counting from 1. -/
def nth {α : Type} (l : List α) (k : Nat) : Option α :=
  match k with
  | 0 => none
  | i + 1 => l[i]?

/-! ### Zone time (0-5) -/

/-- A time q lies after a time p: their difference modulo 2^32 is between 1 and 2^31 − 1 (0-5). -/
def liesAfter (q p : Time) : Bool :=
  1 ≤ (q - p).toNat && (q - p).toNat < 2 ^ 31

/-- A timer that is to expire at e has expired at `now`: now does not lie before e (0-5). -/
def reached (now e : Time) : Bool := !liesAfter e now

/-! ### Counts -/

/-- A count that stops at its maximum (0-5). -/
def satAdd (max a b : Nat) : Nat := min max (a + b)

/-- A 16-bit count that stops at 65,535. -/
def bump16 (a : Nat) : Nat := satAdd Config.max16 a 1

/-- A value clamped to a range takes the nearest end (0-5). -/
def clamp (lo hi v : Nat) : Nat := max lo (min hi v)

/-! ### Bytes, most significant first (11-1) -/

def byte (n : Nat) : Byte := BitVec.ofNat 8 n

/-- The n low bytes of a number, most significant first. -/
def toBytes : Nat → Nat → List Byte
  | 0, _ => []
  | n + 1, v => byte (v / 256 ^ n) :: toBytes n v

/-- The number that bytes spell, most significant first. -/
def fromBytes (bs : List Byte) : Nat := bs.foldl (fun a b => a * 256 + b.toNat) 0

def bytes16 (w : BitVec 16) : List Byte := [w.extractLsb' 8 8, w.extractLsb' 0 8]
def bytes24 (w : BitVec 24) : List Byte := [w.extractLsb' 16 8, w.extractLsb' 8 8, w.extractLsb' 0 8]
def bytes32 (w : BitVec 32) : List Byte :=
  [w.extractLsb' 24 8, w.extractLsb' 16 8, w.extractLsb' 8 8, w.extractLsb' 0 8]

def word16 (a b : Byte) : BitVec 16 := a ++ b
def word24 (a b c : Byte) : BitVec 24 := a ++ b ++ c
def word32 (a b c d : Byte) : BitVec 32 := a ++ b ++ c ++ d

/-! ### CRC-16 (R189) -/

/-- One bit entering the CRC register. -/
def crcBit (reg : BitVec 16) (bit : Bool) : BitVec 16 :=
  if xor bit reg.msb then (reg <<< 1) ^^^ 0x1021#16 else reg <<< 1

/-- One byte entering the register, its most significant bit first. -/
def crcByte (reg : BitVec 16) (b : Byte) : BitVec 16 :=
  [7, 6, 5, 4, 3, 2, 1, 0].foldl (fun r i => crcBit r (b.getLsbD i)) reg

/-- The CRC of a run of bytes: start value 0xFFFF, polynomial 0x1021, no reversal and no final XOR. -/
def crc16 (bs : List Byte) : BitVec 16 := bs.foldl crcByte 0xFFFF#16

end Sys2Proof.Machine

namespace Sys2Proof

/-! ### Arms and places -/

def Arm.other : Arm → Arm
  | .a => .b
  | .b => .a

/-- The two-byte code of a place as one number, type in the high byte (Table 11-1-1): the key of the place, rising in
the order of the table. -/
def Place.key : Place → Nat
  | .lane l p => 256 + l * 16 + p
  | .arm r .a => 512 + r * 16 + 1
  | .arm r .b => 512 + r * 16 + 2
  | .vehicle s => 768 + s
  | .carriage => 1024
  | .dock d => 1280 + d

end Sys2Proof

namespace Sys2Proof.Machine

/-- The place that a roll table key stands for. -/
def placeOfKey (k : Nat) : Option Place :=
  if k / 256 = 1 then some (.lane (k % 256 / 16) (k % 16))
  else if k / 256 = 2 then
    (if k % 16 = 1 then some (.arm (k % 256 / 16) .a)
     else if k % 16 = 2 then some (.arm (k % 256 / 16) .b) else none)
  else if k / 256 = 3 then some (.vehicle (k % 256))
  else if k = 1024 then some .carriage
  else if k / 256 = 5 then some (.dock (k % 256))
  else none

/-- The first serial of a roll's lot: the serial with its low 8 bits 0 (0-5). -/
def lotFirst (s : Serial) : Serial := s &&& 0xFFFFFF00#32

/-- The last serial of a roll's lot. -/
def lotLast (s : Serial) : Serial := s ||| 0x000000FF#32

end Sys2Proof.Machine
end

