-- ==== Sys2Proof/Machine/Operands.lean ====
section
/-! DEFINITION. Operand forms: the numbering of enumerated fields (R187), place codes (Table 11-1-1), and the ranges
and clamps of field values (R190, R191). -/

namespace Sys2Proof.Machine

/-! ### Enumerated fields: the position in the defining list, counting from 1; NONE is 0 (R187) -/

def armCode : Option Arm → Nat
  | none => 0
  | some .a => 1
  | some .b => 2

def DockRole.code : DockRole → Nat
  | .loading => 1
  | .receiving => 2
  | .parking => 3
  | .scrap => 4

def LaneMode.code : LaneMode → Nat
  | .through => 1
  | .pick => 2

def LaneRole.code : LaneRole → Nat
  | .stock => 1
  | .staging => 2
  | .butt => 3

def VehState.code : VehState → Nat
  | .moving => 1
  | .held => 2
  | .docked => 3
  | .parked => 4
  | .passing => 5
  | .stranded => 6
  | .incoming => 7

def Purpose.code : Purpose → Nat
  | .ship .. => 1
  | .returnTo _ => 2
  | .home => 3
  | .fetch _ => 4
  | .none => 0

def HandOver.code : HandOver → Nat
  | .none => 0
  | .offered => 1
  | .deferred => 2
  | .timedOut => 3
  | .accepted => 4

def SegState.code : SegState → Nat
  | .free => 1
  | .granted _ => 2
  | .occupied _ => 3
  | .reserved _ => 4
  | .blocked => 5

def SegState.vehicle : SegState → Nat
  | .granted v => v
  | .occupied v => v
  | .reserved v => v
  | _ => 0

def RollState.code : RollState → Nat
  | .stock => 1
  | .reserved => 2
  | .standby => 3
  | .running => 4
  | .butt => 5
  | .inTransfer => 6
  | .shipping => 7

def SlotOrigin.code : SlotOrigin → Nat
  | .image => 1
  | .terminal => 2
  | .alert _ => 3

def Queue.code : Queue → Nat
  | .p => 1
  | .o => 2

def Origin.code : Origin → Nat
  | .callLoad => 1
  | .localLoad => 2
  | .buttClear => 3
  | .ship => 4
  | .receive => 5
  | .operator => 6

def Reason.code : Reason → Nat
  | .stepLimit => 1
  | .holdLimit => 2
  | .underrun => 3
  | .duplicate => 4
  | .laneOut => 5
  | .withdrawn => 6

def Carriage.code : Carriage → Nat
  | .idle => 1
  | .running _ => 2
  | .halted _ => 3

/-- The two motion lines of the carriage command outputs (1-7). -/
def Motion.code : Motion → Nat
  | .travel => 1
  | .pick => 2
  | .set => 3

def Urgency.code : Urgency → Nat
  | .runout => 1
  | .routine => 2

def CallState.code : CallState → Nat
  | .localService => 1
  | .collecting => 2
  | .taking => 3
  | .confirmed => 4
  | .delivered => 5
  | .noStock => 6
  | .withdrawn => 7

def MeasState.code : MeasState → Nat
  | .noRoll => 1
  | .seeded => 2
  | .measuring => 3
  | .deadReckoning => 4

def Seed.code : Seed → Nat
  | .fromRecord => 1
  | .unseeded => 2

def SpliceState.code : SpliceState → Nat
  | .empty => 1
  | .single => 2
  | .loaded => 3
  | .prepared => 4
  | .accelerating => 5
  | .matched => 6
  | .pasting => 7
  | .cutting => 8
  | .spliceFailed => 9

def Disposal.code : Disposal → Nat
  | .own => 1
  | .line => 2
  | .unattributed => 3
  | .none => 0

def PressCondition.code : PressCondition → Nat
  | .idle => 1
  | .makeready => 2
  | .production => 3
  | .broken => 4
  | .changeover => 5

def Severity.code : Severity → Nat
  | .notice => 1
  | .degrading => 2
  | .stopping => 3

/-- The class index of 10-1. -/
def FaultClass.index : FaultClass → Nat
  | .track => 1
  | .transfer => 2
  | .splice => 3
  | .measure => 4
  | .supply => 5
  | .line => 6
  | .quality => 7

/-! ### Places on the line (Table 11-1-1, R190) -/

end Sys2Proof.Machine

namespace Sys2Proof

/-- The two bytes of a place. -/
def Place.encode (p : Place) : PlaceCode := ⟨Machine.byte (p.key / 256), Machine.byte (p.key % 256)⟩

/-- The place that two bytes name; none where the type or a value lies outside the numbering of 0-5 (R190). -/
def PlaceCode.decode (c : PlaceCode) : Option Place :=
  let hi := c.value.toNat / 16
  let lo := c.value.toNat % 16
  let v := c.value.toNat
  match c.type.toNat with
  | 1 => if 1 ≤ hi ∧ hi ≤ 8 ∧ 1 ≤ lo ∧ lo ≤ 4 then some (.lane hi lo) else none
  | 2 =>
    if 1 ≤ hi ∧ hi ≤ 4 then
      (if lo = 1 then some (.arm hi .a) else if lo = 2 then some (.arm hi .b) else none)
    else none
  | 3 => if 1 ≤ v ∧ v ≤ 8 then some (.vehicle v) else none
  | 4 => if v = 0 then some .carriage else none
  | 5 => if 1 ≤ v ∧ v ≤ 12 then some (.dock v) else none
  | _ => none

end Sys2Proof

namespace Sys2Proof.Machine

/-! ### Ranges -/

/-- A station number, 1 to 30 (0-5). -/
def stationOk (n : Nat) : Bool := 1 ≤ n && n ≤ 30

/-- A vehicle number, 1 to 63 (0-5). -/
def vehicleOk (n : Nat) : Bool := 1 ≤ n && n ≤ 63

def clampWidth (n : Nat) : Nat := clamp 200 2600 n
def clampCaliper (n : Nat) : Nat := clamp 40 150 n
def clampLength (n : Nat) : Nat := min 99999 n
def clampGrade (n : Nat) : Nat := max 1 n
def clampEstimate (n : Nat) : Nat := min 65534 n
def clampBreaks (n : Nat) : Nat := min 7 n

/-- The roll state of a code (Table 3-1-2). -/
def rollStateOf (n : Nat) : Option RollState :=
  [RollState.stock, .reserved, .standby, .running, .butt, .inTransfer, .shipping].find? (fun s => s.code = n)

/-! ### The zone make-up -/

def Image.segment? (i : Image) (k : Nat) : Option SegCfg := nth i.segments k
def Image.dock? (i : Image) (d : Nat) : Option DockCfg := nth i.docks d
def Image.lane? (i : Image) (l : Nat) : Option LaneCfg := nth i.lanes l
def Image.reel? (i : Image) (r : Nat) : Option ReelCfg := nth i.reels r

/-- The lowest-numbered dock of a role (R22). -/
def Image.firstDock (i : Image) (role : DockRole) : Option Nat :=
  (upTo i.docks.length).find? fun d => (i.dock? d).any (fun c => c.role = role)

def Image.loadingDock (i : Image) : Option Nat := i.firstDock .loading
def Image.receivingDock (i : Image) : Option Nat := i.firstDock .receiving

/-- A place lies in the zone make-up (R48). -/
def Image.hasPlace (i : Image) : Place → Bool
  | .lane l p => (i.lane? l).any fun c => 1 ≤ p && p ≤ c.positions
  | .arm r _ => (i.reel? r).isSome
  | .vehicle s => 1 ≤ s && s ≤ Config.vehicleSlots
  | .carriage => true
  | .dock d => (i.dock? d).isSome

/-- The lanes with their numbers. -/
def Image.laneNumbers (i : Image) : List Nat := upTo i.lanes.length

/-- The exit table entry for a station (R24); of two for one station the first in image order. (DESIGN CHOICE, log entry 69.) -/
def Image.exit? (i : Image) (station : Nat) : Option ExitCfg := i.exits.find? fun e => e.station = station

end Sys2Proof.Machine
end

