-- ==== Sys2Proof/Machine/Frames.lean ====
section
/-! DEFINITION. The hall line's frames (Chapter 1, Chapter 11): kinds and classes, body layouts both ways, the whole
frame with its CRC, and the line check. -/

namespace Sys2Proof.Machine

/-- Frame classes (Table 1-1-1). -/
inductive FrameClass where
  | protocol
  | terminal
  | console
  | report
deriving DecidableEq, Repr

/-- Frame kinds (Table 11-2-1). -/
inductive Kind where
  | rollCall
  | rollOffer
  | rollTake
  | takeAnswer
  | callWithdraw
  | passOffer
  | passAccept
  | passDefer
  | passDone
  | rollWaste
  | lotAlert
  | rollEntry
  | rollRemove
  | orderRequest
  | laneService
  | quarantineSet
  | quarantineClear
  | segmentRelease
  | spliceNow
  | faultAck
  | logClear
  | reportRequest
  | zoneRestart
  | pressState
  | requestAnswer
  | zoneReport
  | faultReport
deriving DecidableEq, Repr

def allKinds : List Kind :=
  [.rollCall, .rollOffer, .rollTake, .takeAnswer, .callWithdraw, .passOffer, .passAccept, .passDefer, .passDone,
   .rollWaste, .lotAlert, .rollEntry, .rollRemove, .orderRequest, .laneService, .quarantineSet, .quarantineClear,
   .segmentRelease, .spliceNow, .faultAck, .logClear, .reportRequest, .zoneRestart, .pressState, .requestAnswer,
   .zoneReport, .faultReport]

/-- The kind byte (Table 11-2-1). -/
def Kind.code : Kind → Byte
  | .rollCall => 0x11
  | .rollOffer => 0x12
  | .rollTake => 0x13
  | .takeAnswer => 0x14
  | .callWithdraw => 0x15
  | .passOffer => 0x16
  | .passAccept => 0x17
  | .passDefer => 0x18
  | .passDone => 0x19
  | .rollWaste => 0x1A
  | .lotAlert => 0x1B
  | .rollEntry => 0x21
  | .rollRemove => 0x22
  | .orderRequest => 0x23
  | .laneService => 0x24
  | .quarantineSet => 0x25
  | .quarantineClear => 0x26
  | .segmentRelease => 0x27
  | .spliceNow => 0x28
  | .faultAck => 0x29
  | .logClear => 0x2A
  | .reportRequest => 0x2B
  | .zoneRestart => 0x2C
  | .pressState => 0x31
  | .requestAnswer => 0x41
  | .zoneReport => 0x42
  | .faultReport => 0x43

/-- The kind of a kind byte, none for a byte that is no kind of Table 1-1-1. -/
def kindOf (b : Byte) : Option Kind := allKinds.find? fun k => k.code = b

/-- The class of a kind (Table 1-1-1). -/
def Kind.cls : Kind → FrameClass
  | .rollCall | .rollOffer | .rollTake | .takeAnswer | .callWithdraw | .passOffer | .passAccept | .passDefer
  | .passDone | .rollWaste | .lotAlert => .protocol
  | .pressState => .console
  | .requestAnswer | .zoneReport | .faultReport => .report
  | _ => .terminal

/-- The body lengths allowed for a kind (Table 11-2-1, R188). -/
def Kind.lengthOk (k : Kind) (n : Nat) : Bool :=
  match k with
  | .rollCall => n = 8
  | .rollOffer => n = 11
  | .rollTake => n = 7
  | .takeAnswer => n = 6
  | .callWithdraw => n = 1
  | .passOffer => n = 24
  | .passAccept => n = 2
  | .passDefer => n = 2
  | .passDone => n = 2
  | .rollWaste => n = 6
  | .lotAlert => n = 8
  | .rollEntry => n = 13
  | .rollRemove => n = 6
  | .orderRequest => n = 9
  | .laneService => n = 2
  | .quarantineSet => n = 9
  | .quarantineClear => n = 1
  | .segmentRelease => n = 1
  | .spliceNow => n = 1
  | .faultAck => n = 0
  | .logClear => n = 0
  | .reportRequest => n = 3
  | .zoneRestart => n = 0
  | .pressState => n = 5
  | .requestAnswer => n = 8
  | .zoneReport => 4 ≤ n && n ≤ 24
  | .faultReport => n = 24

/-- The kind of a body. -/
def bodyKind : Body → Kind
  | .rollCall .. => .rollCall
  | .rollOffer .. => .rollOffer
  | .rollTake .. => .rollTake
  | .takeAnswer .. => .takeAnswer
  | .callWithdraw .. => .callWithdraw
  | .passOffer .. => .passOffer
  | .passAccept .. => .passAccept
  | .passDefer .. => .passDefer
  | .passDone .. => .passDone
  | .rollWaste .. => .rollWaste
  | .lotAlert .. => .lotAlert
  | .rollEntry .. => .rollEntry
  | .rollRemove .. => .rollRemove
  | .orderRequest .. => .orderRequest
  | .laneService .. => .laneService
  | .quarantineSet .. => .quarantineSet
  | .quarantineClear .. => .quarantineClear
  | .segmentRelease .. => .segmentRelease
  | .spliceNow .. => .spliceNow
  | .faultAck => .faultAck
  | .logClear => .logClear
  | .reportRequest .. => .reportRequest
  | .zoneRestart => .zoneRestart
  | .pressState .. => .pressState
  | .requestAnswer .. => .requestAnswer
  | .zoneReport .. => .zoneReport
  | .faultReport .. => .faultReport

def bytesPlace (c : PlaceCode) : List Byte := [c.type, c.value]

/-- The 7 bytes of the vehicle part and the 17 of the roll part of a PASS OFFER (11-2). -/
def bytesPassVehicle (v : PassVehicle) : List Byte :=
  [v.number, v.home, v.target, v.purpose, v.field1, v.field2, v.field3]

def bytesPassRoll (r : PassRoll) : List Byte :=
  [r.load] ++ bytes32 r.serial ++ [r.state, r.grade] ++ bytes16 r.width ++ [r.caliper] ++ bytes24 r.remaining ++
    [r.breaks, r.defect] ++ bytes16 r.waste

/-- The body bytes of a frame, fields in the order of Tables 11-2-2 and 11-2-3. -/
def encodeBody : Body → List Byte
  | .rollCall c u g w m => [c, u, g] ++ bytes16 w ++ bytes24 m
  | .rollOffer c s m e f => [c] ++ bytes32 s ++ bytes24 m ++ bytes16 e ++ [f]
  | .rollTake c s u d => [c] ++ bytes32 s ++ [u, d]
  | .takeAnswer c s r => [c] ++ bytes32 s ++ [r]
  | .callWithdraw c => [c]
  | .passOffer v r => bytesPassVehicle v ++ bytesPassRoll r
  | .passAccept v k => [v, k]
  | .passDefer v k => [v, k]
  | .passDone v k => [v, k]
  | .rollWaste s m => bytes32 s ++ bytes16 m
  | .lotAlert l s => bytes32 l ++ bytes32 s
  | .rollEntry p s g w c m => bytesPlace p ++ bytes32 s ++ [g] ++ bytes16 w ++ [c] ++ bytes24 m
  | .rollRemove s p => bytes32 s ++ bytesPlace p
  | .orderRequest q s a b => [q] ++ bytes32 s ++ bytesPlace a ++ bytesPlace b
  | .laneService l d => [l, d]
  | .quarantineSet s b l => [s] ++ bytes32 b ++ bytes32 l
  | .quarantineClear s => [s]
  | .segmentRelease k => [k]
  | .spliceNow r => [r]
  | .faultAck => []
  | .logClear => []
  | .reportRequest p i n => [p, i, n]
  | .zoneRestart => []
  | .pressState k r e => [k] ++ bytes16 r ++ bytes16 e
  | .requestAnswer k r ref => [k, r] ++ toBytes 6 ref.toNat
  | .zoneReport p i n c d => [p, i, n, c] ++ d
  | .faultReport e l v => toBytes 15 e.toNat ++ toBytes 8 l.toNat ++ [v]

/-- The body that bytes of a kind spell; none where the length is not one of the kind (R188). -/
def decodeBody (k : Kind) (bs : List Byte) : Option Body :=
  match k, bs with
  | .rollCall, [c, u, g, w1, w0, m2, m1, m0] => some (.rollCall c u g (word16 w1 w0) (word24 m2 m1 m0))
  | .rollOffer, [c, s3, s2, s1, s0, m2, m1, m0, e1, e0, f] =>
    some (.rollOffer c (word32 s3 s2 s1 s0) (word24 m2 m1 m0) (word16 e1 e0) f)
  | .rollTake, [c, s3, s2, s1, s0, u, d] => some (.rollTake c (word32 s3 s2 s1 s0) u d)
  | .takeAnswer, [c, s3, s2, s1, s0, r] => some (.takeAnswer c (word32 s3 s2 s1 s0) r)
  | .callWithdraw, [c] => some (.callWithdraw c)
  | .passOffer, [v0, v1, v2, v3, v4, v5, v6, ld, s3, s2, s1, s0, st, g, w1, w0, c, m2, m1, m0, b, d, x1, x0] =>
    some (.passOffer ⟨v0, v1, v2, v3, v4, v5, v6⟩
      ⟨ld, word32 s3 s2 s1 s0, st, g, word16 w1 w0, c, word24 m2 m1 m0, b, d, word16 x1 x0⟩)
  | .passAccept, [v, s] => some (.passAccept v s)
  | .passDefer, [v, s] => some (.passDefer v s)
  | .passDone, [v, s] => some (.passDone v s)
  | .rollWaste, [s3, s2, s1, s0, m1, m0] => some (.rollWaste (word32 s3 s2 s1 s0) (word16 m1 m0))
  | .lotAlert, [l3, l2, l1, l0, s3, s2, s1, s0] =>
    some (.lotAlert (word32 l3 l2 l1 l0) (word32 s3 s2 s1 s0))
  | .rollEntry, [p1, p0, s3, s2, s1, s0, g, w1, w0, c, m2, m1, m0] =>
    some (.rollEntry ⟨p1, p0⟩ (word32 s3 s2 s1 s0) g (word16 w1 w0) c (word24 m2 m1 m0))
  | .rollRemove, [s3, s2, s1, s0, p1, p0] => some (.rollRemove (word32 s3 s2 s1 s0) ⟨p1, p0⟩)
  | .orderRequest, [q, s3, s2, s1, s0, a1, a0, b1, b0] =>
    some (.orderRequest q (word32 s3 s2 s1 s0) ⟨a1, a0⟩ ⟨b1, b0⟩)
  | .laneService, [l, d] => some (.laneService l d)
  | .quarantineSet, [s, b3, b2, b1, b0, l3, l2, l1, l0] =>
    some (.quarantineSet s (word32 b3 b2 b1 b0) (word32 l3 l2 l1 l0))
  | .quarantineClear, [s] => some (.quarantineClear s)
  | .segmentRelease, [s] => some (.segmentRelease s)
  | .spliceNow, [r] => some (.spliceNow r)
  | .faultAck, [] => some .faultAck
  | .logClear, [] => some .logClear
  | .reportRequest, [p, i, n] => some (.reportRequest p i n)
  | .zoneRestart, [] => some .zoneRestart
  | .pressState, [k, r1, r0, e1, e0] => some (.pressState k (word16 r1 r0) (word16 e1 e0))
  | .requestAnswer, k :: r :: ref =>
    if ref.length = 6 then some (.requestAnswer k r (BitVec.ofNat 48 (fromBytes ref))) else none
  | .zoneReport, p :: i :: n :: c :: d => if d.length ≤ 20 then some (.zoneReport p i n c d) else none
  | .faultReport, bs =>
    if bs.length = 24 then
      some (.faultReport (BitVec.ofNat 120 (fromBytes (bs.take 15)))
        (BitVec.ofNat 64 (fromBytes ((bs.drop 15).take 8))) (bs.getD 23 0))
    else none
  | _, _ => none

/-- A frame on the line (1-1, R189): start byte, sender, addressee, kind, length, body, CRC high byte first. -/
def encodeFrame (sender : Nat) (f : TxFrame) : List Byte :=
  let body := encodeBody f.body
  let covered := [byte sender, byte f.dest, (bodyKind f.body).code, byte body.length] ++ body
  [0xA5#8] ++ covered ++ bytes16 (crc16 covered)

/-- What the line check makes of the bytes heard (R6, R188). -/
inductive Heard where
  | nothing
  | badStart
  | failed
  | frame (f : RawFrame)
deriving DecidableEq, Repr

/-- The line check (R6, R188): start byte, length at most 24, all bytes there before the line fell quiet, every stop
bit, the CRC over sender to last body byte. A bad start byte is one line error, and bytes heard after the CRC before the
line is quiet are neither an error nor a frame. (DEDUCED, log entry 10.) -/
def lineCheck (heard : List HeardByte) : Heard :=
  match heard with
  | [] => .nothing
  | s :: rest =>
    if s.value ≠ 0xA5#8 then .badStart
    else
      match rest with
      | snd :: adr :: knd :: len :: tail =>
        let n := len.value.toNat
        let body := tail.take n
        let crc := (tail.drop n).take 2
        let covered := snd :: adr :: knd :: len :: body
        if n ≤ 24 ∧ body.length = n ∧ crc.length = 2 ∧ (s :: covered ++ crc).all (·.stopBit) ∧
            bytes16 (crc16 (covered.map (·.value))) = crc.map (·.value) then
          .frame ⟨snd.value, adr.value, knd.value, body.map (·.value)⟩
        else .failed
      | _ => .failed

end Sys2Proof.Machine
end

