-- ==== Sys2Proof/Machine/ImageCheck.lean ====
section
/-! DEFINITION. Reading and checking the configuration image (1-6, R12, R193). -/

namespace Sys2Proof.Machine

/-- n bytes of the serial memory at an offset as a number; a byte that does not answer reads as all ones (R12). -/
def readMem (m : List Byte) (at' n : Nat) : Nat :=
  fromBytes ((List.range n).map fun i => m.getD (at' + i) 0xFF#8)

/-- The counts of the image (R193). -/
structure ImageCounts where
  segments : Nat
  points : Nat
  docks : Nat
  lanes : Nat
  reels : Nat
  boundary : Nat
  exits : Nat
  locked : Nat
deriving DecidableEq, Repr

def imageCounts (m : List Byte) : ImageCounts :=
  ⟨readMem m 3 1, readMem m 4 1, readMem m 5 1, readMem m 6 1, readMem m 7 1, readMem m 8 1, readMem m 9 1,
   readMem m 10 1⟩

/-- Offsets of the blocks whose size depends on the counts (Table 11-4-1); the fixed blocks before them take 57. -/
def segmentsAt : Nat := 57
def pointsAt (c : ImageCounts) : Nat := segmentsAt + 8 * c.segments
def docksAt (c : ImageCounts) : Nat := pointsAt c + c.points
def boundaryAt (c : ImageCounts) : Nat := docksAt c + 2 * c.docks
def exitsAt (c : ImageCounts) : Nat := boundaryAt c + 2 * c.boundary
def lanesAt (c : ImageCounts) : Nat := exitsAt c + 4 * c.exits
def reelsAt (c : ImageCounts) : Nat := lanesAt c + 7 * c.lanes
def lockedAt (c : ImageCounts) : Nat := reelsAt c + 16 * c.reels

/-- The size that the counts give, with the CRC (R193). -/
def imageSize (c : ImageCounts) : Nat := lockedAt c + 8 * c.locked + 2

def readSegment (m : List Byte) (o : Nat) : SegCfg :=
  { transit := readMem m o 2
    succ1 := ⟨readMem m (o + 2) 1, readMem m (o + 3) 1⟩
    succ2 := ⟨readMem m (o + 4) 1, readMem m (o + 5) 1⟩
    points := readMem m (o + 6) 1
    dock := readMem m (o + 7) 1 }

def readDock (m : List Byte) (o : Nat) : DockCfg :=
  { segment := readMem m o 1
    role := match readMem m (o + 1) 1 with
      | 1 => .loading
      | 2 => .receiving
      | 3 => .parking
      | _ => .scrap }

def readLane (m : List Byte) (o : Nat) : LaneCfg :=
  { mode := if readMem m o 1 = 1 then .through else .pick
    positions := readMem m (o + 1) 1
    role := match readMem m (o + 2) 1 with
      | 1 => .stock
      | 2 => .staging
      | _ => .butt
    grade := readMem m (o + 3) 1
    width := readMem m (o + 4) 2
    low := readMem m (o + 6) 1 }

def readReel (m : List Byte) (o : Nat) : ReelCfg :=
  { core := readMem m o 2
    splice := readMem m (o + 2) 2
    margin := readMem m (o + 4) 2
    caliper := readMem m (o + 6) 1
    lead := readMem m (o + 7) 2
    horizon := readMem m (o + 9) 2
    path := readMem m (o + 11) 4
    webInUse := readMem m (o + 15) 1 = 1 }

/-- The image's values as the blocks use them (R193). -/
def readImage (m : List Byte) : Image :=
  let c := imageCounts m
  { segments := (List.range c.segments).map fun i => readSegment m (segmentsAt + 8 * i)
    points := (List.range c.points).map fun i => readMem m (pointsAt c + i) 1
    docks := (List.range c.docks).map fun i => readDock m (docksAt c + 2 * i)
    boundary := (List.range c.boundary).map fun i =>
      ⟨readMem m (boundaryAt c + 2 * i) 1, readMem m (boundaryAt c + 2 * i + 1) 1⟩
    exits := (List.range c.exits).map fun i =>
      let o := exitsAt c + 4 * i
      ⟨readMem m o 1, readMem m (o + 1) 1, readMem m (o + 2) 1, readMem m (o + 3) 1⟩
    lanes := (List.range c.lanes).map fun i => readLane m (lanesAt c + 7 * i)
    reels := (List.range c.reels).map fun i => readReel m (reelsAt c + 16 * i)
    locked := (List.range c.locked).map fun i =>
      (BitVec.ofNat 32 (readMem m (lockedAt c + 8 * i) 4), BitVec.ofNat 32 (readMem m (lockedAt c + 8 * i + 4) 4))
    meanTransit := readMem m 11 2
    transferTime := readMem m 13 2
    penalty := readMem m 15 2
    minLength := readMem m 17 3
    cutoff := readMem m 20 2
    ejectCount := readMem m 22 1
    rateX := readMem m 23 1
    rateY := readMem m 24 1
    rateM := readMem m 25 2
    lotThreshold := readMem m 27 1
    level := readMem m 28 1
    console := readMem m 29 1
    permission := ((List.range 4).map fun i => readMem m (30 + i) 1).filter (· ≠ 0)
    queueB := readMem m 34 1
    resume := if readMem m 35 1 = 1 then .resumeStep else .restartOrder
    acceptAlerts := readMem m 36 1 = 1
    buttReturn := readMem m 37 1
    polarity := (List.range 19).map fun i => m.getD (38 + i) 0xFF#8 }

/-- A value of the image with its byte offset and whether it lies in its range and meets its relations. -/
abbrev ValueCheck := Nat × Bool

def between (lo hi v : Nat) : Bool := lo ≤ v && v ≤ hi

/-- The counts against the part's limits (R12). The limits of the exit table and of the locked ranges are those of
the largest make-up, 493 bytes (R193; DESIGN CHOICE, log entry 12). -/
def countChecks (c : ImageCounts) : List ValueCheck :=
  [(3, between 1 16 c.segments), (4, c.points ≤ 6), (5, c.docks ≤ 12), (6, c.lanes ≤ 8), (7, c.reels ≤ 4),
   (8, c.boundary ≤ 4), (9, c.exits ≤ 29), (10, c.locked ≤ 4)]

/-- The permission entry number i: a station or 0, not the own number, distinct from the entries before it (R12). -/
def permissionCheck (m : List Byte) (own i : Nat) : ValueCheck :=
  let v := readMem m (30 + i) 1
  (30 + i, v ≤ 30 && v ≠ own && (v = 0 || (List.range i).all fun j => readMem m (30 + j) 1 ≠ v))

/-- The constants and the permission list (R12). The flag bytes accept-alerts and web in use hold 0 or 1; another value
fails. (DESIGN CHOICE, log entry 12.) -/
def constantChecks (m : List Byte) (own : Nat) : List ValueCheck :=
  ([(17, readMem m 17 3 ≤ 99999), (20, between 400 700 (readMem m 20 2)), (22, between 1 20 (readMem m 22 1)),
   (23, readMem m 23 1 ≤ 3), (24, between 2 12 (readMem m 24 1)), (27, readMem m 27 1 ≤ 3),
   (28, readMem m 28 1 ≤ 3), (29, readMem m 29 1 ≤ 30 && readMem m 29 1 ≠ own)] : List ValueCheck) ++
  (List.range 4).map (permissionCheck m own) ++
  ([(34, between 4 12 (readMem m 34 1)), (35, between 1 2 (readMem m 35 1)), (36, readMem m 36 1 ≤ 1),
   (37, readMem m 37 1 ≤ 30)] : List ValueCheck)

/-- A successor: local within the segment count, or a segment 1 to 16 of a station 1 to 30 (R12, R21). -/
def succOk (segments : Nat) (s : Succ) : Bool :=
  if s.station = 0 then s.segment ≤ segments else between 1 16 s.segment

/-- A segment (R12, R21). Segment 0 passes as a local successor 1, as R12 limits numbers other than 0 only.
(DESIGN CHOICE, log entry 12.) -/
def segmentChecks (m : List Byte) (c : ImageCounts) (i : Nat) : List ValueCheck :=
  let o := segmentsAt + 8 * i
  let s := readSegment m o
  let two : Bool := s.succ2 ≠ ⟨0, 0⟩
  [(o, between 10 600 s.transit), (o + 2, s.succ1.station ≤ 30), (o + 3, succOk c.segments s.succ1),
   (o + 4, s.succ2.station ≤ 30), (o + 5, succOk c.segments s.succ2),
   (o + 6, s.points ≤ c.points && (two == (s.points ≠ 0 : Bool))), (o + 7, s.dock ≤ c.docks)]

/-- A dock (R12, R22). Segment 0 passes for every role, and a SCRAP dock with a segment passes; that segment has no use.
(DESIGN CHOICE, log entry 12.) -/
def dockChecks (m : List Byte) (c : ImageCounts) (i : Nat) : List ValueCheck :=
  let o := docksAt c + 2 * i
  [(o, readMem m o 1 ≤ c.segments), (o + 1, between 1 4 (readMem m (o + 1) 1))]

/-- A boundary entry (R12); one with segment 0 passes, and an offer for it waits, its target never FREE. (DESIGN CHOICE, log entry 12.) -/
def boundaryChecks (m : List Byte) (c : ImageCounts) (i : Nat) : List ValueCheck :=
  let o := boundaryAt c + 2 * i
  [(o, stationOk (readMem m o 1)), (o + 1, readMem m (o + 1) 1 ≤ c.segments)]

/-- The exit entry names a boundary exit: a successor of a neighbour station (R12). -/
def exitNamesBoundary (m : List Byte) (segment index : Nat) : Bool :=
  let s := readSegment m (segmentsAt + 8 * (segment - 1))
  segment ≠ 0 && (index = 1 && s.succ1.station ≠ 0 || index = 2 && s.succ2.station ≠ 0)

def exitChecks (m : List Byte) (c : ImageCounts) (i : Nat) : List ValueCheck :=
  let o := exitsAt c + 4 * i
  [(o, stationOk (readMem m o 1)), (o + 1, readMem m (o + 1) 1 ≤ c.segments),
   (o + 2, exitNamesBoundary m (readMem m (o + 1) 1) (readMem m (o + 2) 1))]

/-- A lane (R12). Grade, width and low mark are those of a STAGING lane; in another lane they are not checked.
(DESIGN CHOICE, log entry 12.) -/
def laneChecks (m : List Byte) (c : ImageCounts) (i : Nat) : List ValueCheck :=
  let o := lanesAt c + 7 * i
  let staging : Bool := readMem m (o + 2) 1 = 2
  [(o, between 1 2 (readMem m o 1)), (o + 1, between 1 4 (readMem m (o + 1) 1)),
   (o + 2, between 1 3 (readMem m (o + 2) 1)), (o + 3, !staging || 1 ≤ readMem m (o + 3) 1),
   (o + 4, !staging || between 200 2600 (readMem m (o + 4) 2)), (o + 6, !staging || readMem m (o + 6) 1 ≤ 4)]

/-- A reelstand: Cc ≤ Cm < Cs, Cs at least Cc + 50, H at least A + 600 (R12), path 5,000 to 200,000 mm (8-1), web in use 0 or 1.
(DESIGN CHOICE, log entry 12.) -/
def reelChecks (m : List Byte) (c : ImageCounts) (i : Nat) : List ValueCheck :=
  let o := reelsAt c + 16 * i
  let r := readReel m o
  [(o + 2, r.core + 50 ≤ r.splice), (o + 4, r.core ≤ r.margin && r.margin < r.splice),
   (o + 6, between 40 150 r.caliper), (o + 9, r.lead + 600 ≤ r.horizon), (o + 11, between 5000 200000 r.path),
   (o + 15, readMem m (o + 15) 1 ≤ 1)]

/-- A zone with reelstands provides one of the three butt destinations of R76. -/
def buttDestinationOk (i : Image) : Bool :=
  i.reels.isEmpty || (i.buttReturn ≠ 0 && i.loadingDock.isSome) || i.lanes.any (fun l => l.role = .butt) ||
    i.docks.any fun d => d.role = .scrap

/-- Stage 4 in image order, the length first (R12, R193). (DESIGN CHOICE, log entry 12.) -/
def rangeChecks (m : List Byte) (own : Nat) : List ValueCheck :=
  let c := imageCounts m
  let len := readMem m 0 2
  ([(0, len = imageSize c)] : List ValueCheck) ++ countChecks c ++ constantChecks m own ++
    (List.range c.segments).flatMap (segmentChecks m c) ++
    (List.range c.points).map (fun i => ((pointsAt c + i, readMem m (pointsAt c + i) 1 ≤ c.segments) : ValueCheck)) ++
    (List.range c.docks).flatMap (dockChecks m c) ++
    (List.range c.boundary).flatMap (boundaryChecks m c) ++
    (List.range c.exits).flatMap (exitChecks m c) ++
    (List.range c.lanes).flatMap (laneChecks m c) ++
    (List.range c.reels).flatMap (reelChecks m c) ++
    ([(Config.buttDestinationOffset len, buttDestinationOk (readImage m))] : List ValueCheck)

/-- What the image check finds: the good image, or the stage that failed and for stage 4 the offset (R12). -/
inductive ImageFound where
  | good (i : Image)
  | bad (stage : Nat) (offset : Option Nat)
deriving DecidableEq, Repr

/-- The four stages of R12, stopping at the first that fails. -/
def checkImage (m : List Byte) (own : Nat) : ImageFound :=
  let len := readMem m 0 2
  if len < Config.imageMin ∨ Config.imageMax < len then .bad 1 none
  else if (crc16 ((List.range (len - 2)).map fun i => m.getD i 0xFF#8)).toNat ≠ readMem m (len - 2) 2 then
    .bad 2 none
  else if readMem m 2 1 ≠ Config.imageFormat then .bad 3 none
  else
    match (rangeChecks m own).find? (fun v => !v.2) with
    | some v => .bad 4 (some v.1)
    | none => .good (readImage m)

end Sys2Proof.Machine
end

