-- ==== Sys2Proof/Machine/Line.lean ====
section
/-! DEFINITION. What every block uses of the line interface and of the fault record: offering a frame (R4, R5),
answering a request (R10), recording and reporting a fault (R179 to R184). -/

namespace Sys2Proof.Machine

/-- What the blocks read and do not change within one event: zone time, own number, station state, image, web
counters and speeds, field inputs. -/
structure Env where
  now : Time
  own : Nat
  station : Station
  img : Image
  webs : Tbl Web
  inputs : Inputs
deriving DecidableEq, Repr

def Env.active (e : Env) : Bool := e.station = .active
def Env.joining (e : Env) : Bool := e.station = .joining

/-- Ask another block for something at the running event (DESIGN CHOICE, log entry 4). -/
def Zone.push (z : Zone) (t : Task) : Zone := { z with agenda := z.agenda ++ [t] }

/-! ### Calls by number -/

/-- The call table's key of a need: reelstand r or lane l (R96). -/
def Need.key : Need → Nat
  | .runout r => r
  | .restock l => 16 + l

/-! ### Offering a frame -/

def TxFrame.isProtocol (f : TxFrame) : Bool := (bodyKind f.body).cls = .protocol

/-- What the owning block does when the LI has accepted its frame into the transmit queue: the offer window opens
(R100), the take time is recorded (R103), a withdrawn call frees its entry (R111). -/
def Call.frameAccepted (now : Time) (f : TxFrame) (c : Call) : Option Call :=
  match f.body with
  | .rollCall n .. =>
    if c.number = n.toNat ∧ c.state = .collecting then some { c with windowStart := some now } else some c
  | .rollTake n .. =>
    if c.number = n.toNat ∧ c.state = .taking ∧ c.chosen.map (·.station) = some f.dest then
      some { c with takeTime := some now }
    else some c
  | .callWithdraw n =>
    if c.number = n.toNat ∧ c.state = .withdrawn ∧ c.chosen.map (·.station) = some f.dest then none else some c
  | _ => some c

def frameAccepted (e : Env) (f : TxFrame) (z : Zone) : Zone :=
  { z with supply.calls := z.supply.calls.filterMap fun (k, c) => (c.frameAccepted e.now f).map fun c' => (k, c') }

/-- The queue without its newest report-class frame; none if it has no such frame. -/
def dropNewestReport : List TxFrame → Option (List TxFrame)
  | [] => none
  | f :: t =>
    match dropNewestReport t with
    | some t' => some (f :: t')
    | none => if f.isProtocol then none else some t

/-- The newest queued report-class frame that is not being sent is displaced (R4); sending tells whether the head is
being sent. -/
def displace (sending : Bool) (q : List TxFrame) : Option (List TxFrame) :=
  match q with
  | [] => none
  | f :: t => if sending then (dropNewestReport t).map (f :: ·) else dropNewestReport (f :: t)

/-- The head of the queue is being sent (R3). -/
def Line.headSending (l : Line) : Bool := l.sending.any (·.queued)

def Line.drop (l : Line) : Line := { l with dropped := bump16 l.dropped }

/-- A protocol-class frame refused for lack of room: it joins the waiting list, or is discarded and counted when the
list is full, its block then going on as if it had been accepted (R4). -/
def offerWaiting (e : Env) (f : TxFrame) (z : Zone) : Zone :=
  if z.line.waiting.length < Config.waitingEntries then
    { z with line.waiting := z.line.waiting ++ [f] }
  else frameAccepted e f { z with line := z.line.drop }

/-- A frame offered to the LI in ACTIVE (R4). -/
def offerActive (e : Env) (f : TxFrame) (z : Zone) : Zone :=
  let l := z.line
  if f.isProtocol then
    if l.waiting ≠ [] then offerWaiting e f z
    else if l.queue.length < Config.queueEntries then
      frameAccepted e f { z with line.queue := l.queue ++ [f] }
    else
      match displace l.headSending l.queue with
      | some q => frameAccepted e f { z with line := { l.drop with queue := q ++ [f] } }
      | none => offerWaiting e f z
  else if l.waiting = [] ∧ l.queue.length < Config.queueEntries then
    { z with line.queue := l.queue ++ [f] }
  else { z with line := l.drop }

/-- A block offers a frame to the LI: by R4 in ACTIVE; held by its block, or discarded and counted, in JOINING (R5);
in INERT and START no block offers one (R18 reports by offerInert). -/
def offer (e : Env) (f : TxFrame) (z : Zone) : Zone :=
  match e.station with
  | .active => offerActive e f z
  | .joining =>
    if f.isProtocol then { z with line.heldFrames := z.line.heldFrames ++ [f] } else { z with line := z.line.drop }
  | _ => z

/-- The freed entry goes to the first frame of the waiting list (R5). -/
def promoteWaiting (e : Env) (z : Zone) : Zone :=
  match z.line.waiting with
  | [] => z
  | f :: rest =>
    if z.line.queue.length < Config.queueEntries then
      frameAccepted e f { z with line := { z.line with queue := z.line.queue ++ [f], waiting := rest } }
    else z

/-- A block withdraws a frame it no longer needs from the waiting list (R5). -/
def withdrawWaiting (p : TxFrame → Bool) (z : Zone) : Zone :=
  { z with line.waiting := z.line.waiting.filter fun f => !p f }

/-! ### Request answers (R10) -/

/-- Results (Table 1-5-1). -/
inductive Result where
  | done
  | refusedState
  | refusedFull
  | refusedLocked
  | refusedRange
  | unknownRoll
deriving DecidableEq, Repr

def Result.code : Result → Nat
  | .done => 1
  | .refusedState => 2
  | .refusedFull => 3
  | .refusedLocked => 4
  | .refusedRange => 5
  | .unknownRoll => 6

/-- A reference whose first byte is n, the others 0 (11-2). -/
def refByte (n : Nat) : Reference := BitVec.ofNat 48 (n % 256 * 2 ^ 40)

/-- A reference of place and serial (11-2). -/
def refPlace (c : PlaceCode) (s : Serial) : Reference :=
  BitVec.ofNat 48 (fromBytes ([c.type, c.value] ++ bytes32 s))

/-- The REQUEST ANSWER to a terminal. -/
def answerFrame (terminal : Nat) (k : Kind) (r : Result) (ref : Reference) : TxFrame :=
  ⟨terminal, .requestAnswer k.code (byte r.code) ref⟩

def answer (e : Env) (terminal : Nat) (k : Kind) (r : Result) (ref : Reference) (z : Zone) : Zone :=
  offer e (answerFrame terminal k r ref) z

/-! ### Fault codes (Table 10-1-1) -/

def FaultCode.cls : FaultCode → FaultClass
  | .tagMismatch | .intrusion | .stranded | .passUnconfirmed => .track
  | .haltedGripping | .stepLimit | .holdLimit | .underrun | .overrun => .transfer
  | .runout | .missedPaste | .missedKnife | .matchTimeout => .splice
  | .deadReckoning | .mismatch => .measure
  | .noStock | .lateRoll | .loadFailed => .supply
  | .image | .duplicateStation | .errorRate => .line
  | .rateHigh | .lotAlertIssued | .quarantineFull => .quality

def FaultCode.severity : FaultCode → Severity
  | .tagMismatch | .intrusion | .haltedGripping | .runout | .missedPaste | .missedKnife => .stopping
  | .errorRate | .rateHigh | .lotAlertIssued | .quarantineFull => .notice
  | _ => .degrading

/-- Codes are numbered by their order within their class (R187). -/
def FaultCode.number : FaultCode → Nat
  | .tagMismatch => 1
  | .intrusion => 2
  | .stranded => 3
  | .passUnconfirmed => 4
  | .haltedGripping => 1
  | .stepLimit => 2
  | .holdLimit => 3
  | .underrun => 4
  | .overrun => 5
  | .runout => 1
  | .missedPaste => 2
  | .missedKnife => 3
  | .matchTimeout => 4
  | .deadReckoning => 1
  | .mismatch => 2
  | .noStock => 1
  | .lateRoll => 2
  | .loadFailed => 3
  | .image => 1
  | .duplicateStation => 2
  | .errorRate => 3
  | .rateHigh => 1
  | .lotAlertIssued => 2
  | .quarantineFull => 3

/-- The four fields of a context's nine bytes (11-2), each absent until an element fills it. -/
structure Nine where
  itemA : Option Nat
  itemB : Option Nat
  serial : Option Serial
  value : Option Nat
deriving DecidableEq, Repr

/-- An element goes to the field of its kind unless an earlier element has filled it (11-2). -/
def Nine.put (n : Nine) (c : CtxElem) : Nine :=
  match c with
  | .segment k | .lane k | .reelstand k | .order k | .dock k | .call k | .slot k =>
    { n with itemA := n.itemA <|> some k }
  | .vehicle k | .position k | .step k | .station k => { n with itemB := n.itemB <|> some k }
  | .arm x => { n with itemB := n.itemB <|> some (armCode (some x)) }
  | .serial s => { n with serial := n.serial <|> some s }
  | .place p => { n with itemA := n.itemA <|> some (p.key / 256), itemB := n.itemB <|> some (p.key % 256) }
  | .number v => { n with value := n.value <|> some v }
  | .cause _ => n

def contextNine (c : List CtxElem) : Nine := c.foldl Nine.put ⟨none, none, none, none⟩

/-- The nine bytes of a context: code, item A, item B, serial, value; an absent quantity is 0 (11-2). -/
def contextBytes (o : Occurrence) : List Byte :=
  let n := contextNine o.context
  [byte o.code.number, byte (n.itemA.getD 0), byte (n.itemB.getD 0)] ++ bytes32 (n.serial.getD 0) ++
    toBytes 2 (n.value.getD 0)

def classByte (c : FaultClass) (s : Severity) : Byte := byte (c.index * 16 + s.code)

/-- The 15 bytes of a class entry (11-2). -/
def entryBytes (c : ClassEntry) : List Byte :=
  [classByte c.latest.code.cls c.highest, byte c.count] ++ bytes32 c.latest.time ++ contextBytes c.latest

/-- The lead context in short form, 8 bytes (11-2). -/
def leadShort (o : Option Occurrence) : List Byte :=
  match o with
  | none => List.replicate 8 0#8
  | some o => classByte o.code.cls o.code.severity :: (contextBytes o).take 7

/-- The FAULT REPORT body: class entry, lead in short form, current level (Table 11-2-3). -/
def faultReportBody (f : FaultRecord) (cls : FaultClass) : Body :=
  let entry := match f.entries.get? cls.index with
    | some c => entryBytes c
    | none => List.replicate 15 0#8
  .faultReport (BitVec.ofNat 120 (fromBytes entry)) (BitVec.ofNat 64 (fromBytes (leadShort f.lead)))
    (byte (f.level.getD 0))

/-! ### Recording and reporting (R180 to R184) -/

def Severity.max (a b : Severity) : Severity := if a.code ≤ b.code then b else a

/-- An occurrence recorded in its class entry, count times (R180, R184), and the lead context updated (R181). -/
def FaultRecord.record (f : FaultRecord) (o : Occurrence) (count : Nat) : FaultRecord :=
  let k := o.code.cls.index
  let entry : ClassEntry :=
    match f.entries.get? k with
    | none => ⟨o.code.severity, min 255 count, o⟩
    | some c => ⟨c.highest.max o.code.severity, satAdd 255 c.count count, o⟩
  let lead :=
    match f.lead with
    | none => some o
    | some l => if l.code.severity.code ≤ o.code.severity.code then some o else some l
  { f with entries := f.entries.set k entry, lead := lead }

/-- A level reports a severity (Table 10-3-1). -/
def levelReports (level : Nat) (s : Severity) : Bool :=
  match level with
  | 0 => false
  | 1 => s = .stopping
  | 2 => s ≠ .notice
  | _ => true

/-- Recording followed by R182: one FAULT REPORT when the level reports the severity, and a STOPPING occurrence at
level 2 or 3 drops the level to 1 after its report. (DEDUCED, log entry 44.) -/
def recordAndReport (e : Env) (o : Occurrence) (count : Nat) (z : Zone) : Zone :=
  let f := z.faults.record o count
  let z := { z with faults := f }
  match f.level with
  | none => z
  | some level =>
    if levelReports level o.code.severity then
      let z := offer e ⟨0, faultReportBody f o.code.cls⟩ z
      if o.code.severity = .stopping ∧ 2 ≤ level then { z with faults.level := some 1 } else z
    else z

/-- A block raises a fault at the present event (R179). (DESIGN CHOICE, log entry 13.) (DEDUCED, log entry 44.) -/
def raise (e : Env) (code : FaultCode) (context : List CtxElem) (z : Zone) : Zone :=
  recordAndReport e ⟨code, e.now, context⟩ 1 z

/-! ### Deferred MEASURE faults (R150, R151) -/

/-- ACCELERATING, MATCHED, PASTING and CUTTING (R150). -/
def SpliceState.splicing : SpliceState → Bool
  | .accelerating | .matched | .pasting | .cutting => true
  | _ => false

def splice? (z : Zone) (r : Nat) : Option Splice := z.splice.stands.get? r

/-- Change the splice record of a reelstand. -/
def modSplice (r : Nat) (f : Splice → Splice) (z : Zone) : Zone :=
  { z with splice.stands := z.splice.stands.modify r f }

/-- An occurrence joins a deferred set: one entry for each code, its count rising to 255 (R150). -/
def holdFault (o : Occurrence) : List HeldFault → List HeldFault
  | [] => [⟨1, o⟩]
  | h :: t => if h.latest.code = o.code then ⟨satAdd 255 h.count 1, o⟩ :: t else h :: holdFault o t

/-- A MEASURE fault that concerns reelstand r: held while r is splicing, otherwise raised at once (R150). -/
def raiseForReel (e : Env) (r : Nat) (code : FaultCode) (context : List CtxElem) (z : Zone) : Zone :=
  if (splice? z r).any (fun s => s.state.splicing) then
    modSplice r (fun s => { s with deferred := holdFault ⟨code, e.now, context⟩ s.deferred }) z
  else raise e code context z

/-- The held entries enter the fault record, oldest latest occurrence first, and the set is empty (R151, R184); of two of one
zone time the one made first goes first. (DESIGN CHOICE, log entry 76.) -/
def releaseDeferred (e : Env) (r : Nat) (z : Zone) : Zone :=
  match splice? z r with
  | none => z
  | some s =>
    let ordered :=
      match s.deferred with
      | [a, b] => if liesAfter a.latest.time b.latest.time then [b, a] else [a, b]
      | l => l
    ordered.foldl (fun z h => recordAndReport e h.latest h.count z)
      (modSplice r (fun s => { s with deferred := [] }) z)

end Sys2Proof.Machine
end

