-- ==== Sys2Proof/Machine/Stock.lean ====
section
/-! DEFINITION. The stock table (Chapter 3): roll records and places, lane notices, reservations, choice of rolls, take
and put checks, storage choice, quarantine, and the detector watches. -/

namespace Sys2Proof.Machine

/-! ### Records at places -/

def rollAt (z : Zone) (p : Place) : Option Roll := z.stock.rolls.get? p.key

def setRoll (p : Place) (r : Roll) (z : Zone) : Zone :=
  { z with stock.rolls := z.stock.rolls.set p.key r }

def eraseRoll (p : Place) (z : Zone) : Zone :=
  { z with stock.rolls := z.stock.rolls.erase p.key }

/-- The place key and record of a serial other than 0 (R48: at most one place). -/
def findSerial (z : Zone) (s : Serial) : Option (Nat × Roll) :=
  if s = 0 then none else z.stock.rolls.find? fun e => e.2.serial = s

/-- An unidentified entry in a state (R49). -/
def unidentified (st : RollState) : Roll :=
  { serial := 0, data := none, state := st, reservation := none, breaks := 0, waste := 0, defect := false }

def Roll.remaining (r : Roll) : Nat := (r.data.map (·.remaining)).getD 0

/-- Positions 1 to n of a lane that hold a record. -/
def heldPositions (z : Zone) (l n : Nat) : List Nat := (upTo n).filter fun p => (rollAt z (.lane l p)).isSome

def laneMode? (e : Env) (l : Nat) : Option LaneMode := (e.img.lane? l).map LaneCfg.mode

def laneRole? (e : Env) (l : Nat) : Option LaneRole := (e.img.lane? l).map LaneCfg.role

def lanePositions (e : Env) (l : Nat) : Nat := ((e.img.lane? l).map (·.positions)).getD 0

def laneRec (z : Zone) (l : Nat) : Option Lane := z.stock.lanes.get? l

def modLane (l : Nat) (f : Lane → Lane) (z : Zone) : Zone :=
  { z with stock.lanes := z.stock.lanes.modify l f }

/-- The detector of a lane position shows a roll. -/
def laneDetector (e : Env) (l p : Nat) : Bool := e.inputs.lanes.pin (Place.lane l p).key

def reelIns (e : Env) (r : Nat) : ReelIns := (e.inputs.reels.get? r).getD ReelIns.idle

def rollPresent (e : Env) (r : Nat) : Arm → Bool
  | .a => (reelIns e r).presentA
  | .b => (reelIns e r).presentB

def armOpen (e : Env) (r : Nat) : Arm → Bool
  | .a => (reelIns e r).openA
  | .b => (reelIns e r).openB

/-- The state a record takes in a lane: BUTT in a BUTT lane, otherwise RESERVED if it carries a reservation, else STOCK
(R50). -/
def laneState (e : Env) (l : Nat) (r : Roll) : RollState :=
  match laneRole? e l with
  | some .butt => .butt
  | _ => if r.reservation.isSome then .reserved else .stock

/-! ### Faults of the table (R51) -/

/-- A MEASURE fault of code mismatch about a place; one about an arm concerns its reelstand (R150). -/
def raiseMismatch (e : Env) (p : Place) (context : List CtxElem) (z : Zone) : Zone :=
  match p with
  | .arm r _ => raiseForReel e r .mismatch context z
  | _ => raise e .mismatch context z

/-! ### Notices (R58) -/

/-- A record has entered a lane: the empty notice clears, the full notice is set when no position is left; a notice
being set runs the restock check. -/
def laneEntered (e : Env) (l : Nat) (z : Zone) : Zone :=
  let n := lanePositions e l
  if (heldPositions z l n).length = n then
    (modLane l (fun c => { c with empty := false, full := true }) z).push .restock
  else modLane l (fun c => { c with empty := false }) z

/-- A record has left a lane: the full notice clears, the empty notice is set with the last record. -/
def laneLeft (e : Env) (l : Nat) (z : Zone) : Zone :=
  let n := lanePositions e l
  if (heldPositions z l n).length = 0 then
    (modLane l (fun c => { c with full := false, empty := true }) z).push .restock
  else modLane l (fun c => { c with full := false }) z

/-- Notices set or cleared as the lane is found (R60 step 5, R70). -/
def laneFound (e : Env) (l : Nat) (z : Zone) : Zone :=
  let n := lanePositions e l
  let k := (heldPositions z l n).length
  modLane l (fun c => { c with full := k = n, empty := k = 0 }) z

/-! ### Orders as the stock table reads them -/

def allOrders (z : Zone) : List Order := z.transfer.ordersP ++ z.transfer.ordersO

/-- A pending order names the serial (R61, R74). -/
def serialOrdered (z : Zone) (s : Serial) : Bool := s ≠ 0 && (allOrders z).any fun o => o.serial = s

def runningOrder (z : Zone) : Option Order :=
  match z.transfer.carriage with
  | .running n => (allOrders z).find? fun o => o.number = n
  | _ => none

/-! ### Reservations (R52) -/

def reservedCount (z : Zone) : Nat := (z.stock.rolls.filter fun e => e.2.reservation.isSome).length

/-- The lane and position of a key, if it is a lane position. -/
def laneOfKey (k : Nat) : Option (Nat × Nat) :=
  match placeOfKey k with
  | some (.lane l p) => some (l, p)
  | _ => none

/-- The conditions of R52 on the roll at a key. -/
def canReserve (z : Zone) (key : Nat) : Bool :=
  match z.stock.rolls.get? key, laneOfKey key with
  | some r, some (l, _) =>
    r.state = .stock && (laneRec z l).any (·.inService) && r.reservation.isNone &&
      reservedCount z < Config.reservations
  | _, _ => false

/-- Set a reservation; its setting runs the restock check. -/
def reserve (key : Nat) (ref : CallRef) (z : Zone) : Zone :=
  ({ z with stock.rolls := z.stock.rolls.modify key fun r =>
      { r with reservation := some ref, state := .reserved } } : Zone).push .restock

/-- The record without its reservation: a RESERVED roll is in STOCK again. -/
def Roll.released (r : Roll) : Roll :=
  { r with reservation := none, state := if r.state = .reserved then .stock else r.state }

/-- Release the reservation of the roll at a key, if it carries one; the release runs the restock check. -/
def release (key : Nat) (z : Zone) : Zone :=
  match z.stock.rolls.get? key with
  | some r =>
    if r.reservation.isSome then
      ({ z with stock.rolls := z.stock.rolls.set key r.released } : Zone).push .restock
    else z
  | none => z

/-- The key of the roll that carries a reservation for a call. -/
def reservationKey (z : Zone) (station call : Nat) : Option Nat :=
  (z.stock.rolls.find? fun e =>
    e.2.reservation.any fun c => c.station = station && c.call = call).map (·.1)

/-! ### Quarantine (R64) -/

/-- A slot is enabled when its limit is at least its base, read as whole lots. -/
def Slot.enabled (s : Slot) : Bool := (lotFirst s.base).toNat ≤ (lotLast s.limit).toNat

def Slot.covers (s : Slot) (x : Serial) : Bool :=
  s.enabled && (lotFirst s.base).toNat ≤ x.toNat && x.toNat ≤ (lotLast s.limit).toNat

/-- A roll is quarantined when its serial is not 0 and lies in an enabled slot. -/
def quarantined (z : Zone) (s : Serial) : Bool := s ≠ 0 && z.stock.slots.any fun e => e.2.covers s

/-- The lowest-numbered free slot: one with no entry, or a disabled one that is not locked (R64). -/
def freeSlot (z : Zone) : Option Nat :=
  [1, 2, 3, 4].find? fun k =>
    match z.stock.slots.get? k with
    | none => true
    | some s => !s.enabled && s.origin ≠ .image

/-- Write a slot; an enabling or disabling runs the restock check (R64). -/
def writeSlot (k : Nat) (s : Slot) (z : Zone) : Zone :=
  ({ z with stock.slots := z.stock.slots.set k s } : Zone).push .restock

/-- A lot alert given to the stock table, with the alerting station (R67). -/
def addAlert (e : Env) (lot : Serial) (station : Nat) (z : Zone) : Zone :=
  if !e.img.acceptAlerts then z
  else if z.stock.slots.any (fun s => s.2.covers (lotFirst lot) && s.2.covers (lotLast lot)) then z
  else
    match freeSlot z with
    | some k => writeSlot k ⟨lotFirst lot, lotLast lot, .alert station⟩ z
    | none => raise e .quarantineFull [.serial (lotFirst lot), .station station] z

/-! ### Choosing rolls (R61, R62) -/

/-- Who asks for a roll, which decides the lane roles that fit (R61). -/
inductive Asker where
  | ownRunout
  | ownRestock
  | peer
deriving DecidableEq, Repr

def Asker.fits : Asker → LaneRole → Bool
  | .ownRunout, .stock => true
  | .ownRunout, .staging => true
  | _, .stock => true
  | _, _ => false

/-- What a call asks of a roll. -/
structure Wanted where
  asker : Asker
  grade : Nat
  width : Nat
  minLength : Nat
deriving DecidableEq, Repr

/-- The roll at a key is a candidate for a call (R61). -/
def candidate (e : Env) (z : Zone) (w : Wanted) (key : Nat) (r : Roll) : Bool :=
  match laneOfKey key with
  | none => false
  | some (l, p) =>
    (laneRec z l).any (fun c => c.inService && !c.mismatch) &&
    (e.img.lane? l).any (fun c => w.asker.fits c.role && (c.mode = .pick || p = 1)) &&
    r.state = .stock && r.reservation.isNone && r.serial ≠ 0 &&
    r.data.any (fun d => d.grade = w.grade && d.width = w.width && w.minLength ≤ d.remaining) &&
    !quarantined z r.serial && !r.defect && !serialOrdered z r.serial

/-- A candidate comes before another: smaller remaining length, then lower serial (R62). -/
def Roll.before (a b : Roll) : Bool :=
  a.remaining < b.remaining || (a.remaining = b.remaining && a.serial.toNat < b.serial.toNat)

/-- The choice among the candidates (R62); it reserves nothing. -/
def choose (e : Env) (z : Zone) (w : Wanted) : Option (Nat × Roll) :=
  (z.stock.rolls.filter fun x => candidate e z w x.1 x.2).foldl
    (fun best x =>
      match best with
      | none => some x
      | some b => if x.2.before b.2 then some x else some b) none

/-! ### Restock check (R63) -/

/-- The unreserved rolls of a lane: STOCK, identified, not quarantined. -/
def unreservedCount (e : Env) (z : Zone) (l : Nat) : Nat :=
  ((upTo (lanePositions e l)).filter fun p =>
    (rollAt z (.lane l p)).any fun r => r.state = .stock && r.serial ≠ 0 && !quarantined z r.serial).length

/-- A lane is short: STAGING, in service, agreeing with its detectors, and below its low mark (R63). -/
def laneShort (e : Env) (z : Zone) (l : Nat) : Bool :=
  (e.img.lane? l).any (fun c => c.role = .staging && unreservedCount e z l < c.low) &&
    (laneRec z l).any fun c => c.inService && !c.mismatch

/-- The restock check: a RESTOCK call is asked for every short lane that has none, in rising lane number (R63).
(DESIGN CHOICE, log entry 67.) -/
def restockCheck (e : Env) (z : Zone) : Zone :=
  (e.img.laneNumbers.filter fun l => laneShort e z l && !z.supply.calls.has (Need.restock l).key).foldl
    (fun z l => z.push (.askCall (.restock l))) z

/-! ### Take, put and storage (R54 to R56, R76) -/

inductive Check where
  | ready
  | notReady
  | underrun
  | overrun
deriving DecidableEq, Repr

/-- The lowest position of a lane without a record (R54). -/
def lowestFree (e : Env) (z : Zone) (l : Nat) : Option Nat :=
  (upTo (lanePositions e l)).find? fun p => (rollAt z (.lane l p)).isNone

/-- The take check of a lane in service (R55). -/
def takeCheck (e : Env) (z : Zone) (l p : Nat) (s : Serial) : Check :=
  match laneMode? e l with
  | some .through =>
    if (rollAt z (.lane l 1)).any (fun r => r.serial = s) then
      (if laneDetector e l 1 then .ready else .notReady)
    else if (upTo (lanePositions e l)).any (fun q => (rollAt z (.lane l q)).any fun r => r.serial = s) then .notReady
    else .underrun
  | _ =>
    if (rollAt z (.lane l p)).any (fun r => r.serial = s) then
      (if laneDetector e l p then .ready else .notReady)
    else .underrun

/-- The position a put would take: the lowest free one of a THROUGH lane, the named one of a PICK lane (R54). -/
def putPosition (e : Env) (z : Zone) (l p : Nat) : Option Nat :=
  match laneMode? e l with
  | some .through => lowestFree e z l
  | _ => if (rollAt z (.lane l p)).isNone then some p else none

/-- The put check of a lane in service (R56). -/
def putCheck (e : Env) (z : Zone) (l p : Nat) : Check :=
  match putPosition e z l p with
  | some q => if laneDetector e l q then .overrun else .ready
  | none => .overrun

/-- A free position of one lane for the storage choice (R76). -/
def storageIn (e : Env) (z : Zone) (l : Nat) : Option Place :=
  if (laneRec z l).any (fun c => c.inService && !c.mismatch) then
    match laneMode? e l with
    | some .through =>
      match lowestFree e z l with
      | some p => if laneDetector e l p then none else some (.lane l p)
      | none => none
    | some .pick =>
      ((upTo (lanePositions e l)).find? fun p =>
        (rollAt z (.lane l p)).isNone && !laneDetector e l p).map (Place.lane l)
    | none => none
  else none

/-- The storage choice for a role: the lowest-numbered lane of the role that has a free position (R76). -/
def storageChoice (e : Env) (z : Zone) (role : LaneRole) : Option Place :=
  e.img.laneNumbers.findSome? fun l =>
    if (e.img.lane? l).any (fun c => c.role = role) then storageIn e z l else none

/-- The storage choice of a destination that is not one place (R73, R76, R84). -/
def Dest.choice (d : Dest) (e : Env) (z : Zone) : Option Place :=
  match d with
  | .place p => some p
  | .lane l => storageIn e z l
  | .anyStock => storageChoice e z .stock
  | .anyButt => storageChoice e z .butt
  | .anyStockOrButt => storageChoice e z .stock <|> storageChoice e z .butt

/-! ### Changes by place and serial (R51) -/

/-- A field write naming a place and the serial expected there: made to the record that stands there, with a mismatch
fault when it is another or none (R51). -/
def writeRoll (e : Env) (p : Place) (expected : Serial) (f : Roll → Roll) (z : Zone) : Zone :=
  match rollAt z p with
  | some r =>
    let z := if r.serial = expected then z
      else raiseMismatch e p [.place p, .serial expected, .serial r.serial] z
    setRoll p (f r) z
  | none => raiseMismatch e p [.place p, .serial expected, .serial 0] z

/-- What a move did: nothing, the record moved with its serial, or a record stood at the destination. -/
inductive Moved where
  | nothing
  | moved (s : Serial)
  | occupied
deriving DecidableEq, Repr

/-- The source detector showed a roll (R51): lane and arm places have detectors, others have none. -/
def sourceDetector (e : Env) : Place → Bool
  | .lane l p => laneDetector e l p
  | .arm r x => rollPresent e r x
  | _ => false

/-- Move a record from place to place, naming the serial expected at the source; f is what the move makes of the record
(R51). The source detector is read at the move, the PICK's completion. (DESIGN CHOICE, log entry 57.) The fault of a
move into a place that holds a record names that place. (DESIGN CHOICE, log entry 71.) -/
def moveRoll (e : Env) (src dst : Place) (expected : Serial) (f : Roll → Roll) (z : Zone) : Zone × Moved :=
  match rollAt z dst with
  | some d => (raiseMismatch e dst [.place dst, .serial expected, .serial d.serial] z, .occupied)
  | none =>
    match rollAt z src with
    | some r =>
      let z := if r.serial = expected then z
        else raiseMismatch e src [.place src, .serial expected, .serial r.serial] z
      (setRoll dst (f r) (eraseRoll src z), .moved r.serial)
    | none =>
      let z := raiseMismatch e src [.place src, .serial expected, .serial 0] z
      if sourceDetector e src then (setRoll dst (f (unidentified .inTransfer)) z, .moved 0) else (z, .nothing)

/-- After a take from position 1 of a THROUGH lane every remaining record moves one position toward position 1 (R54). -/
def shiftLane (e : Env) (l : Nat) (z : Zone) : Zone :=
  (upTo (lanePositions e l)).foldl
    (fun z p =>
      if p = 1 then z
      else
        match rollAt z (.lane l p), rollAt z (.lane l (p - 1)) with
        | some r, none => setRoll (.lane l (p - 1)) r (eraseRoll (.lane l p) z)
        | _, _ => z) z

/-- The records of a THROUGH lane close up toward position 1, keeping their order (R60 step 4). -/
def closeUp (e : Env) (l : Nat) (z : Zone) : Zone :=
  let n := lanePositions e l
  let rolls := (upTo n).filterMap fun p => rollAt z (.lane l p)
  let cleared := (upTo n).foldl (fun z p => eraseRoll (.lane l p) z) z
  (rolls.zipIdx).foldl (fun z x => setRoll (.lane l (x.2 + 1)) x.1 z) cleared

/-! ### Detector watches (R59, R138) -/

/-- The place of an order's source or destination under the carriage now: the source in PICK, the destination in SET. -/
def underCarriage (z : Zone) : Option Place :=
  match runningOrder z with
  | some o => if o.step = 3 then some o.req.source else if o.step = 6 then o.target else none
  | none => none

/-- A lane position is watched: lane in service, not under the carriage, where a THROUGH lane counts as one (R59).
(DEDUCED, log entry 28.) -/
def positionWatched (e : Env) (z : Zone) (l p : Nat) : Bool :=
  (laneRec z l).any (·.inService) &&
    match underCarriage z with
    | some (.lane l' p') => l' ≠ l || ((e.img.lane? l).any (fun c => c.mode = .pick) && p' ≠ p)
    | _ => true

def positionDisagrees (e : Env) (z : Zone) (l p : Nat) : Bool :=
  laneDetector e l p != (rollAt z (.lane l p)).isSome

/-- The positions of the zone's lanes. -/
def lanePlaces (e : Env) : List (Nat × Nat) :=
  e.img.laneNumbers.flatMap fun l => (upTo (lanePositions e l)).map fun p => (l, p)

/-- Start the clock of a place that disagrees and drop it where it agrees or is not watched. -/
def watchPlace (now : Time) (t : Tbl Time) (key : Nat) (disagrees : Bool) : Tbl Time :=
  if disagrees then (if t.has key then t else t.set key now) else t.erase key

/-- The watch of the lane positions after an event; a lane none of whose positions disagrees any longer loses its
mismatch flag (R59). (DEDUCED, log entry 28.) -/
def refreshLaneWatch (e : Env) (z : Zone) : Zone :=
  let bad := fun (l p : Nat) => positionWatched e z l p && positionDisagrees e z l p
  let watch := (lanePlaces e).foldl (fun t x => watchPlace e.now t (Place.lane x.1 x.2).key (bad x.1 x.2)) z.stock.watch
  let dis := z.stock.disagreeing.filter fun k =>
    match laneOfKey k.1 with
    | some (l, p) => bad l p
    | none => false
  let lanes := z.stock.lanes.map fun (l, c) =>
    (l, if dis.any (fun k => (laneOfKey k.1).any fun x => x.1 = l) then c else { c with mismatch := false })
  { z with stock := { z.stock with watch := watch, disagreeing := dis, lanes := lanes } }

def reelArms (e : Env) : List (Nat × Arm) := (upTo e.img.reels.length).flatMap fun r => [(r, .a), (r, .b)]

/-- An arm is watched unless the carriage picks from it or sets onto it (R138). -/
def armWatched (z : Zone) (r : Nat) (x : Arm) : Bool := underCarriage z ≠ some (.arm r x)

def armDisagrees (e : Env) (z : Zone) (r : Nat) (x : Arm) : Bool :=
  rollPresent e r x != (rollAt z (.arm r x)).isSome

/-- The roll-present watch of the arms after an event (R138). (DEDUCED, log entry 28.) -/
def refreshArmWatch (e : Env) (z : Zone) : Zone :=
  let watch := (reelArms e).foldl
    (fun t x => watchPlace e.now t (Place.arm x.1 x.2).key (armWatched z x.1 x.2 && armDisagrees e z x.1 x.2))
    z.splice.watch
  { z with splice.watch := watch }

/-- Both watches follow the levels in ACTIVE only (R16). -/
def refreshWatches (e : Env) (z : Zone) : Zone :=
  if e.active then refreshArmWatch e (refreshLaneWatch e z) else z

end Sys2Proof.Machine
end

