-- ==== Sys2Proof/Machine/Web.lean ====
section
/-! DEFINITION. The web path and folder block (Chapter 8): splice and thread marks, their arrival at the folder, the
closing of an account, the charge of a copy and the eject windows. -/

namespace Sys2Proof.Machine

/-! ### Web records and positions -/

def web? (z : Zone) (r : Nat) : Option WebPath := z.folder.webs.get? r

def modWeb (r : Nat) (f : WebPath → WebPath) (z : Zone) : Zone :=
  { z with folder.webs := z.folder.webs.modify r f }

/-- The web counter of a reelstand (R117). -/
def webCounter (e : Env) (r : Nat) : WebPos := ((e.webs.get? r).map Web.counter).getD 0

/-- The speed v of a reelstand's web in mm/s (R118). -/
def webSpeed (e : Env) (r : Nat) : Nat := ((e.webs.get? r).map Web.speed).getD 0

/-- A position q lies after a position p (R154). -/
def positionAfter (q p : WebPos) : Bool := 1 ≤ (q - p).toNat && (q - p).toNat < 2 ^ 39

/-- The serial of the record on an arm, 0 for an unidentified entry and where there is none. -/
def armSerial (z : Zone) (r : Nat) (x : Arm) : Serial := ((rollAt z (.arm r x)).map Roll.serial).getD 0

/-! ### Marks (R155 to R157) -/

/-- Store a mark at the tail of the path queue, or lose it (R155). -/
def WebPath.store (w : WebPath) (m : Mark) : WebPath :=
  if w.marks.length < Config.pathMarks ∧ w.marks.getLast?.all (fun t => positionAfter m.position t.position) then
    { w with marks := w.marks ++ [m] }
  else { w with markLost := true }

/-- The latest serial of a web: the new serial of the tail mark, or the folder roll (R156). -/
def WebPath.latest (w : WebPath) : Option Serial :=
  match w.marks.getLast? with
  | some m => some m.new
  | none => w.folderRoll

/-- The splice mark of a paste done: the running and the standby serial at the web counter of the event (R142, R155). -/
def giveSpliceMark (e : Env) (r : Nat) (old new : Serial) (z : Zone) : Zone :=
  modWeb r (fun w => w.store ⟨webCounter e r, old, new⟩) z

/-- A web's record at a report of a new running serial at a position (R156). -/
def WebPath.threaded (w : WebPath) (position : WebPos) (s : Serial) : WebPath :=
  match w.folderRoll with
  | none => { w with folderRoll := some s, wasteLength := 0, wasteCopies := 0 }
  | some f => w.store ⟨position, w.latest.getD f, s⟩

/-- A roll becomes running other than by the arm swap (R156). -/
def reportRunningRoll (e : Env) (r : Nat) (s : Serial) (z : Zone) : Zone :=
  modWeb r (fun w => w.threaded (webCounter e r) s) z

/-- The unidentified roll on a running arm is identified (R157). -/
def WebPath.identified (w : WebPath) (s : Serial) : WebPath :=
  match w.marks.getLast? with
  | some m => if m.new = 0 then { w with marks := w.marks.dropLast ++ [{ m with new := s }] } else w
  | none => if w.folderRoll = some 0 then { w with folderRoll := some s } else w

/-! ### Closing an account (R162) -/

/-- A place is a vehicle in PASSING. -/
def onPassing (z : Zone) (key : Nat) : Bool :=
  match placeOfKey key with
  | some (.vehicle slot) => (z.track.vehicles.get? slot).any fun v => v.state = .passing
  | _ => false

/-- The place key of the own record of a serial, unless it is on a vehicle in PASSING (R162, R163). -/
def ownPlace (z : Zone) (s : Serial) : Option Nat :=
  match findSerial z s with
  | some (k, _) => if onPassing z k then none else some k
  | none => none

/-- Add waste to a roll record, saturating at 65,535 m. -/
def Roll.addWaste (r : Roll) (metres : Nat) : Roll := { r with waste := satAdd Config.max16 r.waste metres }

def chargeRoll (key metres : Nat) (z : Zone) : Zone :=
  { z with stock.rolls := z.stock.rolls.modify key fun r => r.addWaste metres }

/-- The disposal of a closed account (Table 8-3-1): NONE for less than 1 m is tested first. -/
def disposalOf (z : Zone) (folder : Serial) (metres : Nat) : Disposal :=
  if metres = 0 then .none
  else if folder = 0 then .unattributed
  else if (ownPlace z folder).isSome then .own
  else .line

/-- The effect of a disposal (Table 8-3-1). -/
def dispose (e : Env) (r : Nat) (folder : Serial) (metres : Nat) (z : Zone) : Zone :=
  match disposalOf z folder metres with
  | .none => z
  | .unattributed =>
    modWeb r (fun w => { w with unattributed := satAdd Config.max32 w.unattributed metres }) z
  | .own =>
    match ownPlace z folder with
    | some k => chargeRoll k metres z
    | none => z
  | .line => offer e ⟨0, .rollWaste folder (BitVec.ofNat 16 (min Config.max16 metres))⟩ z

/-- The account of a web's folder roll is closed (R162). -/
def closeAccount (e : Env) (r : Nat) (z : Zone) : Zone :=
  match web? z r with
  | none => z
  | some w =>
    match w.folderRoll with
    | none => z
    | some f =>
      let metres := w.wasteLength / 1000
      let account : Account := ⟨f, metres, w.wasteCopies, disposalOf z f metres⟩
      modWeb r (fun w => { w with lastClosed := some account }) (dispose e r f metres z)

/-! ### The copy pulse (R158 to R161) -/

/-- The head mark that arrives at this copy pulse: the web has gone on by at least the path length (R159). -/
def arrivingMark (e : Env) (r : Nat) (w : WebPath) : Option Mark :=
  match w.marks, e.img.reel? r with
  | m :: _, some c => if c.path ≤ (webCounter e r - m.position).toNat then some m else none
  | _, _ => none

/-- The effects of an arrival on the web record after its account is closed (R159). -/
def WebPath.arrived (w : WebPath) (m : Mark) (eject : Nat) : WebPath :=
  { w with folderRoll := some m.new, wasteLength := 0, wasteCopies := 0, window := eject, markLost := false }

/-- The arrival test of one web: at most one mark a copy pulse (R159). -/
def arriveAt (e : Env) (r : Nat) (z : Zone) : Zone :=
  match web? z r with
  | none => z
  | some w =>
    match arrivingMark e r w with
    | none => z
    | some m =>
      modWeb r (fun w => w.arrived m e.img.ejectCount)
        (closeAccount e r (modWeb r (fun w => { w with marks := w.marks.tail }) z))

/-- Part 1 of a copy pulse: arrivals, web by web in rising number (R158). (DESIGN CHOICE, log entry 67.) -/
def copyArrivals (e : Env) (z : Zone) : Zone :=
  (upTo e.img.reels.length).foldl (fun z r => arriveAt e r z) z

/-- A web is active: web in use, the reelstand not EMPTY, and a folder roll (R160). -/
def webActive (e : Env) (z : Zone) (r : Nat) : Bool :=
  (e.img.reel? r).any (·.webInUse) && (splice? z r).any (fun s => s.state ≠ .empty) &&
    (web? z r).any fun w => w.folderRoll.isSome

/-- One waste copy charged to a web record (R160). -/
def WebPath.charge (w : WebPath) (cutoff : Nat) : WebPath :=
  { w with wasteLength := satAdd Config.max32 w.wasteLength cutoff, wasteCopies := satAdd Config.max32 w.wasteCopies 1 }

/-- Part 3 of a copy pulse: a waste copy is charged to every active web (R160). -/
def copyCharge (e : Env) (z : Zone) : Zone :=
  (upTo e.img.reels.length).foldl
    (fun z r => if webActive e z r then modWeb r (fun w => w.charge e.img.cutoff) z else z) z

/-- Some eject window is open. -/
def windowOpen (z : Zone) : Bool := z.folder.webs.any fun w => 0 < w.2.window

/-- Part 4 of a copy pulse: the eject state is that of the copy just counted, then each open window counts down
(R161). -/
def copyWindows (z : Zone) : Zone :=
  { z with folder :=
      { eject := windowOpen z
        webs := z.folder.webs.map fun (r, w) => (r, { w with window := w.window - 1 }) } }

/-! ### ROLL WASTE from a peer (R163) -/

/-- The lowest slot of an INCOMING vehicle whose carried record is a serial. (DESIGN CHOICE, log entry 53.) -/
def carriedSlot (z : Zone) (s : Serial) : Option Nat :=
  (z.track.vehicles.find? fun v =>
    v.2.state = .incoming && v.2.carried.any fun r => r.serial = s).map (·.1)

/-- ROLL WASTE from a peer: the own record, unless it stands on a vehicle in PASSING, else a carried one (R163).
(DESIGN CHOICE, log entry 53.) -/
def takeRollWaste (s : Serial) (metres : Nat) (z : Zone) : Zone :=
  if s = 0 then z
  else
    match ownPlace z s with
    | some k => chargeRoll k metres z
    | none =>
      match carriedSlot z s with
      | some slot =>
        { z with track.vehicles := z.track.vehicles.modify slot fun v =>
            { v with carried := v.carried.map fun r => r.addWaste metres } }
      | none => z

end Sys2Proof.Machine
end

