-- ==== Sys2Proof/Machine/Runout.lean ====
section
/-! DEFINITION. Runout measurement on one record (Chapter 6): the remaining-length function, seeding, revolution points
with their readings, and the time to splice. -/

namespace Sys2Proof.Machine

/-! ### Lengths (R126) -/

/-- The remaining-length function L for a circumference X, a core circumference Cc and a caliper t in µm (R126). -/
def lengthAt (core caliper x : Nat) : Nat :=
  if x ≤ core then 0 else (x * x - core * core) * 79577 / (1000 * caliper)

/-- L_splice and L_min with the record's caliper (R126). -/
def Meas.withLimits (m : Meas) (c : ReelCfg) : Meas :=
  { m with spliceLength := lengthAt c.core m.caliper c.splice, minLength := lengthAt c.core m.caliper c.margin }

/-! ### Seeding (R120) -/

/-- The record seeded from the roll record on the arm (R120); the total rejects are kept (R119). An arm
with no roll record is seeded as with an unidentified entry. (DEDUCED, log entry 41.) -/
def Meas.seeded (m : Meas) (c : ReelCfg) (roll : Option Roll) : Meas :=
  let fresh : Meas :=
    { Meas.initial with serial := (roll.map Roll.serial).getD 0, state := .seeded, totalRejects := m.totalRejects }
  match roll.bind Roll.data with
  | some d =>
    if 0 < d.remaining then
      let load := d.remaining * 1000
      ({ fresh with seed := .fromRecord, caliper := d.caliper, loadLength := load, countLength := load,
                    remaining := min load Config.lengthMax } : Meas).withLimits c
    else ({ fresh with caliper := c.caliper, remaining := Config.lengthMax } : Meas).withLimits c
  | none => ({ fresh with caliper := c.caliper, remaining := Config.lengthMax } : Meas).withLimits c

/-! ### Readings (R121 to R125) -/

/-- The plausibility band of an average, both ends included (R124). -/
def inBand (c x : Nat) : Bool := c - c / 16 ≤ x && x ≤ c + c / 64

/-- A reading is out of range: above 6,000 mm, or not above the core circumference (R122). -/
def outOfRange (core x : Nat) : Bool := Config.circumferenceMax < x || x ≤ core

/-- A reject (R122); the third in a row passes the record to DEAD_RECKONING (R125). -/
def Meas.reject (m : Meas) (x : Nat) : Meas :=
  { m with rejects := m.rejects + 1, totalRejects := bump16 m.totalRejects, lastRejected := some x,
           state := if m.rejects + 1 = 3 then .deadReckoning else m.state }

/-- The average C and L_meas formed from the readings (R123, R124). -/
def Meas.formAverage (m : Meas) (core : Nat) : Meas :=
  let c := m.readings.sum / 4
  { m with average := some c, measLength := some (lengthAt core m.caliper c) }

/-- An accepted reading in SEEDED; the fourth forms the average and, for an UNSEEDED record, gives it a length to count
from (R123). -/
def Meas.acceptSeeded (m : Meas) (core x : Nat) : Meas :=
  let m := { m with readings := m.readings ++ [x], rejects := 0 }
  if m.readings.length = 4 then
    let m := { m.formAverage core with state := .measuring }
    match m.seed with
    | .fromRecord => m
    | .unseeded => { m with seed := .fromRecord, loadLength := m.measLength.getD 0, fed := 0 }
  else m

/-- An accepted reading in MEASURING (R124). -/
def Meas.acceptMeasuring (m : Meas) (core x : Nat) : Meas :=
  ({ m with readings := m.readings.tail ++ [x], rejects := 0 } : Meas).formAverage core

/-- A reading checked and accepted or rejected by the state (R121 to R124), with whether it was accepted. -/
def Meas.read (m : Meas) (core x : Nat) : Meas × Bool :=
  match m.state with
  | .seeded => if outOfRange core x then (m.reject x, false) else (m.acceptSeeded core x, true)
  | .measuring =>
    if outOfRange core x then (m.reject x, false)
    else if m.average.any fun c => inBand c x then (m.acceptMeasuring core x, true)
    else (m.reject x, false)
  | _ => (m, false)

/-! ### Remaining length (R127, R128) -/

/-- The source of L_rem at an event; accepted tells whether the event is an accepted reading (R128). -/
def Meas.source (m : Meas) (accepted : Bool) : Option Nat :=
  match m.state with
  | .noRoll => none
  | .measuring => if accepted then m.measLength else none
  | .seeded | .deadReckoning => if m.seed = .fromRecord then some m.countLength else none

/-- The monotone rule: the new L_rem is the smaller of the previous one and the source (R128). -/
def Meas.lower (m : Meas) (source : Option Nat) : Meas :=
  { m with remaining := match source with
      | some s => min m.remaining s
      | none => m.remaining }

/-- L_count computed anew (R127). -/
def Meas.recount (m : Meas) : Meas := { m with countLength := m.loadLength - m.fed }

/-- A revolution point at a web counter value: the reading if there is a reference, then L_rem (R121, R127, R128).
missing marks a missing-index point, whose reading is 6,001. L_count is computed first, so the fourth accepted reading of
an UNSEEDED record leaves it as the point found it. (DESIGN CHOICE, log entry 60.) -/
def Meas.point (m : Meas) (core : Nat) (counter : WebPos) (missing : Bool) : Meas :=
  let m := m.recount
  match m.reference with
  | none =>
    let m := { m with reference := some counter }
    m.lower (m.source false)
  | some ref =>
    let x := if missing then Config.missingIndex else (counter - ref).toNat
    let read := ({ m with reference := some counter } : Meas).read core x
    read.1.lower (read.1.source read.2)

/-- An encoder pulse on the running arm's record (R127). -/
def Meas.feed (m : Meas) : Meas := { m with fed := satAdd Config.max32 m.fed 1 }

/-- The roll of a running arm's record is identified by ROLL ENTRY (R129). -/
def Meas.identified (m : Meas) (c : ReelCfg) (serial : Serial) (caliper metres : Nat) : Meas :=
  let m := ({ m with serial := serial, caliper := caliper } : Meas).withLimits c
  let m :=
    if m.seed = .unseeded ∧ 0 < metres then
      { m with loadLength := metres * 1000, fed := 0, countLength := metres * 1000, seed := .fromRecord }
    else m
  let m :=
    if m.state = .measuring then { m with measLength := m.average.map (lengthAt c.core m.caliper) } else m
  m.lower (m.source true)

/-! ### Time to splice (R130) -/

/-- The running arm as the RE has been told it: the arm whose record is in use (R119). -/
def Reel.running (r : Reel) : Option Arm :=
  if r.measA.state ≠ .noRoll then some .a else if r.measB.state ≠ .noRoll then some .b else none

def Reel.meas (r : Reel) : Arm → Meas
  | .a => r.measA
  | .b => r.measB

def Reel.setMeas (r : Reel) (x : Arm) (m : Meas) : Reel :=
  match x with
  | .a => { r with measA := m }
  | .b => { r with measB := m }

/-- T by the first case of Table 6-5-1 that holds (R130). -/
def Reel.estimate (r : Reel) (v : Nat) : Nat :=
  match r.running with
  | none => 65535
  | some x =>
    let m := r.meas x
    if v < 100 then 65535
    else if m.seed = .unseeded ∧ (m.state = .seeded ∨ m.state = .deadReckoning) then 65535
    else if m.remaining ≤ m.spliceLength then 0
    else min 65534 ((m.remaining - m.spliceLength) * 10 / v)

end Sys2Proof.Machine
end

