-- ==== Sys2Proof/Machine/Drive.lean ====
section
/-! DEFINITION. The reelstand as the runout engine and the splice sequencer drive it together: changes of splice state
with the deferred set, acceleration, matching, arming of the paste, runout and late roll (R139 to R142, R147), and the
zone-level work of the runout engine (R119 to R131). -/

namespace Sys2Proof.Machine

def reel? (z : Zone) (r : Nat) : Option Reel := z.reels.get? r

def modReel (r : Nat) (f : Reel → Reel) (z : Zone) : Zone := { z with reels := z.reels.modify r f }

/-- T of a reelstand (R130). -/
def timeToSplice (z : Zone) (r : Nat) : Nat := ((reel? z r).map (·.timeToSplice)).getD 65535

/-- The record of the running arm. -/
def runningMeas (z : Zone) (r : Nat) : Option Meas :=
  (reel? z r).bind fun x => x.running.map x.meas

def runningArm (z : Zone) (r : Nat) : Option Arm := (splice? z r).bind (·.running)

/-- The standby arm: the arm that is not running; A with no running arm (R135). -/
def standbyArm (z : Zone) (r : Nat) : Arm :=
  match runningArm z r with
  | some x => x.other
  | none => .a

/-- The serial on the running arm, 0 with no running arm. -/
def runningSerial (z : Zone) (r : Nat) : Serial :=
  match runningArm z r with
  | some x => armSerial z r x
  | none => 0

/-- The standby arm holds a standby roll: a record in state STANDBY (7-1). -/
def hasStandbyRoll (z : Zone) (r : Nat) : Bool :=
  (rollAt z (.arm r (standbyArm z r))).any fun x => x.state = .standby

/-- A change of state that the SS asks of the record on an arm, naming the serial that stands there at the event, 0 with
none (R51). (DEDUCED, log entry 61.) -/
def setArmState (e : Env) (r : Nat) (x : Arm) (st : RollState) (z : Zone) : Zone :=
  writeRoll e (.arm r x) (armSerial z r x) (fun y => { y with state := st }) z

/-! ### Splice states -/

/-- The state changes; leaving the splicing states releases the deferred set (R151). -/
def setSpliceState (e : Env) (r : Nat) (st : SpliceState) (z : Zone) : Zone :=
  let was := (splice? z r).any fun s => s.state.splicing
  let z := modSplice r (fun s => { s with state := st }) z
  if was && !st.splicing then releaseDeferred e r z else z

/-- Acceleration ends other than by a paste: accelerate off, match timer stopped, armed paste and manual splice cleared
(R138, R139, R146, R147). -/
def Splice.dropAcceleration (s : Splice) : Splice :=
  { s with accelerateOut := false, matchTimer := none, pasteArmed := false, manual := false }

/-- A paste is wanted: the running arm's L_rem is not greater than L_splice, or a manual splice is pending (R142). -/
def pasteWanted (z : Zone) (r : Nat) : Bool :=
  (splice? z r).any (·.manual) || (runningMeas z r).any fun m => m.remaining ≤ m.spliceLength

/-- In MATCHED the paste is armed by length or by a manual splice (R142). -/
def evalPaste (z : Zone) (r : Nat) : Zone :=
  if (splice? z r).any (·.state = .matched) && pasteWanted z r then modSplice r (fun s => { s with pasteArmed := true }) z
  else z

/-- MATCHED is entered: the match timer stops and the paste is evaluated (R141, R142). -/
def enterMatched (r : Nat) (z : Zone) : Zone :=
  evalPaste (modSplice r (fun s => { s with state := .matched, matchTimer := none }) z) r

/-- Acceleration starts from PREPARED (R140); with speed matched active it passes to MATCHED at once (R141). -/
def startAcceleration (e : Env) (r : Nat) (z : Zone) : Zone :=
  let z := modSplice r (fun s =>
    { s with accelerateOut := true, pasteFired := false, knifeFired := false, pasteDone := false, knifeDone := false,
             matchTimer := some (e.now + Config.matchTime), state := .accelerating }) z
  if (reelIns e r).speedMatched then enterMatched r z else z

/-- The accelerate lead A of a reelstand. -/
def leadA (e : Env) (r : Nat) : Nat := ((e.img.reel? r).map (·.lead)).getD 0

/-- The conditions of R140. -/
def mayAccelerate (e : Env) (r : Nat) (z : Zone) : Bool :=
  (splice? z r).any fun s => s.state = .prepared && timeToSplice z r ≤ leadA e r && 100 ≤ webSpeed e r &&
    !s.inhibited && !(reelIns e r).webBreak

/-- A late roll is due: SINGLE, T at A or below, not raised yet (R140). -/
def lateRollDue (e : Env) (r : Nat) (z : Zone) : Bool :=
  (splice? z r).any fun s => s.state = .single && timeToSplice z r ≤ leadA e r && !s.lateRaised

/-- What the late roll context adds when the RUNOUT call stands in the table: number, state and late flag (R140). -/
def lateCallContext (z : Zone) (r : Nat) : List CtxElem :=
  match z.supply.calls.get? (Need.runout r).key with
  | some c => [.call c.number, .number c.state.code, .number (if c.late then 1 else 0)]
  | none => []

/-- The SS's evaluation on entering PREPARED, at a change of T, and at the web break input going inactive (R140).
Machinery does not move in JOINING (R16, R153). (DEDUCED, log entry 40.) -/
def evalSplice (e : Env) (r : Nat) (z : Zone) : Zone :=
  if mayAccelerate e r z && e.active then startAcceleration e r z
  else if lateRollDue e r z then
    modSplice r (fun s => { s with lateRaised := true })
      (raise e .lateRoll
        ([.reelstand r, .serial (runningSerial z r), .number (timeToSplice z r)] ++ lateCallContext z r) z)
  else z

def enterPrepared (e : Env) (r : Nat) (z : Zone) : Zone := evalSplice e r (setSpliceState e r .prepared z)

/-- A runout is due: L_rem at or below L_min, not raised yet, and no paste or cut under way (R147). -/
def runoutDue (r : Nat) (z : Zone) : Bool :=
  (runningMeas z r).any (fun m => m.remaining ≤ m.minLength) &&
    (splice? z r).any fun s => !s.runoutRaised && s.state ≠ .pasting && s.state ≠ .cutting

/-- The runout of R147. An acceleration falls to PREPARED, which releases the held faults before the runout fault
(R151). -/
def evalRunout (e : Env) (r : Nat) (z : Zone) : Zone :=
  if runoutDue r z then
    let accelerating := (splice? z r).any fun s => s.state.splicing
    let z := modSplice r (fun s => { s with runoutRaised := true }) z
    let z := { z with splice.pressStop := true }
    let z :=
      if accelerating then
        setSpliceState e r .prepared (modSplice r (fun s => { s.dropAcceleration with inhibited := true }) z)
      else z
    raise e .runout
      [.reelstand r, .arm ((runningArm z r).getD .a), .serial (runningSerial z r)] z
  else z

/-- L_rem is given to the splice sequencer: it is compared with L_splice and with L_min (R128). -/
def lengthGiven (e : Env) (r : Nat) (z : Zone) : Zone := evalRunout e r (evalPaste z r)

/-! ### Runout calls (R131) -/

/-- The runout call conditions of R131. -/
def runoutCallHolds (e : Env) (r : Nat) (z : Zone) : Bool :=
  match e.img.reel? r, runningArm z r with
  | some c, some x =>
    c.webInUse && (rollAt z (.arm r x)).isSome && (rollAt z (.arm r x.other)).isNone &&
      timeToSplice z r ≤ c.horizon && 100 ≤ webSpeed e r && !z.supply.calls.has (Need.runout r).key
  | _, _ => false

/-- The conditions evaluated: a call is asked in ACTIVE and held in JOINING (R131). -/
def evalRunoutCall (e : Env) (r : Nat) (z : Zone) : Zone :=
  if runoutCallHolds e r z then
    match e.station with
    | .active => z.push (.askCall (.runout r))
    | .joining =>
      if z.supply.asked.contains (.runout r) then z
      else { z with supply.asked := z.supply.asked ++ [.runout r] }
    | _ => z
  else z

/-! ### The runout engine on the zone -/

/-- T is recomputed; a change, or a seeding, gives it to the splice sequencer; then the runout call conditions are
evaluated (R130, R131, R140). (DEDUCED, log entry 40.) -/
def recomputeTime (e : Env) (r : Nat) (give : Bool) (z : Zone) : Zone :=
  match reel? z r with
  | none => z
  | some x =>
    let t := x.estimate (webSpeed e r)
    let changed := t ≠ x.timeToSplice
    let z := modReel r (fun y => { y with timeToSplice := t }) z
    let z := if changed || give then evalSplice e r z else z
    evalRunoutCall e r z

/-- Step 1 of R128: for an identified roll the record on the running arm takes floor(L_rem / 1000) m, by a write that
names the arm and the serial (R51). (DEDUCED, log entry 61.) -/
def writeRemaining (e : Env) (r : Nat) (x : Arm) (m : Meas) (z : Zone) : Zone :=
  if m.serial = 0 then z
  else
    writeRoll e (.arm r x) m.serial
      (fun y => { y with data := y.data.map fun d => { d with remaining := m.remaining / 1000 } }) z

/-- T is set to its present estimate, without being given to the splice sequencer yet. -/
def setTime (e : Env) (r : Nat) (z : Zone) : Zone :=
  modReel r (fun y => { y with timeToSplice := y.estimate (webSpeed e r) }) z

/-- What follows a change of L_rem, in the order of R128: the record is written, T is recomputed, L_rem and T are
given; then the runout call conditions (R131). (DEDUCED, log entry 40.) -/
def lengthChanged (e : Env) (r : Nat) (x : Arm) (z : Zone) : Zone :=
  match reel? z r with
  | none => z
  | some reel =>
    let z := writeRemaining e r x (reel.meas x) z
    let changed := reel.estimate (webSpeed e r) ≠ reel.timeToSplice
    let z := lengthGiven e r (setTime e r z)
    let z := if changed then evalSplice e r z else z
    evalRunoutCall e r z

/-- The arm's record is seeded; T is recomputed, and L_rem and T are given (R120). The new running roll may have its own
no stock fault (R98). -/
def seedArm (e : Env) (r : Nat) (x : Arm) (z : Zone) : Zone :=
  match e.img.reel? r with
  | none => z
  | some c =>
    let roll := rollAt z (.arm r x)
    let z := { z with supply.noStockRaised := z.supply.noStockRaised.erase r }
    let z := modReel r (fun y => y.setMeas x ((y.meas x).seeded c roll)) z
    recomputeTime e r true (lengthGiven e r (setTime e r z))

/-- The splice sequencer reports the running arm (R119). (DEDUCED, log entry 41.) -/
def reportRunningArm (e : Env) (r : Nat) (running : Option Arm) (z : Zone) : Zone :=
  match running with
  | none =>
    modReel r (fun y => { measA := { y.measA with state := .noRoll }, measB := { y.measB with state := .noRoll },
                          timeToSplice := 65535 }) z
  | some x =>
    let already := (reel? z r).any fun y => (y.meas x).state ≠ .noRoll
    let z := modReel r (fun y => y.setMeas x.other { y.meas x.other with state := .noRoll }) z
    if already then z else seedArm e r x z

/-- The dead reckoning fault (R125); its context names the serial that stands on the arm. (DESIGN CHOICE, log entry 66.) -/
def raiseDeadReckoning (e : Env) (r : Nat) (x : Arm) (m : Meas) (z : Zone) : Zone :=
  raiseForReel e r .deadReckoning
    ([.reelstand r, .arm x, .serial (armSerial z r x)] ++ (m.average.map CtxElem.number).toList ++
      (m.lastRejected.map CtxElem.number).toList) z

/-- A revolution point of the running arm (R121): the record, the fault of a third reject (R125), and what follows a
change of L_rem (R128). The fault comes before what follows the change. (DESIGN CHOICE, log entry 66.) -/
def revolutionPoint (e : Env) (r : Nat) (missing : Bool) (z : Zone) : Zone :=
  match reel? z r, e.img.reel? r with
  | some reel, some c =>
    match reel.running with
    | none => z
    | some x =>
      let old := reel.meas x
      let new := old.point c.core (webCounter e r) missing
      let z := modReel r (fun y => y.setMeas x new) z
      let z :=
        if old.state ≠ .deadReckoning ∧ new.state = .deadReckoning then raiseDeadReckoning e r x new z else z
      if new.remaining ≠ old.remaining then lengthChanged e r x z else z
  | _, _ => z

/-- A missing-index point is due: the web counter is at least 6,001 mm past the reference (R121).
(DESIGN CHOICE, log entry 20.) -/
def missingIndexDue (e : Env) (z : Zone) (r : Nat) : Bool :=
  (runningMeas z r).any fun m =>
    m.reference.any fun ref => Config.missingIndex ≤ (webCounter e r - ref).toNat

/-- A missing-index point that is due and has not been served is served (DESIGN CHOICE, log entry 20). -/
def serveMissingIndex (e : Env) (r : Nat) (z : Zone) : Zone :=
  if missingIndexDue e z r then revolutionPoint e r true z else z

/-- A pulse of the encoder on the running arm's record (R127). -/
def feedRunning (r : Nat) (z : Zone) : Zone :=
  modReel r (fun y =>
    match y.running with
    | some x => y.setMeas x (y.meas x).feed
    | none => y) z

/-- A ROLL ENTRY identifies the roll on the running arm (R129). -/
def identifyRunning (e : Env) (r : Nat) (x : Arm) (serial : Serial) (caliper metres : Nat) (z : Zone) : Zone :=
  match reel? z r, e.img.reel? r with
  | some reel, some c =>
    if reel.running = some x then
      let old := reel.meas x
      let new := old.identified c serial caliper metres
      let z := modReel r (fun y => y.setMeas x new) z
      if new.remaining ≠ old.remaining then lengthChanged e r x z else z
    else z
  | _, _ => z

end Sys2Proof.Machine
end

