-- ==== Sys2Proof/Machine/Track.lean ====
section
/-! DEFINITION. The track controller's operations (Chapter 2): routes, grants and wait lists, entries and clearings,
hand-over between zones, docking, stranding, capture and release of vehicles, and the delivery estimate. -/

namespace Sys2Proof.Machine

/-! ### Records -/

def seg? (z : Zone) (k : Nat) : Option Segment := z.track.segments.get? k

def modSeg (k : Nat) (f : Segment → Segment) (z : Zone) : Zone :=
  { z with track.segments := z.track.segments.modify k f }

def setSegState (k : Nat) (st : SegState) (z : Zone) : Zone := modSeg k (fun s => { s with state := st }) z

def setPermit (k : Nat) (on : Bool) (z : Zone) : Zone := modSeg k (fun s => { s with permit := on }) z

def segState (z : Zone) (k : Nat) : Option SegState := (seg? z k).map Segment.state

def vehicle? (z : Zone) (slot : Nat) : Option Vehicle := z.track.vehicles.get? slot

def modVehicle (slot : Nat) (f : Vehicle → Vehicle) (z : Zone) : Zone :=
  { z with track.vehicles := z.track.vehicles.modify slot f }

/-- Slot and record of a vehicle number (R23: no number twice). -/
def findVehicle (z : Zone) (v : Nat) : Option (Nat × Vehicle) := z.track.vehicles.find? fun x => x.2.number = v

/-- The free slot a new record takes: the lowest (R23). (DESIGN CHOICE, log entry 53.) -/
def freeVehicleSlot (z : Zone) : Option Nat := z.track.vehicles.freeKey Config.vehicleSlots

/-- The occupancy input of a segment, and the present tag (2-1). -/
def occupied (e : Env) (k : Nat) : Bool := e.inputs.occupancy.has k
def presentTag (e : Env) (k : Nat) : Nat := (e.inputs.occupancy.get? k).getD 0
def atDock (e : Env) (d : Nat) : Bool := e.inputs.atDock.pin d

def segmentNumbers (e : Env) : List Nat := upTo e.img.segments.length

/-- Change an order of either queue. -/
def modOrder (n : Nat) (f : Order → Order) (z : Zone) : Zone :=
  let on := fun (o : Order) => if o.number = n then f o else o
  { z with transfer := { z.transfer with ordersP := z.transfer.ordersP.map on, ordersO := z.transfer.ordersO.map on } }

/-! ### Routes (R24, R25) -/

/-- The local successors of a segment, lower index first; boundary exits are not part of the graph (R25). -/
def localSuccessors (i : Image) (k : Nat) : List Nat :=
  match i.segment? k with
  | some c => [c.succ1, c.succ2].filterMap fun s => if s.station = 0 ∧ s.segment ≠ 0 then some s.segment else none
  | none => []

/-- The segments from which a goal is reached in at most n steps. -/
def reaching (i : Image) (goal : Nat) : Nat → List Nat
  | 0 => [goal]
  | n + 1 =>
    let l := reaching i goal n
    (upTo i.segments.length).filter fun k => l.contains k || (localSuccessors i k).any l.contains

/-- The path of at most n segments after k to the goal that takes the lower successor index wherever it can. -/
def walkTo (i : Image) (goal : Nat) : Nat → Nat → Option (List Nat)
  | 0, k => if k = goal then some [] else none
  | n + 1, k =>
    if k = goal then some []
    else
      match (localSuccessors i k).find? fun j => (reaching i goal n).contains j with
      | some j => (walkTo i goal n j).map (j :: ·)
      | none => none

/-- The shortest route from a segment to a goal, the lower index at the first parting (R25). -/
def routeTo (i : Image) (start goal : Nat) : Option (List Nat) :=
  ((List.range (i.segments.length + 1)).find? fun n => (reaching i goal n).contains start).bind
    fun n => walkTo i goal n start

/-- Destinations by purpose (R24). -/
inductive Goal where
  | dock (d : Nat)
  | nearestPark
  | exit (station : Nat)
  | nowhere
deriving DecidableEq, Repr

def goalOf (e : Env) (v : Vehicle) : Goal :=
  match v.purpose with
  | .ship _ _ dest d => if dest = e.own then .dock d else .exit dest
  | .returnTo st =>
    if st = e.own then (match e.img.receivingDock with
      | some d => .dock d
      | none => .dock 0)
    else .exit st
  | .home => if v.home = e.own then .nearestPark else .exit v.home
  | .fetch d => .dock d
  | .none => .nowhere

/-- The PARKING docks of the zone. -/
def parkingDocks (i : Image) : List Nat :=
  (upTo i.docks.length).filter fun d => (i.dock? d).any fun c => c.role = .parking

/-- The segment of a dock that a vehicle can stand at: a SCRAP dock has none, whatever its entry names (R22). It is the one
that the dock's own entry names; the dock that a segment names is used by nothing. (DESIGN CHOICE, log entry 55.) -/
def dockSegment (i : Image) (d : Nat) : Option Nat :=
  match i.dock? d with
  | some c => if c.role = .scrap ∨ c.segment = 0 then none else some c.segment
  | none => none

/-- The route to the nearest parking dock, the lower dock number on a tie (R24). -/
def routeToPark (i : Image) (start : Nat) : Option (List Nat) :=
  ((parkingDocks i).filterMap fun d => (dockSegment i d).bind fun k => routeTo i start k).foldl
    (fun best r =>
      match best with
      | none => some r
      | some b => if r.length < b.length then some r else some b) none

/-! ### Grants and wait lists (R26, R27, R29) -/

def inWaitList (z : Zone) (v : Nat) : Bool := z.track.segments.any fun s => s.2.wait.contains v

/-- The position of the points that leads from a segment to its local successor k. -/
def pointsFor (c : SegCfg) (k : Nat) : Nat := if c.succ1.station = 0 ∧ c.succ1.segment = k then 1 else 2

/-- Set the points of a segment, if it has points (R22): the points are those whose number the segment's own entry holds.
(DESIGN CHOICE, log entry 55.) -/
def setPoints (e : Env) (k position : Nat) (z : Zone) : Zone :=
  match e.img.segment? k with
  | some c => if c.points = 0 then z else { z with track.points := z.track.points.set c.points position }
  | none => z

/-- Segment k is granted to the vehicle of a slot (R26). The points and the permit are those of the current segment of its
record, also where that has been freed already. (DESIGN CHOICE, log entry 70.) -/
def grant (e : Env) (slot k : Nat) (z : Zone) : Zone :=
  match vehicle? z slot with
  | none => z
  | some v =>
    let z := setSegState k (.granted v.number) z
    let z := modVehicle slot (fun v =>
      { v with granted := some k, state := .moving, route := if v.route.head? = some k then v.route.tail else v.route }) z
    match v.current with
    | some c =>
      let z := match e.img.segment? c with
        | some cfg => setPoints e c (pointsFor cfg k) z
        | none => z
      setPermit c true z
    | none => z

/-- The next claim number (R29, DESIGN CHOICE, log entry 18). -/
def nextClaim (z : Zone) : Zone := { z with track.claims := z.track.claims + 1 }

/-- The request of the vehicle of a slot is taken, after every claim before it (R29). -/
def claimNow (slot : Nat) (z : Zone) : Zone :=
  let z := nextClaim z
  modVehicle slot (fun v => { v with claim := z.track.claims }) z

/-- The vehicle joins a wait list and is HELD; with 7 vehicles in it, it stays HELD outside (R26, R27). -/
def joinWait (slot v k : Nat) (z : Zone) : Zone :=
  let z := modVehicle slot (fun v => { v with state := .held }) z
  if (seg? z k).any fun s => s.wait.length < Config.waitLength then
    claimNow slot (modSeg k (fun s => { s with wait := s.wait ++ [v] }) z)
  else z

/-- A vehicle may ask for a grant (R26). -/
def mayAsk (z : Zone) (v : Vehicle) : Bool :=
  (v.state = .moving || v.state = .held) && v.granted.isNone && v.trailing.isNone && !inWaitList z v.number

/-- A vehicle asks for the first segment of its route (R26). -/
def ask (e : Env) (slot : Nat) (z : Zone) : Zone :=
  match vehicle? z slot with
  | none => z
  | some v =>
    match v.route with
    | [] => z
    | k :: _ =>
      if mayAsk z v then
        if segState z k = some .free then grant e slot k (claimNow slot z) else joinWait slot v.number k z
      else z

/-- Vehicles that stayed outside a full wait list ask again when a vehicle has left it (R27).
(DESIGN CHOICE, log entry 15.) -/
def askAgain (e : Env) (k : Nat) (z : Zone) : Zone :=
  (z.track.vehicles.map (·.1)).foldl
    (fun z slot => if (vehicle? z slot).any (fun v => v.route.head? = some k) then ask e slot z else z) z

/-- A vehicle leaves every wait list it stands in (R27). (DESIGN CHOICE, log entry 15.) -/
def leaveWaits (e : Env) (v : Nat) (z : Zone) : Zone :=
  let left := (z.track.segments.filter fun s => s.2.wait.contains v).map (·.1)
  let z := left.foldl (fun z k => modSeg k (fun s => { s with wait := s.wait.filter (· ≠ v) }) z) z
  left.foldl (fun z k =>
    (z.track.vehicles.map (·.1)).foldl
      (fun z slot =>
        if (vehicle? z slot).any (fun x => x.route.head? = some k && x.number ≠ v) then ask e slot z else z) z) z

/-! ### Hand-over frames (R35, R39, 11-2) -/

def purposeFields : Purpose → Byte × Byte × Byte
  | .ship st call _ d => (byte st, byte call, byte d)
  | .returnTo st => (byte st, 0#8, 0#8)
  | _ => (0#8, 0#8, 0#8)

def passVehicle (v : Vehicle) (target : Nat) : PassVehicle :=
  let f := purposeFields v.purpose
  ⟨byte v.number, byte v.home, byte target, byte v.purpose.code, f.1, f.2.1, f.2.2⟩

/-- The 17 roll bytes of a load, zeros after the load byte for an empty vehicle (11-2). -/
def passRoll (r : Option Roll) : PassRoll :=
  match r with
  | none => ⟨0#8, 0#32, 0#8, 0#8, 0#16, 0#8, 0#24, 0#8, 0#8, 0#16⟩
  | some r =>
    let d := r.data.getD ⟨0, 0, 0, 0⟩
    ⟨1#8, r.serial, byte r.state.code, byte d.grade, BitVec.ofNat 16 d.width, byte d.caliper,
     BitVec.ofNat 24 d.remaining, byte r.breaks, if r.defect then 1#8 else 0#8, BitVec.ofNat 16 r.waste⟩

/-- The roll that a vehicle of a slot carries: the carried record of an INCOMING one, else the record at its place. -/
def vehicleRoll (z : Zone) (slot : Nat) : Option Roll :=
  match vehicle? z slot with
  | some v => if v.state = .incoming then v.carried else rollAt z (.vehicle slot)
  | none => none

/-- PASS OFFER for the vehicle of a slot to the station and segment it is offered to (R35). -/
def sendPassOffer (e : Env) (slot : Nat) (z : Zone) : Zone :=
  match vehicle? z slot with
  | some v =>
    match v.offeredTo with
    | some (b, k) => offer e ⟨b, .passOffer (passVehicle v k) (passRoll (vehicleRoll z slot))⟩ z
    | none => z
  | none => z

/-- A deferred or fresh offer is accepted: the target is RESERVED, an INCOMING record made, PASS ACCEPT sent
(R39, R40). -/
def acceptOffer (e : Env) (slot : Nat) (o : PassOffer) (z : Zone) : Zone :=
  let z := setSegState o.target (.reserved o.number) z
  let v : Vehicle :=
    { number := o.number, state := .incoming, current := some o.target, granted := none, trailing := none,
      loaded := o.roll.isSome, purpose := o.purpose, order := none, home := o.home, route := [], handOver := .none,
      handOverTime := e.now, offeredTo := none, repeatAt := 0, unconfirmed := false, offeredBy := some o.station,
      carried := o.roll, claim := 0 }
  offer e ⟨o.station, .passAccept (byte o.number) (byte o.target)⟩
    { z with track.vehicles := z.track.vehicles.set slot v }

/-- The offer leaves the deferred list and is accepted in a slot (R40). -/
def takeDeferred (e : Env) (slot : Nat) (o : PassOffer) (z : Zone) : Zone :=
  acceptOffer e slot o { z with track.deferred := z.track.deferred.erase o }

/-- The oldest deferred offer that names a segment (R29). -/
def deferredFor (z : Zone) (k : Nat) : Option PassOffer := z.track.deferred.find? fun o => o.target = k

/-- The first vehicle of a wait list is granted the segment (R29). -/
def grantFirst (e : Env) (k : Nat) (z : Zone) : Zone :=
  match (seg? z k).bind (·.wait.head?) with
  | none => z
  | some v =>
    let z := modSeg k (fun s => { s with wait := s.wait.tail }) z
    match findVehicle z v with
    | some (slot, _) => askAgain e k (grant e slot k z)
    | none => z

/-- A segment that has become FREE is handed on to the oldest claim (R29). -/
def handOn (e : Env) (k : Nat) (z : Zone) : Zone :=
  match deferredFor z k with
  | none => grantFirst e k z
  | some o =>
    let first := (seg? z k).bind (·.wait.head?)
    let waiting := (first.bind (findVehicle z)).map fun x => x.2.claim
    if waiting.any (fun c => c < o.claim) then grantFirst e k z
    else
      match freeVehicleSlot z, findVehicle z o.number with
      | some slot, none => takeDeferred e slot o z
      | _, _ => grantFirst e k z

/-- A segment becomes FREE with its permit off and is handed on (R29). -/
def freeSegment (e : Env) (k : Nat) (z : Zone) : Zone :=
  handOn e k (modSeg k (fun s => { s with state := .free, permit := false }) z)

/-- The permit of the segment a vehicle stands on goes off, the segment still OCCUPIED by it or BLOCKED under it
(R31, R33, R38). -/
def dropPermit (v : Vehicle) (z : Zone) : Zone :=
  match v.current with
  | some c =>
    if segState z c = some (.occupied v.number) ∨ segState z c = some .blocked then setPermit c false z else z
  | none => z

/-- The grant of the vehicle of a slot is withdrawn: the permit goes off and the segment is handed on (R25, R32, R33). -/
def withdrawGrant (e : Env) (slot : Nat) (z : Zone) : Zone :=
  match vehicle? z slot with
  | some v =>
    match v.granted with
    | some g => handOn e g (setSegState g .free (dropPermit v (modVehicle slot (fun v => { v with granted := none }) z)))
    | none => z
  | none => z

/-! ### Stranding, docking, exit -/

/-- A vehicle becomes STRANDED: it gives up its grant and leaves any wait list (R25). -/
def strand (e : Env) (slot : Nat) (z : Zone) : Zone :=
  match vehicle? z slot with
  | some v =>
    let z := modVehicle slot (fun v => { v with state := .stranded, route := [] }) z
    leaveWaits e v.number (withdrawGrant e slot z)
  | none => z

def currentSegment (v : Vehicle) : List CtxElem := (v.current.map CtxElem.segment).toList

/-- No route: STRANDED with the fault of R25. -/
def strandNoRoute (e : Env) (slot : Nat) (z : Zone) : Zone :=
  match vehicle? z slot with
  | some v => raise e .stranded (.vehicle v.number :: currentSegment v) (strand e slot z)
  | none => z

/-- The vehicle is DOCKED, and the docking is reported (R30). -/
def dockVehicle (e : Env) (slot d : Nat) (z : Zone) : Zone :=
  match vehicle? z slot with
  | some v =>
    let z := modVehicle slot (fun v => { v with state := .docked }) z
    match v.purpose with
    | .ship .. | .returnTo _ => if e.img.receivingDock = some d then z.push (.unload v.number) else z
    | _ => z
  | none => z

/-- The vehicle is PARKED and offered for capture (R30, R42). -/
def parkVehicle (slot : Nat) (z : Zone) : Zone :=
  match vehicle? z slot with
  | some v => (modVehicle slot (fun v => { v with state := .parked }) z).push (.offerVehicle v.number .parked)
  | none => z

/-- The boundary successor of an exit entry (R24, R35). -/
def exitTarget (i : Image) (x : ExitCfg) : Option (Nat × Nat) :=
  (i.segment? x.segment).map fun c =>
    if x.index = 1 then (c.succ1.station, c.succ1.segment) else (c.succ2.station, c.succ2.segment)

/-- The exit is reached: PASS OFFER, status OFFERED, HELD (R35). -/
def reachExit (e : Env) (slot : Nat) (x : ExitCfg) (z : Zone) : Zone :=
  sendPassOffer e slot (modVehicle slot (fun v =>
    { v with state := .held, handOver := .offered, handOverTime := e.now, offeredTo := exitTarget e.img x,
             unconfirmed := false }) z)

/-- A vehicle with an empty route and no trailing segment waits for its dock or its hand-over (R26, R30, R35). -/
def arrive (e : Env) (slot : Nat) (v : Vehicle) (z : Zone) : Zone :=
  let z := modVehicle slot (fun v => { v with state := .held }) z
  match goalOf e v with
  | .dock d =>
    if (dockSegment e.img d).isSome && v.current = dockSegment e.img d && atDock e d then dockVehicle e slot d z else z
  | .nearestPark =>
    match (parkingDocks e.img).find? fun d => (dockSegment e.img d).isSome && v.current = dockSegment e.img d with
    | some d => if atDock e d then parkVehicle slot z else z
    | none => if (parkingDocks e.img).isEmpty then parkVehicle slot z else z
  | .exit st =>
    match e.img.exit? st with
    | some x => if v.current = some x.segment ∧ v.handOver = .none then reachExit e slot x z else z
    | none => z
  | .nowhere => z

/-- What a vehicle that is free to go does next: ask for its next segment, or wait at its destination (R26). -/
def proceed (e : Env) (slot : Nat) (z : Zone) : Zone :=
  match vehicle? z slot with
  | none => z
  | some v =>
    if v.state = .moving ∨ v.state = .held then
      if v.granted.isSome then z
      else if v.trailing.isSome then modVehicle slot (fun v => { v with state := .held }) z
      else
        match v.route with
        | _ :: _ => ask e slot z
        | [] => arrive e slot v z
    else z

/-- The route for a goal from a starting segment; none where there is no path (R25). -/
def routeFor (e : Env) (g : Goal) (start : Nat) : Option (List Nat) :=
  match g with
  | .dock d => (dockSegment e.img d).bind fun k => routeTo e.img start k
  | .nearestPark => if (parkingDocks e.img).isEmpty then some [] else routeToPark e.img start
  | .exit st => (e.img.exit? st).bind fun x => routeTo e.img start x.segment
  | .nowhere => some []

/-- The route is computed anew from the granted or the current segment (R25). In a home zone with no PARKING dock a HOME
vehicle that is MOVING or HELD is PARKED where it is, its grant withdrawn (R24; DESIGN CHOICE, log entry 54); a STRANDED
one stays as it is until SEGMENT RELEASE (R34). -/
def computeRoute (e : Env) (slot : Nat) (z : Zone) : Zone :=
  match vehicle? z slot with
  | none => z
  | some v =>
    match v.granted <|> v.current with
    | none => z
    | some start =>
      let g := goalOf e v
      match routeFor e g start with
      | none => strandNoRoute e slot z
      | some route =>
        let z := modVehicle slot (fun v => { v with route := route }) z
        if g = .nearestPark ∧ (parkingDocks e.img).isEmpty ∧ (v.state = .moving ∨ v.state = .held) then
          parkVehicle slot (withdrawGrant e slot z)
        else z

/-- The route is computed and the vehicle proceeds. -/
def routeAndGo (e : Env) (slot : Nat) (z : Zone) : Zone := proceed e slot (computeRoute e slot z)

/-- The hand-over status becomes NONE, with the zone time of the change (R23). -/
def Vehicle.noHandOver (now : Time) (v : Vehicle) : Vehicle :=
  if v.handOver = .none then v else { v with handOver := .none, handOverTime := now, offeredTo := none }

/-- A vehicle's purpose is set or changed: it leaves any wait list, leaves DOCKED or PARKED, drops a hand-over that is
not accepted yet (DESIGN CHOICE, log entry 52) and computes its route (R25, R27, R30). (DESIGN CHOICE, log entry 15.) -/
def setPurpose (e : Env) (slot : Nat) (p : Purpose) (z : Zone) : Zone :=
  match vehicle? z slot with
  | none => z
  | some v =>
    let z := leaveWaits e v.number z
    let z := modVehicle slot (fun v =>
      { (if v.handOver = .accepted then v else v.noHandOver e.now) with
        purpose := p, state := if v.state = .docked ∨ v.state = .parked then .held else v.state }) z
    routeAndGo e slot z

/-! ### Tag reads and clearings (R28, R29, R31, R32) -/

/-- The entry of a vehicle on its granted segment (R28). (DESIGN CHOICE, log entry 25.) -/
def enterSegment (e : Env) (slot k : Nat) (z : Zone) : Zone :=
  match vehicle? z slot with
  | none => z
  | some v =>
    let z := setSegState k (.occupied v.number) z
    let held := v.current.filter fun c => segState z c = some (.occupied v.number) && c ≠ k
    let z := match v.current.filter fun c => c ≠ k && (held.isSome || segState z c = some .blocked) with
      | some c => setPermit c false z
      | none => z
    let trailing := held.filter fun c => occupied e c
    let z := match held with
      | some c => if occupied e c then z else freeSegment e c z
      | none => z
    let z := modVehicle slot (fun v =>
      { v with current := some k, granted := none, trailing := trailing,
               state := if trailing.isSome then .held else .moving }) z
    proceed e slot z

/-- The carried roll enters the roll table at its vehicle's place (R41). (DEDUCED, log entry 26.) -/
def enterCarried (e : Env) (slot : Nat) (r : Roll) (z : Zone) : Zone :=
  if r.serial ≠ 0 ∧ (findSerial z r.serial).isSome then
    raise e .mismatch [.place (.vehicle slot), .serial r.serial]
      (setRoll (.vehicle slot)
        { unidentified .shipping with breaks := r.breaks, waste := r.waste, defect := r.defect } z)
  else setRoll (.vehicle slot) { r with state := .shipping, reservation := none } z

/-- The arrival of an incoming vehicle at a segment (R41); PASS DONE names the segment that was reserved.
(DESIGN CHOICE, log entry 14.) -/
def arriveIncoming (e : Env) (slot k : Nat) (z : Zone) : Zone :=
  match vehicle? z slot with
  | none => z
  | some v =>
    let reserved := v.current
    let z := setSegState k (.occupied v.number) z
    let z := modVehicle slot (fun v =>
      { v with state := .held, current := some k, carried := none, offeredBy := none }) z
    let z := match v.carried with
      | some r => enterCarried e slot r z
      | none => z
    let z := match v.offeredBy with
      | some st => offer e ⟨st, .passDone (byte v.number) (byte (reserved.getD k))⟩ z
      | none => z
    let z := routeAndGo e slot z
    if v.loaded then z else z.push (.offerVehicle v.number .entered)

/-- An unexpected tag read blocks the segment (R31). (DESIGN CHOICE, log entry 15.) An intrusion expects no vehicle and
names none, on an OCCUPIED segment too. (DESIGN CHOICE, log entry 56.) -/
def tagMismatch (e : Env) (k tag : Nat) (z : Zone) : Zone :=
  let block := fun (z : Zone) => setSegState k .blocked z
  match segState z k with
  | some (.granted v) =>
    let z := match findVehicle z v with
      | some (slot, veh) =>
        let z := modVehicle slot (fun x =>
          { x with granted := none, state := .held, route := k :: x.route }) (dropPermit veh z)
        modSeg k (fun s => { s with wait := (v :: s.wait).take Config.waitLength }) z
      | none => z
    raise e .tagMismatch [.segment k, .vehicle v, .number tag] (block z)
  | some (.reserved v) => raise e .tagMismatch [.segment k, .vehicle v, .number tag] (block z)
  | some _ => raise e .intrusion [.segment k, .number tag] (block z)
  | none => z

/-- A tag read on a segment (R28, R31, R41). -/
def readTag (e : Env) (k tag : Nat) (z : Zone) : Zone :=
  match segState z k with
  | none => z
  | some (.granted v) =>
    if v = tag then
      (match findVehicle z v with
       | some (slot, _) => enterSegment e slot k z
       | none => tagMismatch e k tag z)
    else tagMismatch e k tag z
  | some (.reserved v) =>
    if v = tag then
      (match findVehicle z v with
       | some (slot, _) => arriveIncoming e slot k z
       | none => tagMismatch e k tag z)
    else tagMismatch e k tag z
  | some _ => tagMismatch e k tag z

/-- The vehicle of a slot is lost from its segment (R32); its hand-over status is kept. (DESIGN CHOICE, log entry 63.) -/
def loseVehicle (e : Env) (slot k : Nat) (v : Vehicle) (z : Zone) : Zone :=
  let z := modSeg k (fun s => { s with state := .blocked, permit := false }) z
  let z := strand e slot z
  let z := modVehicle slot (fun v => { v with current := none }) z
  raise e .intrusion [.segment k, .vehicle v.number] z

/-- A vehicle may leave its current segment: permit on, a grant held, or handed on (R29; DEDUCED, log entry 22). -/
def mayLeave (z : Zone) (k : Nat) (v : Vehicle) : Bool :=
  (seg? z k).any (·.permit) || v.granted.isSome || v.state = .passing

/-- The occupancy input of a segment clears (R29, R32, R38). (DEDUCED, log entry 22.) (DESIGN CHOICE, log entry 24.) A
BLOCKED one that clears leaves a record's trailing entry as it is. (DESIGN CHOICE, log entry 62.) -/
def clearSegment (e : Env) (k : Nat) (z : Zone) : Zone :=
  match segState z k with
  | some (.occupied n) =>
    match findVehicle z n with
    | none => freeSegment e k z
    | some (slot, v) =>
      if v.trailing = some k then
        proceed e slot (modVehicle slot (fun v => { v with trailing := none }) (freeSegment e k z))
      else if v.current = some k then
        (if mayLeave z k v then freeSegment e k z else loseVehicle e slot k v z)
      else freeSegment e k z
  | _ => z

/-! ### Hand-over answers (R36 to R38, R40) -/

/-- The exit segment's points and permit for an accepted vehicle (R36); a vehicle whose position was lost has neither set.
(DESIGN CHOICE, log entry 63.) -/
def openExit (e : Env) (v : Vehicle) (z : Zone) : Zone :=
  match v.current, v.offeredTo with
  | some c, some (b, k) =>
    match e.img.segment? c with
    | some cfg =>
      setPermit c true (setPoints e c (if cfg.succ1.station = b ∧ cfg.succ1.segment = k then 1 else 2) z)
    | none => z
  | _, _ => z

/-- PASS ACCEPT is taken (R36). -/
def passAccepted (e : Env) (slot : Nat) (v : Vehicle) (z : Zone) : Zone :=
  modVehicle slot (fun v => { v with state := .passing, handOver := .accepted, handOverTime := e.now,
                                     unconfirmed := false }) (openExit e v z)

/-- The vehicle that an answer from a station names by number and target segment (R36). -/
def answered (z : Zone) (station vehicle segment : Nat) : Option (Nat × Vehicle) :=
  match findVehicle z vehicle with
  | some (slot, v) => if v.offeredTo = some (station, segment) then some (slot, v) else none
  | none => none

/-- The oldest deferred offer whose target is FREE and whose vehicle stands in no record is taken, with a free slot
(R40). (DEDUCED, log entry 19.) -/
def offerFreedSlot (e : Env) (z : Zone) : Zone :=
  match freeVehicleSlot z with
  | none => z
  | some slot =>
    match z.track.deferred.find? fun o => segState z o.target = some .free && (findVehicle z o.number).isNone with
    | some o => takeDeferred e slot o z
    | none => z

/-- The deferred offer of a vehicle number that has left the table is taken if its target is FREE (R40).
(DEDUCED, log entry 19.) -/
def offerLeftNumber (e : Env) (v : Nat) (z : Zone) : Zone :=
  match freeVehicleSlot z, z.track.deferred.find? (fun o => o.number = v) with
  | some slot, some o =>
    if segState z o.target = some .free ∧ (findVehicle z v).isNone then takeDeferred e slot o z else z
  | _, _ => z

/-- The record of a vehicle handed on is deleted with its roll; the freed slot goes to the deferred list (R38).
(DEDUCED, log entry 19.) -/
def deletePassed (e : Env) (slot : Nat) (v : Vehicle) (z : Zone) : Zone :=
  let z := dropPermit v z
  let z := eraseRoll (.vehicle slot) { z with track.vehicles := z.track.vehicles.erase slot }
  offerLeftNumber e v.number (offerFreedSlot e z)

/-- A frame from a station shows that it is alive: its unanswered offers are sent once more (R37).
(DESIGN CHOICE, log entry 8; that they go in rising slot is log entry 67.) -/
def senderAlive (e : Env) (station : Nat) (z : Zone) : Zone :=
  (z.track.vehicles.filter fun v =>
      v.2.handOver = .timedOut && v.2.offeredTo.any fun o => o.1 = station).foldl
    (fun z v => sendPassOffer e v.1 (modVehicle v.1 (fun v =>
      { v with handOver := .offered, handOverTime := e.now }) z)) z

/-! ### Capture and release (R42, R43, R44) -/

/-- An order waits for a vehicle: its trigger names a dock with a vehicle, and none is assigned (2-6). -/
def waitsForVehicle (o : Order) : Bool :=
  o.req.dockTrigger.isSome && o.vehicle.isNone && (o.req.origin = .ship || o.req.origin = .buttClear)

/-- The oldest order that waits for a vehicle, across both queues (R42). -/
def oldestWaiting (z : Zone) : Option Order :=
  ((allOrders z).filter waitsForVehicle).foldl
    (fun best o =>
      match best with
      | none => some o
      | some b => if o.accepted < b.accepted then some o else some b) none

/-- An order captures a vehicle (R42). (DESIGN CHOICE, log entry 16.) -/
def capture (e : Env) (slot : Nat) (v : Vehicle) (o : Order) (z : Zone) : Zone :=
  let z := modOrder o.number (fun o => { o with vehicle := some v.number }) z
  let z := modVehicle slot (fun v => { v with order := some o.number }) z
  setPurpose e slot (.fetch (o.req.dockTrigger.getD 0)) z

/-- An empty vehicle is offered for capture (R42). (DESIGN CHOICE, log entry 16.) -/
def offerVehicle (e : Env) (v : Nat) (why : CaptureMoment) (z : Zone) : Zone :=
  match findVehicle z v with
  | none => z
  | some (slot, veh) =>
    if veh.loaded ∨ veh.order.isSome then z
    else
      match oldestWaiting z with
      | some o => capture e slot veh o z
      | none =>
        match why with
        | .emptied | .released => setPurpose e slot .home z
        | _ => z

/-- A candidate for an order that begins to wait (R43). -/
def captureCandidate (v : Vehicle) : Bool :=
  !v.loaded && v.order.isNone && v.handOver = .none &&
    (v.state = .moving || v.state = .held || v.state = .docked || v.state = .parked) &&
    (match v.purpose with
     | .home | .none | .fetch _ => true
     | _ => false)

/-- The candidate with the lowest vehicle number (R43). -/
def lowestCandidate (z : Zone) : Option (Nat × Vehicle) :=
  (z.track.vehicles.filter fun v => captureCandidate v.2).foldl
    (fun best x =>
      match best with
      | none => some x
      | some b => if x.2.number < b.2.number then some x else some b) none

/-- An order begins to wait for a vehicle (R43). -/
def assignVehicle (e : Env) (n : Nat) (z : Zone) : Zone :=
  match (allOrders z).find? fun o => o.number = n && waitsForVehicle o with
  | none => z
  | some o =>
    match lowestCandidate z with
    | some (slot, v) => capture e slot v o z
    | none => z

/-- An order that ended without loading its vehicle releases it (R43). (DESIGN CHOICE, log entry 16.) -/
def releaseVehicle (v : Nat) (order : Nat) (z : Zone) : Zone :=
  match findVehicle z v with
  | some (slot, veh) =>
    if veh.order = some order then
      (modVehicle slot (fun v => { v with order := none }) z).push (.offerVehicle v .released)
    else z
  | none => z

/-- A SET onto a docked vehicle starts it (R44). -/
def startVehicle (e : Env) (slot : Nat) (p : Purpose) (z : Zone) : Zone :=
  setPurpose e slot p (modVehicle slot (fun v => { v with loaded := true, order := none }) z)

/-! ### Delivery estimate (R45) -/

def transitOf (i : Image) (k : Nat) : Nat := ((i.segment? k).map (·.transit)).getD 0

/-- An empty PARKED vehicle without an assigned order stands in the zone (R45). -/
def parkedReady (z : Zone) : Bool :=
  z.track.vehicles.any fun v => v.2.state = .parked && !v.2.loaded && v.2.order.isNone

/-- The delivery estimate for a calling station; none in the cases of R45. -/
def deliveryEstimate (e : Env) (z : Zone) (station : Nat) : Option Nat :=
  match e.img.loadingDock.bind (dockSegment e.img), e.img.exit? station with
  | some start, some x =>
    (routeTo e.img start x.segment).map fun route =>
      min 65534 (((start :: route).map (transitOf e.img)).sum + x.hops * e.img.meanTransit +
        2 * e.img.transferTime + if parkedReady z then 0 else e.img.penalty)
  | _, _ => none

/-! ### Segment release (R33, R34) -/

/-- A vehicle found on a BLOCKED segment is moved there (R33). (DESIGN CHOICE, log entry 14.)
(DESIGN CHOICE, log entry 24.) -/
def moveHere (e : Env) (slot k : Nat) (v : Vehicle) (z : Zone) : Zone :=
  let z := leaveWaits e v.number z
  let z := withdrawGrant e slot z
  let old := ([v.current, v.trailing].filterMap id).filter fun c =>
    c ≠ k && segState z c = some (.occupied v.number) && occupied e c
  let z := old.foldl (fun z c => setPermit c false z) z
  let z := setSegState k (.occupied v.number) z
  let z := modVehicle slot (fun v =>
    { v.noHandOver e.now with current := some k, trailing := old.head?, state := .held }) z
  routeAndGo e slot z

/-- A vehicle not in the table is adopted (R33). (DESIGN CHOICE, log entry 47.) -/
def adopt (e : Env) (slot k tag : Nat) (z : Zone) : Zone :=
  let v : Vehicle :=
    { number := tag, state := .held, current := some k, granted := none, trailing := none, loaded := false,
      purpose := .none, order := none, home := e.own, route := [], handOver := .none, handOverTime := e.now,
      offeredTo := none, repeatAt := 0, unconfirmed := false, offeredBy := none, carried := none, claim := 0 }
  let z := setSegState k (.occupied tag) { z with track.vehicles := z.track.vehicles.set slot v }
  z.push (.offerVehicle tag .entered)

/-- A STRANDED vehicle is redirected: a loaded one to the own receiving dock; an empty one is offered for capture and
otherwise goes HOME (R34, R42). (DESIGN CHOICE, log entry 16.) -/
def redirect (e : Env) (slot : Nat) (v : Vehicle) (z : Zone) : Zone :=
  let z := modVehicle slot (fun v => { v with state := .held }) z
  if v.loaded then setPurpose e slot (.returnTo e.own) z
  else
    let z := match v.order with
      | some n => modOrder n (fun o => { o with vehicle := none }) z
      | none => z
    let z := modVehicle slot (fun v => { v with home := e.own, order := none }) z
    match oldestWaiting z with
    | some o => capture e slot v o z
    | none => setPurpose e slot .home z

/-- An incoming vehicle is taken in at a segment that need not be the one reserved; the segment its record named is
released to FREE, one that has become BLOCKED too (R33, R41). -/
def takeInHere (e : Env) (slot k : Nat) (v : Vehicle) (z : Zone) : Zone :=
  let z' := arriveIncoming e slot k z
  match v.current with
  | some c =>
    if c ≠ k ∧ (segState z' c = some (.reserved v.number) ∨ segState z' c = some .blocked) then freeSegment e c z' else z'
  | none => z'

/-- SEGMENT RELEASE for a BLOCKED segment (Table 2-4-1). -/
def releaseBlocked (e : Env) (k : Nat) (z : Zone) : Zone × Result :=
  if occupied e k then
    let tag := presentTag e k
    match findVehicle z tag with
    | some (slot, v) =>
      if v.state = .incoming then (takeInHere e slot k v z, .done)
      else if v.state = .passing then (z, .refusedState)
      else (moveHere e slot k v z, .done)
    | none =>
      match freeVehicleSlot z with
      | some slot => if vehicleOk tag then (adopt e slot k tag z, .done) else (z, .refusedState)
      | none => (z, .refusedState)
  else
    match z.track.vehicles.find? fun v => v.2.state = .incoming && v.2.current = some k with
    | some (_, v) => (setSegState k (.reserved v.number) z, .done)
    | none => (freeSegment e k z, .done)

/-- The PASSING vehicle whose unconfirmed hand-over a release of segment k ends; of several, the one of the lowest slot
(Table 2-4-1). (DESIGN CHOICE, log entry 53.) -/
def unconfirmedAt (z : Zone) (k : Nat) : Option (Nat × Vehicle) :=
  z.track.vehicles.find? fun v => v.2.state = .passing && v.2.unconfirmed && v.2.current = some k

/-- The STRANDED vehicle without a hand-over that stands on segment k (Table 2-4-1). -/
def strandedAt (z : Zone) (k : Nat) : Option (Nat × Vehicle) :=
  match segState z k with
  | some (.occupied n) =>
    match findVehicle z n with
    | some (slot, v) => if v.state = .stranded ∧ v.handOver = .none then some (slot, v) else none
    | none => none
  | _ => none

/-- SEGMENT RELEASE (R33). -/
def segmentReleased (e : Env) (k : Nat) (z : Zone) : Zone × Result :=
  match segState z k with
  | none => (z, .refusedRange)
  | some .blocked => releaseBlocked e k z
  | some _ =>
    match strandedAt z k with
    | some (slot, v) => (redirect e slot v z, .done)
    | none =>
      match unconfirmedAt z k with
      | some (slot, v) => if occupied e k then (z, .refusedState) else (deletePassed e slot v z, .done)
      | none => (z, .refusedState)

/-! ### Restart (R46, R47) -/

/-- The warm restart of the track (R47). -/
def restartTrack (z : Zone) : Zone :=
  let segments := z.track.segments.map fun (k, s) => (k, { s with permit := false })
  let captured := z.track.vehicles.filter fun v => v.2.order.isSome
  let segments := segments.map fun (k, s) =>
    (k, { s with wait := s.wait.filter fun v => !captured.any fun c => c.2.number = v })
  let vehicles := z.track.vehicles.map fun (k, v) =>
    (k, if v.order.isSome then
          { v with order := none, purpose := .home,
                   state := if v.state = .moving ∨ v.state = .docked ∨ v.state = .parked then .held else v.state }
        else { v with state := if v.state = .moving then .held else v.state })
  { z with track := { z.track with segments := segments, vehicles := vehicles, deferred := [] } }

/-- A vehicle found at start (R46). (DESIGN CHOICE, log entry 47.) -/
def foundVehicle (e : Env) (k tag : Nat) (z : Zone) : Zone :=
  match freeVehicleSlot z with
  | none => setSegState k .blocked z
  | some slot =>
    let v : Vehicle :=
      { number := tag, state := .held, current := some k, granted := none, trailing := none, loaded := false,
        purpose := .none, order := none, home := e.own, route := [], handOver := .none, handOverTime := e.now,
        offeredTo := none, repeatAt := 0, unconfirmed := false, offeredBy := none, carried := none, claim := 0 }
    setSegState k (.occupied tag) { z with track.vehicles := z.track.vehicles.set slot v }

/-- On entering ACTIVE after power-on reset, when the vehicle table is empty: the segments are read and the vehicles found,
in ascending order of number (R46). (DESIGN CHOICE, log entry 47.) -/
def scanTrack (e : Env) (z : Zone) : Zone :=
  let read := (segmentNumbers e).filter (occupied e)
  let tags := read.map (presentTag e)
  let bad := read.filter fun k => presentTag e k = 0 || 1 < tags.count (presentTag e k)
  let z := bad.foldl (fun z k => setSegState k .blocked z) { z with track.vehicles := [] }
  (upTo 63).foldl
    (fun z tag =>
      match read.filter fun k => presentTag e k = tag with
      | [k] => foundVehicle e k tag z
      | _ => z) z

/-- The difference that a segment shows on entering ACTIVE after a warm restart, taken as its event (R47).
(DEDUCED, log entry 22.) (DEDUCED, log entry 23.) -/
def takeDifference (e : Env) (k : Nat) (z : Zone) : Zone :=
  if occupied e k then
    match segState z k with
    | some (.occupied v) => if presentTag e k = v ∨ presentTag e k = 0 then z else tagMismatch e k (presentTag e k) z
    | some .blocked => z
    | some _ => readTag e k (presentTag e k) z
    | none => z
  else clearSegment e k z

/-- After the differences: permits on again, dock inputs followed, routes computed and grants asked (R47). A segment
BLOCKED under the vehicle takes its permit as the OCCUPIED one does; a STRANDED vehicle computes its route and stays
where it is (R34). (DEDUCED, log entry 23.) A grant holder between two segments, its old one freed already, becomes MOVING
with no permit to turn on. (DESIGN CHOICE, log entry 64.) -/
def resumeVehicle (e : Env) (slot : Nat) (z : Zone) : Zone :=
  match vehicle? z slot with
  | none => z
  | some v =>
    let here := v.current.filter fun c => segState z c = some (.occupied v.number)
    let blocked := v.current.filter fun c => segState z c = some .blocked
    let permitOn := fun (c : Option Nat) (z : Zone) => match c with
      | some c => setPermit c true z
      | none => z
    match v.state with
    | .incoming => z
    | .passing => permitOn (here <|> blocked.filter fun c => presentTag e c = v.number) z
    | .stranded | .parked => computeRoute e slot z
    | .docked =>
      (match goalOf e v with
       | .dock d => computeRoute e slot (if atDock e d then z else modVehicle slot (fun v => { v with state := .held }) z)
       | _ => computeRoute e slot z)
    | .moving | .held =>
      if v.granted.isSome then
        computeRoute e slot (modVehicle slot (fun v => { v with state := .moving }) (permitOn (here <|> blocked) z))
      else routeAndGo e slot z

def resumeTrack (e : Env) (z : Zone) : Zone :=
  let z := (segmentNumbers e).foldl (fun z k => takeDifference e k z) z
  (upTo Config.vehicleSlots).foldl (fun z slot => resumeVehicle e slot z) z

end Sys2Proof.Machine
end

