-- ==== Sys2Proof/Machine/Splice.lean ====
section
/-! DEFINITION. The splice sequencer (Chapter 7): what arms may be loaded or emptied, rolls set, found, lost and taken,
paste, knife and arm swap, splice failures and their end, and the reading of the arms on entering ACTIVE. -/

namespace Sys2Proof.Machine

def reelNumbers (e : Env) : List Nat := upTo e.img.reels.length

def spliceState (z : Zone) (r : Nat) : Option SpliceState := (splice? z r).map Splice.state

/-- An arm may be loaded (R135). -/
def mayLoad (e : Env) (z : Zone) (r : Nat) (x : Arm) : Bool :=
  armOpen e r x &&
    match splice? z r with
    | some s =>
      (s.state = .empty && (rollAt z (.arm r .a)).isNone && (rollAt z (.arm r .b)).isNone) ||
        (s.state = .single && s.running ≠ some x)
    | none => false

/-- An arm may be emptied (R135). -/
def mayEmpty (e : Env) (z : Zone) (r : Nat) (x : Arm) : Bool :=
  armOpen e r x &&
    match splice? z r with
    | some s =>
      s.running ≠ some x &&
        (s.state = .empty || s.state = .single || s.state = .loaded || s.state = .prepared)
    | none => false

/-! ### Arm contents (R136 to R138) -/

/-- Arm x becomes the running arm with the roll on it RUNNING, the state SINGLE; the new running roll takes clear runout
and late flags, the runout engine seeds the arm (R136, R138, R149). -/
def makeRunning (e : Env) (r : Nat) (x : Arm) (z : Zone) : Zone :=
  let z := setArmState e r x .running z
  let z := setSpliceState e r .single z
  let z := modSplice r (fun s =>
    { s with running := some x, runoutRaised := false, lateRaised := false, inhibited := false }) z
  reportRunningArm e r (some x) z

/-- Arm x becomes running other than by the arm swap, which the web path block is told (R156). -/
def threadRunning (e : Env) (r : Nat) (x : Arm) (z : Zone) : Zone :=
  reportRunningRoll e r (armSerial z r x) (makeRunning e r x z)

/-- A standby roll stands on the standby arm: LOADED, and PREPARED when standby ready is active (R136, R139). -/
def becomeLoaded (e : Env) (r : Nat) (x : Arm) (z : Zone) : Zone :=
  let z := setArmState e r x .standby z
  let z := setSpliceState e r .loaded (modSplice r (fun s => { s with inhibited := false }) z)
  if (reelIns e r).standbyReady then enterPrepared e r z else z

/-- A record stands on an arm after a set or a finding, by the state before (R136, R138). -/
def rollOnArm (e : Env) (r : Nat) (x : Arm) (z : Zone) : Zone :=
  match splice? z r with
  | none => z
  | some s =>
    if s.state = .empty then threadRunning e r x z
    else if s.state = .single ∧ s.running ≠ some x then becomeLoaded e r x z
    else setArmState e r x .standby z

/-- A roll has been set on an arm (R136); ownLoad: by a load order of the reelstand's RUNOUT call. -/
def rollSet (e : Env) (r : Nat) (x : Arm) (ownLoad : Bool) (z : Zone) : Zone :=
  let z := rollOnArm e r x z
  if ownLoad then z else z.push (.withdrawCall (.runout r))

/-- A butt that has gone needs no BUTT_CLEAR: one held for lack of room is withdrawn (R74, R144).
(DEDUCED, log entry 39.) -/
def withdrawButtClear (r : Nat) (x : Arm) (z : Zone) : Zone :=
  { z with transfer.heldP := z.transfer.heldP.filter fun q => !(q.origin = .buttClear && q.source = .arm r x) }

/-- A record has left an arm by PICK or ROLL REMOVE (R137). (DEDUCED, log entry 39.) In a case with no row
the splice state is kept. (DESIGN CHOICE, log entry 74.) -/
def recordLeft (e : Env) (r : Nat) (x : Arm) (z : Zone) : Zone :=
  let z := withdrawButtClear r x z
  match splice? z r with
  | none => z
  | some s =>
    if (s.state = .loaded ∨ s.state = .prepared) ∧ s.running ≠ some x then
      setSpliceState e r .single (modSplice r (fun s => { s with inhibited := false }) z)
    else z

/-- A roll is found on an arm that holds no record (R138). -/
def armFound (e : Env) (r : Nat) (x : Arm) (z : Zone) : Zone :=
  match splice? z r with
  | none => z
  | some s =>
    let place := setRoll (.arm r x)
    if s.state = .empty then threadRunning e r x (place (unidentified .running) z)
    else if s.state = .single ∧ s.running ≠ some x then
      (becomeLoaded e r x (place (unidentified .standby) z)).push (.withdrawCall (.runout r))
    else if standbyArm z r = x then place (unidentified .standby) z
    else place (unidentified .butt) z

/-! ### Splice failures (R146) -/

/-- SPLICE_FAILED is entered: outputs off and timers stopped, deferred set released, press stop on, fault raised (R146).
(DESIGN CHOICE, log entry 38.) -/
def enterFailed (e : Env) (r : Nat) (code : FaultCode) (cause : SpliceCause) (z : Zone) : Zone :=
  let z := modSplice r (fun s =>
    { s with accelerateOut := false, pasteOut := false, knifeOut := false, matchTimer := none, pasteTimer := none,
             knifeTimer := none }) z
  let z := setSpliceState e r .spliceFailed z
  let z := { z with splice.pressStop := true }
  let arm := (runningArm z r).getD .a
  raise e code
    [.reelstand r, .arm arm, .serial (armSerial z r arm), .serial (armSerial z r arm.other), .cause cause] z

/-- The code of a splice failure by the state: missed paste in PASTING, missed knife in CUTTING. -/
def failureCode (s : SpliceState) : FaultCode := if s = .pasting then .missedPaste else .missedKnife

/-- The record on an arm that reads empty is lost (R138, Table 7-2-1). (DESIGN CHOICE, log entry 38.)
(DEDUCED, log entry 39.) -/
def armLost (e : Env) (r : Nat) (x : Arm) (z : Zone) : Zone :=
  match splice? z r with
  | none => z
  | some s =>
    let serial := armSerial z r x
    let z := raiseForReel e r .mismatch [.place (.arm r x), .serial serial] z
    let z := withdrawButtClear r x (eraseRoll (.arm r x) (release (Place.arm r x).key z))
    match s.state with
    | .empty | .spliceFailed => z
    | .single =>
      if s.running = some x then
        reportRunningArm e r none
          (modSplice r (fun s => { s with running := none }) (setSpliceState e r .empty z))
      else z
    | .loaded | .prepared | .accelerating | .matched =>
      let z := modSplice r Splice.dropAcceleration z
      if s.running = some x then threadRunning e r x.other z
      else setSpliceState e r .single (modSplice r (fun s => { s with inhibited := false }) z)
    | .pasting | .cutting => enterFailed e r (failureCode s.state) (.rollPresent x) z

/-! ### Inputs of the reelstand (R139, R141, R142, R143, R146) -/

/-- Standby ready takes a level (R139). -/
def standbyReadyChanged (e : Env) (r : Nat) (active : Bool) (z : Zone) : Zone :=
  match spliceState z r with
  | some .loaded => if active then enterPrepared e r z else z
  | some .prepared => if active then z else setSpliceState e r .loaded z
  | some .accelerating | some .matched =>
    if active then z else setSpliceState e r .loaded (modSplice r Splice.dropAcceleration z)
  | _ => z

/-- Speed matched takes a level (R141). -/
def speedMatchedChanged (e : Env) (r : Nat) (active : Bool) (z : Zone) : Zone :=
  match spliceState z r with
  | some .accelerating => if active then enterMatched r z else z
  | some .matched =>
    if active then z
    else modSplice r (fun s =>
      { s with state := .accelerating, matchTimer := some (e.now + Config.matchTime), pasteArmed := false }) z
  | _ => z

/-- The match timer expires in ACCELERATING (R141). -/
def matchExpired (e : Env) (r : Nat) (z : Zone) : Zone :=
  let serial := armSerial z r (standbyArm z r)
  let z := modSplice r (fun s => { s.dropAcceleration with inhibited := true }) z
  raise e .matchTimeout [.reelstand r, .serial serial] (setSpliceState e r .prepared z)

/-- The armed paste fires at the standby arm's index in MATCHED (R142). -/
def firePaste (e : Env) (r : Nat) (z : Zone) : Zone :=
  modSplice r (fun s =>
    { s with pasteOut := true, pasteFired := true, pasteArmed := false, manual := false,
             pasteTimer := some (e.now + Config.pasteTime), state := .pasting }) z

/-- The knife fires in CUTTING (R143). -/
def fireKnife (e : Env) (r : Nat) (z : Zone) : Zone :=
  modSplice r (fun s =>
    { s with knifeOut := true, knifeFired := true, knifeArmed := none,
             knifeTimer := some (e.now + Config.knifeTime) }) z

/-- The splice mark of the splice in progress (R142). -/
def markSplice (e : Env) (r : Nat) (z : Zone) : Zone :=
  let arm := (runningArm z r).getD .a
  giveSpliceMark e r (armSerial z r arm) (armSerial z r arm.other) z

/-- Paste done becomes active (R142). -/
def pasteMade (e : Env) (r : Nat) (z : Zone) : Zone :=
  match splice? z r with
  | none => z
  | some s =>
    if s.state = .pasting then
      modSplice r (fun s =>
        { s with pasteOut := false, pasteTimer := none, pasteDone := true, knifeArmed := some e.now,
                 state := .cutting }) (markSplice e r z)
    else if s.state = .spliceFailed ∧ s.pasteFired ∧ !s.pasteDone then
      modSplice r (fun s => { s with pasteDone := true }) (markSplice e r z)
    else z

/-- The request of a BUTT_CLEAR order for the butt on an arm (R144); its destination is fixed when it is accepted (R76). -/
def buttClearRequest (r : Nat) (x : Arm) (serial : Serial) : OrderReq :=
  { queue := .p, origin := .buttClear, serial := serial, source := .arm r x, dest := .anyButt, dockTrigger := none,
    armTrigger := none, vehicle := none, callRef := none }

/-- The arm swap (R144): the standby arm becomes the running arm, the old roll a BUTT, and its BUTT_CLEAR is asked, with
serial 0 where the old roll's record was lost. (DESIGN CHOICE, log entry 38.) -/
def swapArms (e : Env) (r : Nat) (z : Zone) : Zone :=
  match splice? z r with
  | none => z
  | some s =>
    match s.running with
    | none => z
    | some old =>
      let z := setArmState e r old .butt (setArmState e r old.other .running z)
      let z := modSplice r (fun s =>
        { s with accelerateOut := false, running := some old.other, runoutRaised := false, lateRaised := false,
                 inhibited := false }) z
      let z := if s.state = .cutting then setSpliceState e r .single z else z
      let z := reportRunningArm e r (some old.other) z
      z.push (.requestOrder (buttClearRequest r old (armSerial z r old)))

/-- Knife done becomes active after the knife has fired in this splice (R143). (DESIGN CHOICE, log entry 38.) -/
def knifeMade (e : Env) (r : Nat) (z : Zone) : Zone :=
  match splice? z r with
  | none => z
  | some s =>
    if (s.state = .cutting ∨ s.state = .spliceFailed) ∧ s.knifeFired ∧ !s.knifeDone then
      swapArms e r (modSplice r (fun s => { s with knifeOut := false, knifeTimer := none, knifeDone := true }) z)
    else z

/-- The web break input becomes active, in the splice states (Table 7-6-1). -/
def webBroken (e : Env) (r : Nat) (z : Zone) : Zone :=
  match spliceState z r with
  | some .accelerating | some .matched => enterPrepared e r (modSplice r Splice.dropAcceleration z)
  | some .pasting => enterFailed e r .missedPaste .webBreak z
  | some .cutting => enterFailed e r .missedKnife .webBreak z
  | _ => z

/-- A revolution index of arm x (R121, R142, R143): the revolution point of the running arm and the knife in CUTTING;
the armed paste at the standby arm's index in MATCHED, while a paste is still wanted. (DESIGN CHOICE, log entry 20.) -/
def revolutionIndexed (e : Env) (r : Nat) (x : Arm) (z : Zone) : Zone :=
  let z := serveMissingIndex e r z
  if (reel? z r).any (fun y => y.running = some x) then
    let z := revolutionPoint e r false z
    if (splice? z r).any (fun s => s.state = .cutting && s.knifeArmed.isSome) then fireKnife e r z else z
  else if (splice? z r).any (fun s => s.state = .matched && s.pasteArmed && s.running = some x.other) &&
      pasteWanted z r then
    firePaste e r z
  else z

/-! ### SPLICE NOW (R145) -/

def spliceByHand (e : Env) (r : Nat) (z : Zone) : Zone × Result :=
  match spliceState z r with
  | none => (z, .refusedRange)
  | some .prepared => (startAcceleration e r (modSplice r (fun s => { s with inhibited := false }) z), .done)
  | some .accelerating | some .matched =>
    (evalPaste (modSplice r (fun s => { s with manual := true }) z) r, .done)
  | some _ => (z, .refusedState)

/-! ### The end of SPLICE_FAILED (R148, R149) -/

def Splice.clearSplice (s : Splice) : Splice :=
  { s with manual := false, pasteArmed := false, knifeArmed := none, pasteFired := false, knifeFired := false,
           pasteDone := false, knifeDone := false }

/-- A reelstand leaves SPLICE_FAILED on FAULT ACK with its web break input inactive (R149). A roll on the running arm
that was not RUNNING, found or placed there after the loss of the running roll, is reported (R156). -/
def leaveFailed (e : Env) (r : Nat) (z : Zone) : Zone :=
  match splice? z r with
  | none => z
  | some s =>
    if s.state ≠ .spliceFailed ∨ (reelIns e r).webBreak then z
    else
      let z := modSplice r (fun s => { s.clearSplice with inhibited := false }) z
      let other := (s.running.getD .b).other
      let standby := (rollAt z (.arm r other)).any fun x => x.state = .standby
      let runningHeld := s.running.any fun x => (rollAt z (.arm r x)).isSome
      if runningHeld then
        let arm := s.running.getD .a
        let was := (rollAt z (.arm r arm)).any fun x => x.state = .running
        let z := reportRunningArm e r (some arm)
          (setSpliceState e r .single (setArmState e r arm .running z))
        let z := if was then z else reportRunningRoll e r (armSerial z r arm) z
        if standby then
          let z := setSpliceState e r .loaded (modSplice r (fun s => { s with inhibited := true }) z)
          if (reelIns e r).standbyReady then enterPrepared e r z else z
        else z
      else if s.running.isSome ∧ standby then threadRunning e r other z
      else
        reportRunningArm e r none
          (modSplice r (fun s => { s with running := none, runoutRaised := false, lateRaised := false })
            (setSpliceState e r .empty z))

/-- FAULT ACK at the splice sequencer, reelstand by reelstand in rising number (R148, R149).
(DESIGN CHOICE, log entry 67.) -/
def ackSplices (e : Env) (z : Zone) : Zone :=
  let z := (reelNumbers e).foldl (fun z r => leaveFailed e r z) z
  if z.splice.stands.any fun s => s.2.state = .spliceFailed then z
  else { z with splice.pressStop := false }

/-! ### Entering ACTIVE (R152, R153) -/

/-- A reelstand as its roll-present inputs show it after power-on reset (R152). -/
def scanReelstand (e : Env) (r : Nat) (z : Zone) : Zone :=
  let a := rollPresent e r .a
  let b := rollPresent e r .b
  if a then
    let z := threadRunning e r .a (setRoll (.arm r .a) (unidentified .running) z)
    if b then becomeLoaded e r .b (setRoll (.arm r .b) (unidentified .standby) z) else z
  else if b then threadRunning e r .b (setRoll (.arm r .b) (unidentified .running) z)
  else z

/-- Reelstand by reelstand in rising number (R152). (DESIGN CHOICE, log entry 67.) -/
def scanReelstands (e : Env) (z : Zone) : Zone := (reelNumbers e).foldl (fun z r => scanReelstand e r z) z

/-- Standby ready decides between LOADED and PREPARED after a warm restart (R153). -/
def resumeReelstand (e : Env) (r : Nat) (z : Zone) : Zone :=
  match spliceState z r with
  | some .loaded => if (reelIns e r).standbyReady then setSpliceState e r .prepared z else z
  | some .prepared => if (reelIns e r).standbyReady then z else setSpliceState e r .loaded z
  | _ => z

def resumeReelstands (e : Env) (z : Zone) : Zone :=
  (reelNumbers e).foldl (fun z r => resumeReelstand e r z) { z with splice.watch := [] }

end Sys2Proof.Machine
end

