-- ==== Sys2Proof/Machine/Transfer.lean ====
section
/-! DEFINITION. The transfer sequencer (Chapter 4): the order table, triggers, the six steps with their checks and
completions, redirection, failure, cancellation, the halted carriage, selection, preemption and resume. -/

namespace Sys2Proof.Machine

/-! ### Queues and orders (R73, R74) -/

def ordersOf (z : Zone) : Queue → List Order
  | .p => z.transfer.ordersP
  | .o => z.transfer.ordersO

def setOrders (q : Queue) (l : List Order) (z : Zone) : Zone :=
  match q with
  | .p => { z with transfer.ordersP := l }
  | .o => { z with transfer.ordersO := l }

def heldOf (z : Zone) : Queue → List OrderReq
  | .p => z.transfer.heldP
  | .o => z.transfer.heldO

def setHeld (q : Queue) (l : List OrderReq) (z : Zone) : Zone :=
  match q with
  | .p => { z with transfer.heldP := l }
  | .o => { z with transfer.heldO := l }

def statOf (z : Zone) : Queue → QueueStat
  | .p => z.transfer.statP
  | .o => z.transfer.statO

def modStat (q : Queue) (f : QueueStat → QueueStat) (z : Zone) : Zone :=
  match q with
  | .p => { z with transfer.statP := f z.transfer.statP }
  | .o => { z with transfer.statO := f z.transfer.statO }

/-- The slots of a queue: B for P, 24 − B for O (R73). -/
def capacity (e : Env) : Queue → Nat
  | .p => e.img.queueB
  | .o => Config.orderSlots - e.img.queueB

def queueFull (e : Env) (z : Zone) (q : Queue) : Bool := capacity e q ≤ (ordersOf z q).length

def order? (z : Zone) (n : Nat) : Option Order := (allOrders z).find? fun o => o.number = n

/-- The next number of the counter 1 to 255 that no entry in use holds (R74, R97). -/
def nextNumber (used : List Nat) (start : Nat) : Nat :=
  (((List.range 255).map fun i => (start - 1 + i) % 255 + 1).find? fun n => !used.contains n).getD start

/-- A number counter after a number was given. -/
def counterAfter (n : Nat) : Nat := n % 255 + 1

def bumpOverrun (q : Queue) (z : Zone) : Zone := modStat q (fun s => { s with overrun := bump16 s.overrun }) z

/-! ### Places of an order -/

/-- The place the carriage takes the roll from: position 1 of a THROUGH lane (R54, R77). -/
def sourcePlace (e : Env) (o : Order) : Place :=
  match o.req.source with
  | .lane l p => if laneMode? e l = some .through then .lane l 1 else .lane l p
  | p => p

/-- The slot of an order's vehicle. (DESIGN CHOICE, log entry 46.) -/
def orderSlot (z : Zone) (o : Order) : Option Nat := (o.vehicle.bind (findVehicle z)).map (·.1)

/-- The place of the roll table that stands for a place of the carriage: a dock stands for the vehicle docked there
(4-1). -/
def tablePlace (z : Zone) (o : Order) (p : Place) : Option Place :=
  match p with
  | .dock _ => (orderSlot z o).map Place.vehicle
  | p => some p

/-- The lane of a place. -/
def placeLane : Place → Option Nat
  | .lane l _ => some l
  | _ => none

/-- The lane of a destination. -/
def destLane : Dest → Option Nat
  | .place p => placeLane p
  | .lane l => some l
  | _ => none

/-- The lanes that an order's source and destination touch (R60, R92). -/
def touchesLane (o : Order) (l : Nat) : Bool :=
  placeLane o.req.source = some l || destLane o.req.dest = some l || (o.target.bind placeLane) = some l

/-! ### Notices (R93) -/

/-- Notices are kept by lane, arm and dock. -/
def noticeKey : Place → Option Nat
  | .lane l _ => some (Place.lane l 0).key
  | .arm r x => some (Place.arm r x).key
  | .dock d => some (Place.dock d).key
  | _ => none

def setNotice (p : Place) (f : Notice → Notice) (z : Zone) : Zone :=
  match noticeKey p with
  | some k => { z with transfer.notices := z.transfer.notices.set k (f ((z.transfer.notices.get? k).getD ⟨none, none⟩)) }
  | none => z

/-- The hold notices an order has set are cleared (R93). -/
def clearHold (n : Nat) (z : Zone) : Zone :=
  { z with transfer.notices := z.transfer.notices.map fun (k, x) =>
      (k, if x.hold.any fun h => h.order = n then { x with hold := none } else x) }

/-- The completion notice of each place that an ended order named (R93). (DESIGN CHOICE, log entry 34.) -/
def noteEnd (o : Order) (failed : Option Reason) (z : Zone) : Zone :=
  let note : DoneNotice := ⟨o.number, o.req.origin, failed⟩
  let dest := match o.target with
    | some p => some p
    | none => match o.req.dest with
      | .place p => some p
      | .lane l => some (.lane l 0)
      | _ => none
  let z := setNotice o.req.source (fun x => { x with completion := some note }) z
  match dest with
  | some p => setNotice p (fun x => { x with completion := some note }) z
  | none => z

/-! ### Triggers (R78) -/

/-- A vehicle number is DOCKED at a dock. -/
def dockedAt (e : Env) (z : Zone) (v d : Nat) : Bool :=
  match findVehicle z v with
  | some (_, veh) => veh.state = .docked && (dockSegment e.img d).isSome && veh.current = dockSegment e.img d
  | none => false

/-- The trigger of an order holds (R78). -/
def triggerHolds (e : Env) (z : Zone) (o : Order) : Bool :=
  (match o.req.dockTrigger with
   | none => true
   | some d => o.vehicle.any fun v => dockedAt e z v d) &&
  (match o.req.armTrigger with
   | none => true
   | some (r, x) => armOpen e r x && (rollAt z (.arm r x)).isNone)

/-- The state of an order that has not begun, by its trigger (R78). -/
def Order.refreshed (e : Env) (z : Zone) (o : Order) : Order :=
  match o.state with
  | .waitingTrigger | .ready => { o with state := if triggerHolds e z o then .ready else .waitingTrigger }
  | _ => o

def refreshTriggers (e : Env) (z : Zone) : Zone :=
  { z with transfer := { z.transfer with
      ordersP := z.transfer.ordersP.map (Order.refreshed e z), ordersO := z.transfer.ordersO.map (Order.refreshed e z) } }

/-! ### Requests and acceptance (R74, R75, R76) -/

/-- The first SCRAP dock (R76). -/
def scrapDock (i : Image) : Option Nat := i.firstDock .scrap

/-- The destination of a BUTT_CLEAR order is fixed when it is accepted (R76). -/
def fixButt (e : Env) (r : OrderReq) : OrderReq :=
  if r.origin = .buttClear then
    match e.img.loadingDock with
    | some d =>
      if e.img.buttReturn ≠ 0 then { r with dest := .place (.dock d), dockTrigger := some d }
      else if e.img.lanes.any (fun l => l.role = .butt) then { r with dest := .anyButt, dockTrigger := none }
      else { r with dest := .place (.dock ((scrapDock e.img).getD 0)), dockTrigger := none }
    | none =>
      if e.img.lanes.any (fun l => l.role = .butt) then { r with dest := .anyButt, dockTrigger := none }
      else { r with dest := .place (.dock ((scrapDock e.img).getD 0)), dockTrigger := none }
  else r

/-- A request is accepted at the tail of its queue with the next order number (R74); an order that waits for a vehicle
is made known to the TC (R75). -/
def acceptOrder (e : Env) (r : OrderReq) (z : Zone) : Zone × Nat :=
  let r := fixButt e r
  let n := nextNumber ((allOrders z).map (·.number)) z.transfer.nextNumber
  let o : Order :=
    { number := n, req := r, serial := r.serial, vehicle := r.vehicle, target := none, state := .waitingTrigger,
      step := 0, stepStart := e.now, holding := false, overrunRaised := false, accepted := z.transfer.accepted }
  let o := { o with state := if triggerHolds e z o then .ready else .waitingTrigger }
  let z := { z with transfer := { z.transfer with nextNumber := counterAfter n, accepted := z.transfer.accepted + 1 } }
  let z := setOrders r.queue (ordersOf z r.queue ++ [o]) z
  (if waitsForVehicle o then z.push (.assignVehicle n) else z, n)

/-- A TAKE ANSWER to a caller (R107, R108). -/
def takeAnswerFrame (station call : Nat) (serial : Serial) (result : Nat) : TxFrame :=
  ⟨station, .takeAnswer (byte call) serial (byte result)⟩

/-- The reservation that a SHIP order serves is released and GONE offered to its caller (R108). -/
def endShipReservation (e : Env) (ref : CallRef) (z : Zone) : Zone :=
  match reservationKey z ref.station ref.call with
  | some k =>
    let serial := ((z.stock.rolls.get? k).map Roll.serial).getD 0
    offer e (takeAnswerFrame ref.station ref.call serial 2) (release k z)
  | none => z

/-- A vehicle gets its second unloading order later (R112). -/
def setRetry (e : Env) (v : Nat) (z : Zone) : Zone :=
  { z with supply.retries := z.supply.retries.set v (e.now + Config.unloadRetry) }

/-- An internal request that was refused as a duplicate or not held: the asking block proceeds (R74, R107, R112,
R113). (DEDUCED, log entry 32.) -/
def requestDropped (e : Env) (r : OrderReq) (z : Zone) : Zone :=
  match r.origin with
  | .ship => match r.callRef with
    | some ref => endShipReservation e ref z
    | none => z
  | .localLoad => match r.callRef with
    | some ref =>
      let z := match reservationKey z ref.station ref.call with
        | some k => release k z
        | none => z
      z.push (.loadFailed ref.call 0 r.serial)
    | none => z
  | .callLoad | .receive =>
    let z := match r.callRef with
      | some ref => z.push (.loadFailed ref.call 0 r.serial)
      | none => z
    (match r.vehicle with
     | some v => setRetry e v z
     | none => z)
  | _ => z

/-- An internal request for an order (R74): refused as a duplicate, held for lack of room, or accepted.
(DEDUCED, log entry 32.) -/
def requestOrder (e : Env) (r : OrderReq) (z : Zone) : Zone :=
  if serialOrdered z r.serial then requestDropped e r (bumpOverrun r.queue z)
  else if queueFull e z r.queue then
    (if (heldOf z r.queue).length < Config.heldRequests then setHeld r.queue (heldOf z r.queue ++ [r]) z
     else requestDropped e r z)
  else (acceptOrder e r z).1

/-- A freed slot invites the oldest held request, which leaves the list and is requested anew: refused again for lack of
room it goes to the end of the list (R74). -/
def invite (e : Env) (q : Queue) (z : Zone) : Zone :=
  match heldOf z q with
  | [] => z
  | r :: rest => requestOrder e r (setHeld q rest z)

/-! ### Commands and steps (R79) -/

/-- The TS commands the carriage, whose done input goes inactive (4-1). (DESIGN CHOICE, log entry 34.) -/
def command (m : Motion) (p : Place) (z : Zone) : Zone :=
  { z with transfer := { z.transfer with command := some (m, p), doneInput := false } }

/-- No command is outstanding. -/
def withdrawCommand (z : Zone) : Zone := { z with transfer.command := none }

def setCarriage (c : Carriage) (z : Zone) : Zone := { z with transfer.carriage := c }

/-- A step of an order begins. -/
def beginStep (e : Env) (n step : Nat) (z : Zone) : Zone :=
  modOrder n (fun o => { o with step := step, stepStart := e.now, holding := false, overrunRaised := false }) z

/-- Step 1: TRAVEL to the source place. -/
def beginTravel (e : Env) (o : Order) (z : Zone) : Zone :=
  command .travel (sourcePlace e o) (beginStep e o.number 1 z)

/-- A WAIT step holds: the hold notice of the place is set once (R79, R93). (DESIGN CHOICE, log entry 34.) -/
def hold (e : Env) (o : Order) (p : Option Place) (z : Zone) : Zone :=
  if o.holding then z
  else
    let z := modOrder o.number (fun o => { o with holding := true }) z
    match p with
    | some p => setNotice p (fun x => { x with hold := some ⟨o.number, o.step, e.now⟩ }) z
    | none => z

/-! ### Ends of an order (R85, R89, R90, R92) -/

/-- The order leaves its queue; the freed slot invites a held request (R73, R74). -/
def removeOrder (o : Order) (z : Zone) : Zone :=
  (setOrders o.req.queue ((ordersOf z o.req.queue).filter fun x => x.number ≠ o.number) (clearHold o.number z)).push
    (.invite o.req.queue)

/-- Release of the reservation an order serves, unless the carriage still grips the roll that carries it (R92).
(DESIGN CHOICE, log entry 33.) -/
def releaseServed (o : Order) (gripping : Bool) (z : Zone) : Zone :=
  match o.req.callRef with
  | some ref =>
    match reservationKey z ref.station ref.call with
    | some k => if gripping ∧ k = Place.carriage.key then z else release k z
    | none => z
  | none => z

/-- What a SHIP order's failure hands on: the reservation is released and the caller told GONE, at once or when HALTED
ends (R92, R108). (DESIGN CHOICE, log entry 33.) -/
def releaseShip (e : Env) (o : Order) (gripping tell : Bool) (z : Zone) : Zone :=
  match o.req.callRef with
  | some ref =>
    match reservationKey z ref.station ref.call with
    | some k =>
      if gripping ∧ k = Place.carriage.key then z
      else if tell then endShipReservation e ref z
      else release k z
    | none => z
  | none => z

/-- The vehicle of an unloading order that ended without unloading it (R112). -/
def releaseUnloading (e : Env) (o : Order) (reason : Reason) (gripping : Bool) (z : Zone) : Zone :=
  match o.req.origin, o.vehicle with
  | .receive, some v =>
    if gripping ∨ o.req.dockTrigger = none then z
    else if reason = .stepLimit ∨ reason = .holdLimit ∨ reason = .underrun then setRetry e v z
    else z.push (.unload v)
  | .callLoad, some v => if gripping then z else z.push (.unload v)
  | _, _ => z

/-- The SA is told that a load for a call failed, other than by withdrawal (R92, R113). -/
def tellLoadFailed (o : Order) (reason : Reason) (z : Zone) : Zone :=
  match o.req.origin, o.req.callRef with
  | .callLoad, some ref | .localLoad, some ref | .receive, some ref =>
    if reason = .withdrawn then z else z.push (.loadFailed ref.call o.number o.serial)
  | _, _ => z

/-- An order ends FAILED with a reason (R92); gripping: the carriage halts with the roll. -/
def endFailed (e : Env) (o : Order) (reason : Reason) (gripping : Bool) (z : Zone) : Zone :=
  let z := noteEnd o (some reason) (removeOrder o z)
  let z := modStat o.req.queue (fun s => { s with failed := bump16 s.failed }) z
  let z := if o.req.origin = .ship then releaseShip e o gripping (reason ≠ .withdrawn) z else releaseServed o gripping z
  let z := match o.vehicle with
    | some v => releaseVehicle v o.number z
    | none => z
  tellLoadFailed o reason (releaseUnloading e o reason gripping z)

/-- A RUNNING order leaves the carriage IDLE. -/
def idleCarriage (z : Zone) : Zone := setCarriage .idle (withdrawCommand z)

def orderRunning (z : Zone) (n : Nat) : Bool := z.transfer.carriage = .running n

/-- A pending order is failed or cancelled with its roll not gripped; a RUNNING one leaves the carriage IDLE (R89,
R92). -/
def failOrder (e : Env) (o : Order) (reason : Reason) (z : Zone) : Zone :=
  let z := if orderRunning z o.number then idleCarriage z else z
  endFailed e o reason false z

/-- The context of a failed order's fault (R89): order number, step, place and serial. -/
def orderContext (o : Order) (p : Option Place) : List CtxElem :=
  [.order o.number, .step o.step] ++ (p.map CtxElem.place).toList ++ [.serial o.serial]

/-- UNDERRUN with its TRANSFER fault (R80, R81, R82, R88). -/
def failUnderrun (e : Env) (o : Order) (z : Zone) : Zone :=
  failOrder e o .underrun (raise e .underrun (orderContext o (some (sourcePlace e o))) z)

/-- A lane's underrun or overrun flag is set (R55, R56). -/
def flagUnderrun (p : Place) (z : Zone) : Zone :=
  match placeLane p with
  | some l => modLane l (fun c => { c with underrun := true }) z
  | none => z

def flagOverrun (p : Place) (z : Zone) : Zone :=
  match placeLane p with
  | some l => modLane l (fun c => { c with overrun := true }) z
  | none => z

/-! ### Step 1: the serial is resolved (R80) -/

def throughLane (e : Env) (p : Place) : Option Nat :=
  match p with
  | .lane l _ => if laneMode? e l = some .through then some l else none
  | _ => none

/-- What the resolution of a serial gives (R80). -/
inductive Resolved where
  | serial (s : Serial)
  | noRecord
  | duplicate
deriving DecidableEq, Repr

/-- The serial that step 1 resolves (R80). A THROUGH lane with records, but none at position 1, gives serial 0.
(DESIGN CHOICE, log entry 58.) -/
def resolve (e : Env) (z : Zone) (o : Order) : Resolved :=
  if o.req.serial ≠ 0 then .serial o.req.serial
  else
    match throughLane e o.req.source with
    | some l =>
      match rollAt z (.lane l 1) with
      | none => if (heldPositions z l (lanePositions e l)).isEmpty then .noRecord else .serial 0
      | some r =>
        if r.serial ≠ 0 ∧ (allOrders z).any (fun x => x.number ≠ o.number && x.serial = r.serial) then .duplicate
        else .serial r.serial
    | none => .serial 0

/-- Step 1 begins for the first time: the serial is resolved, or the order fails (R80). -/
def beginOrder (e : Env) (o : Order) (z : Zone) : Zone :=
  let z := setCarriage (.running o.number) (modOrder o.number (fun o => { o with state := .running, step := 1 }) z)
  match resolve e z o with
  | .serial s =>
    let o := { o with serial := s }
    beginTravel e o (modOrder o.number (fun o => { o with serial := s }) z)
  | .noRecord => failUnderrun e { o with step := 1 } (flagUnderrun o.req.source z)
  | .duplicate => failOrder e o .duplicate (bumpOverrun o.req.queue z)

/-! ### Step 2: the source check (R81) -/

/-- The source check (R81). A dock vehicle that is not DOCKED is NOT_READY whatever it carries.
(DESIGN CHOICE, log entry 73.) -/
def checkSource (e : Env) (z : Zone) (o : Order) : Check :=
  match sourcePlace e o with
  | .lane l p => if (laneRec z l).any (·.inService) then takeCheck e z l p o.serial else .notReady
  | .arm r x =>
    if (rollAt z (.arm r x)).any (fun y => y.serial = o.serial) then
      (if mayEmpty e z r x then .ready else .notReady)
    else .underrun
  | .dock d =>
    match o.vehicle.bind (findVehicle z) with
    | none => .underrun
    | some (slot, v) =>
      if !dockedAt e z v.number d then .notReady
      else if (rollAt z (.vehicle slot)).any (fun y => y.serial = o.serial) then .ready
      else .underrun
  | _ => .underrun

/-- The WAIT of step 2 is checked (R79, R81). -/
def waitSource (e : Env) (o : Order) (z : Zone) : Zone :=
  let p := sourcePlace e o
  match checkSource e z o with
  | .ready => command .pick p (beginStep e o.number 3 (clearHold o.number z))
  | .underrun => failUnderrun e o (flagUnderrun p z)
  | _ => hold e o (some p) z

/-! ### Steps 4 and 5: destination (R76, R83, R84) -/

/-- The target place of step 4: the place found for ANY or for a lane as a whole, the named place otherwise
(R76, R83). A full THROUGH lane is travelled to at position 1. (DESIGN CHOICE, log entry 72.) -/
def targetOf (e : Env) (z : Zone) (d : Dest) : Option Place :=
  match d with
  | .place (.lane l p) =>
    if laneMode? e l = some .through then some (.lane l ((lowestFree e z l).getD 1)) else some (.lane l p)
  | .place p => some p
  | d => d.choice e z

/-- Step 4 toward the destination; a choice that finds nothing passes straight to step 5 where the carriage stands
(R76). -/
def beginLeg2 (e : Env) (n : Nat) (d : Dest) (z : Zone) : Zone :=
  match targetOf e z d with
  | some p => command .travel p (beginStep e n 4 (modOrder n (fun o => { o with target := some p }) z))
  | none => beginStep e n 5 (modOrder n (fun o => { o with target := none }) (withdrawCommand z))

/-- The changes of R84. -/
def OrderReq.redirected (r : OrderReq) : OrderReq :=
  { r with origin := .receive, dest := .anyStockOrButt, dockTrigger := none, armTrigger := none, callRef := none }

/-- An order is redirected into storage (R84): it returns to step 4 with a new storage choice. -/
def redirectOrder (e : Env) (o : Order) (z : Zone) : Zone :=
  let z := modOrder o.number (fun o => { o with req := o.req.redirected }) (clearHold o.number z)
  beginLeg2 e o.number .anyStockOrButt z

/-- The serial that the carriage grips. -/
def grippedSerial (z : Zone) : Serial := ((rollAt z .carriage).map Roll.serial).getD 0

/-- The readiness part of the destination check (R83). -/
def checkDest (e : Env) (z : Zone) (o : Order) (p : Place) : Check :=
  match p with
  | .lane l q => if (laneRec z l).any (·.inService) then putCheck e z l q else .notReady
  | .arm r x => if (rollAt z (.arm r x)).isNone && mayLoad e z r x then .ready else .notReady
  | .dock d =>
    if (e.img.dock? d).any (fun c => c.role = .scrap) then .ready
    else
      match o.vehicle.bind (findVehicle z) with
      | some (_, v) => if dockedAt e z v.number d && !v.loaded then .ready else .notReady
      | none => .notReady
  | _ => .notReady

/-- Step 6 begins at the place the check found (R73, R79). -/
def beginSet (e : Env) (o : Order) (p : Place) (z : Zone) : Zone :=
  let p := match p with
    | .lane l q => .lane l ((putPosition e z l q).getD q)
    | p => p
  command .set p (beginStep e o.number 6 (modOrder o.number (fun o => { o with target := some p }) (clearHold o.number z)))

/-- The first OVERRUN of a step 5 raises its fault (R83). -/
def raiseOverrun (e : Env) (o : Order) (p : Place) (z : Zone) : Zone :=
  if o.overrunRaised then z
  else modOrder o.number (fun o => { o with overrunRaised := true })
    (raise e .overrun (orderContext o (some p)) z)

/-- The WAIT of step 5 at a target place (R83): quarantine first at an arm. -/
def waitTarget (e : Env) (o : Order) (p : Place) (z : Zone) : Zone :=
  if (match p with
      | .arm _ _ => quarantined z (grippedSerial z)
      | _ => false) then
    let z := match o.req.callRef with
      | some ref => z.push (.loadRedirected ref.call)
      | none => z
    redirectOrder e o z
  else
    match checkDest e z o p with
    | .ready => beginSet e o p z
    | .overrun => hold e o (some p) (raiseOverrun e o p (flagOverrun p z))
    | _ => hold e o (some p) z

/-- The WAIT of step 5 (R76, R83): with no position found yet, the choice is made again, and the order holds at the place
where the carriage place input says the carriage stands (R76, 4-1). -/
def waitDest (e : Env) (o : Order) (z : Zone) : Zone :=
  match o.target with
  | some p => waitTarget e o p z
  | none =>
    match targetOf e z o.req.dest with
    | some _ => beginLeg2 e o.number o.req.dest (clearHold o.number z)
    | none => hold e o z.transfer.placeInput z

/-- A WAIT step makes its check (R79). -/
def wait (e : Env) (o : Order) (z : Zone) : Zone :=
  if o.step = 2 then waitSource e o z else if o.step = 5 then waitDest e o z else z

/-! ### Step 3: PICK completes (R82) -/

/-- Other pending orders that named the serial actually moved lose their roll (R82). (DESIGN CHOICE, log entry 33.)
Queue P goes before queue O, oldest first. (DESIGN CHOICE, log entry 67.) -/
def failRobbed (e : Env) (n : Nat) (s : Serial) (z : Zone) : Zone :=
  if s = 0 then z
  else ((allOrders z).filter fun x => x.number ≠ n && x.serial = s).foldl (fun z x => failUnderrun e x z) z

/-- What the source shows after the pick (R82). -/
def sourceLeft (e : Env) (o : Order) (z : Zone) : Zone :=
  match sourcePlace e o with
  | .lane l _ => laneLeft e l (if laneMode? e l = some .through then shiftLane e l z else z)
  | .arm r x => recordLeft e r x z
  | .dock _ =>
    match o.vehicle.bind (findVehicle z) with
    | some (slot, v) => (modVehicle slot (fun v => { v with loaded := false }) z).push (.offerVehicle v.number .emptied)
    | none => z
  | _ => z

/-- The completion of step 3 (R82). -/
def pickCompleted (e : Env) (o : Order) (z : Zone) : Zone :=
  match tablePlace z o (sourcePlace e o) with
  | none => failUnderrun e o z
  | some src =>
    let moved := moveRoll e src .carriage o.serial (fun r => { r with state := .inTransfer }) z
    match moved.2 with
    | .moved s =>
      let z := modOrder o.number (fun o => { o with serial := s }) moved.1
      let z := if s = o.serial then z else failRobbed e o.number s z
      beginLeg2 e o.number o.req.dest (sourceLeft e o z)
    | _ => failUnderrun e o moved.1

/-! ### Step 6: SET completes (R85) -/

/-- The order was a load of the RUNOUT call of a reelstand (R136). -/
def ownLoad (e : Env) (z : Zone) (o : Order) (r : Nat) : Bool :=
  (o.req.origin = .callLoad || o.req.origin = .localLoad) &&
    o.req.callRef.any fun ref => ref.station = e.own &&
      (z.supply.calls.get? (Need.runout r).key).any fun c => c.number = ref.call

/-- The purpose of a vehicle that an order has loaded (R44). -/
def loadedPurpose (e : Env) (o : Order) : Purpose :=
  match o.req.origin, o.req.callRef with
  | .ship, some ref => .ship ref.station ref.call ref.station ref.dock
  | .buttClear, _ => .returnTo e.img.buttReturn
  | _, _ => .returnTo e.own

/-- A reservation carried by the record at CARRIAGE is released. -/
def releaseCarried (z : Zone) : Zone := release Place.carriage.key z

/-- The record at CARRIAGE moves to a place and a reservation it carries is released by the move (R52, R85). -/
def setReleased (e : Env) (o : Order) (p : Place) (f : Roll → Roll) (z : Zone) : Zone × Moved :=
  let reserved := (rollAt z .carriage).any fun r => r.reservation.isSome
  let moved := moveRoll e .carriage p o.serial (fun r => f { r with reservation := none }) z
  match moved.2 with
  | .moved _ => (if reserved then moved.1.push .restock else moved.1, moved.2)
  | _ => moved

/-- The record set into a lane takes the lane's state (R50); an OPERATOR or BUTT_CLEAR order keeps a reservation. -/
def setIntoLane (e : Env) (o : Order) (l : Nat) (p : Place) (z : Zone) : Zone × Moved :=
  let inLane := fun (r : Roll) => { r with state := laneState e l r }
  let moved :=
    if o.req.origin = .operator ∨ o.req.origin = .buttClear then moveRoll e .carriage p o.serial inLane z
    else setReleased e o p inLane z
  match moved.2 with
  | .moved _ => (laneEntered e l moved.1, moved.2)
  | _ => moved

/-- The move and effects of Table 4-3-2 by destination. (DESIGN CHOICE, log entry 46.) -/
def setDown (e : Env) (o : Order) (p : Place) (z : Zone) : Zone × Moved :=
  match p with
  | .lane l _ => setIntoLane e o l p z
  | .arm r x =>
    let moved := setReleased e o p (fun y => { y with state := .standby }) z
    match moved.2 with
    | .moved _ => (rollSet e r x (ownLoad e z o r) moved.1, moved.2)
    | _ => moved
  | .dock d =>
    if (e.img.dock? d).any (fun c => c.role = .scrap) then
      (eraseRoll .carriage (releaseCarried z), .moved o.serial)
    else
      match orderSlot z o with
      | some slot =>
        let moved := setReleased e o (.vehicle slot) (fun y => { y with state := .shipping }) z
        match moved.2 with
        | .moved _ => (startVehicle e slot (loadedPurpose e o) moved.1, moved.2)
        | _ => moved
      | none => (eraseRoll .carriage (releaseCarried z), .moved o.serial)
  | _ => (z, .nothing)

/-- The SA is told that the load for its call is complete (R85, R113). -/
def tellLoadDone (o : Order) (z : Zone) : Zone :=
  match o.req.origin, o.req.callRef with
  | .callLoad, some ref | .localLoad, some ref | .receive, some ref => z.push (.loadDone ref.call)
  | _, _ => z

/-- The order is DONE (R85). -/
def endDone (o : Order) (z : Zone) : Zone :=
  let z := noteEnd o none (removeOrder o z)
  let z := modStat o.req.queue (fun s => { s with done := bump16 s.done, last := o.number }) z
  tellLoadDone o (idleCarriage z)

/-- The completion of step 6 (R85). (DESIGN CHOICE, log entry 46.) -/
def setCompleted (e : Env) (o : Order) (z : Zone) : Zone :=
  match o.target with
  | none => z
  | some p =>
    let done := setDown e o p z
    match done.2 with
    | .occupied => eraseRoll .carriage (releaseCarried (failOrder e o .underrun done.1))
    | _ => endDone o done.1

/-! ### Carriage-done (R72, R79) -/

/-- Carriage-done goes active: it completes the TRAVEL, PICK or SET step of the RUNNING order (R72).
(DEDUCED, log entry 27.) (DESIGN CHOICE, log entry 34.) -/
def carriageDone (e : Env) (z : Zone) : Zone :=
  match runningOrder z with
  | none => z
  | some o =>
    let z := withdrawCommand z
    match o.step with
    | 1 => beginStep e o.number 2 z
    | 3 => pickCompleted e o z
    | 4 => beginStep e o.number 5 z
    | 6 => setCompleted e o z
    | _ => z

/-! ### Limits (R89, R90) -/

def leg2 (o : Order) : Bool := 4 ≤ o.step

/-- An order's limit runs out: in leg 1 it fails and the carriage is IDLE (R89), in leg 2 the carriage halts gripping
(R90). (DESIGN CHOICE, log entry 35.) -/
def limitExpired (e : Env) (o : Order) (reason : Reason) (code : FaultCode) (limit : Time) (z : Zone) : Zone :=
  if leg2 o then
    let z := setCarriage (.halted o) (withdrawCommand z)
    let z := raise e .haltedGripping (orderContext o o.target ++ [.number limit.toNat]) z
    endFailed e o reason true z
  else failOrder e o reason (raise e code (orderContext o (some (sourcePlace e o))) z)

/-! ### The end of HALTED (R91) -/

/-- The record at CARRIAGE is deleted with its reservation and the mismatch fault (Table 4-5-1). -/
def dropGripped (e : Env) (z : Zone) : Zone :=
  raise e .mismatch [.place .carriage, .serial (grippedSerial z)] (eraseRoll .carriage (releaseCarried z))

/-- A vehicle loaded by a halted carriage leaves with purpose RETURN (Table 4-5-1); an order that had captured it waits
for a vehicle again. (DESIGN CHOICE, log entry 35.) -/
def loadFromHalt (e : Env) (slot : Nat) (v : Vehicle) (z : Zone) : Zone :=
  let z := match v.order with
    | some n => (modOrder n (fun o => { o with vehicle := none }) z).push (.assignVehicle n)
    | none => z
  startVehicle e slot (.returnTo e.own) z

/-- The record at CARRIAGE is placed where the carriage stands (Table 4-5-1); of several vehicles DOCKED at one dock the one of
the lowest slot takes it. (DESIGN CHOICE, log entry 77.) -/
def placeGripped (e : Env) (place : Option Place) (z : Zone) : Zone :=
  let toPlace := fun (p : Place) (f : Roll → Roll) =>
    (moveRoll e .carriage p (grippedSerial z) f (releaseCarried z)).1
  match place with
  | some (.lane l p) =>
    if (laneRec z l).any (·.inService) ∧ 1 ≤ p ∧ p ≤ lanePositions e l ∧ (rollAt z (.lane l p)).isNone then
      laneEntered e l (toPlace (.lane l p) fun r => { r with state := laneState e l { r with reservation := none } })
    else dropGripped e z
  | some (.arm r x) =>
    if (splice? z r).isSome ∧ (rollAt z (.arm r x)).isNone then
      rollSet e r x false (toPlace (.arm r x) fun y => { y with state := .standby })
    else dropGripped e z
  | some (.dock d) =>
    if (e.img.dock? d).any (fun c => c.role = .scrap) then eraseRoll .carriage (releaseCarried z)
    else
      match z.track.vehicles.find? fun v => dockedAt e z v.2.number d && !v.2.loaded with
      | some (slot, v) =>
        if (rollAt z (.vehicle slot)).isNone then
          loadFromHalt e slot v (toPlace (.vehicle slot) fun y => { y with state := .shipping })
        else dropGripped e z
      | none => dropGripped e z
  | _ => dropGripped e z

/-- GONE to the caller of a halted SHIP order whose reservation is released when HALTED ends (R108).
(DESIGN CHOICE, log entry 35.) -/
def haltedGone (e : Env) (o : Order) (before : Option Roll) (z : Zone) : Zone :=
  match o.req.origin, before.bind Roll.reservation, before with
  | .ship, some ref, some r => offer e (takeAnswerFrame ref.station ref.call r.serial 2) z
  | _, _, _ => z

/-- HALTED ends on FAULT ACK with carriage-done active (R91). (DESIGN CHOICE, log entry 35.) -/
def endHalted (e : Env) (z : Zone) : Zone :=
  match z.transfer.carriage with
  | .halted o =>
    if z.transfer.doneInput then
      let gripped := rollAt z .carriage
      haltedGone e o gripped (setCarriage .idle (placeGripped e z.transfer.placeInput z))
    else z
  | _ => z

/-! ### Cancellation (R92, R111) -/

/-- An order is RUNNING in steps 4 to 6: the carriage grips its roll. -/
def gripsFor (z : Zone) (o : Order) : Bool := orderRunning z o.number && leg2 o

/-- LANE SERVICE(out) fails the orders that touch the lane (R60, R92). (DEDUCED, log entry 37.) Queue P goes before
queue O, oldest first. (DESIGN CHOICE, log entry 67.) -/
def cancelForLane (e : Env) (l : Nat) (z : Zone) : Zone :=
  ((allOrders z).filter fun o => touchesLane o l && !gripsFor z o).foldl (fun z o => failOrder e o .laneOut z) z

/-- CALL WITHDRAW cancels the SHIP order of a reservation where that is still possible, and withdraws a held request
(R92, R109). -/
def cancelShip (e : Env) (station call : Nat) (z : Zone) : Zone :=
  let serves := fun (r : OrderReq) =>
    r.origin = .ship && r.callRef.any fun ref => ref.station = station && ref.call = call
  let z := { z with transfer := { z.transfer with
    heldP := z.transfer.heldP.filter fun r => !serves r, heldO := z.transfer.heldO.filter fun r => !serves r } }
  match (allOrders z).find? fun o => serves o.req with
  | some o => if orderRunning z o.number && 3 ≤ o.step then z else failOrder e o .withdrawn z
  | none => z

/-- A destination that is an arm. -/
def armDestination : Dest → Bool
  | .place (.arm _ _) => true
  | _ => false

/-- A load order of a withdrawn call is ended (R111). A request that is only held is withdrawn; its vehicle, loaded and
docked still, is placed again as at the end of an order that named it (R112). (DESIGN CHOICE, log entry 59.) -/
def endLoadOrder (e : Env) (call : Nat) (z : Zone) : Zone :=
  let serves := fun (r : OrderReq) =>
    (r.origin = .localLoad || r.origin = .callLoad || r.origin = .receive) &&
      r.callRef.any fun ref => ref.station = e.own && ref.call = call
  let vehicles := ((z.transfer.heldP ++ z.transfer.heldO).filter serves).filterMap OrderReq.vehicle
  let z := { z with transfer := { z.transfer with
    heldP := z.transfer.heldP.filter fun r => !serves r, heldO := z.transfer.heldO.filter fun r => !serves r } }
  let z := vehicles.foldl (fun z v => z.push (.unload v)) z
  match (allOrders z).find? fun o => serves o.req with
  | none => z
  | some o =>
    if !gripsFor z o then failOrder e o .withdrawn z
    else if armDestination o.req.dest && o.step < 6 then redirectOrder e o z
    else modOrder o.number (fun o => { o with req := { o.req with callRef := none } }) z

/-! ### Selection, preemption and resume (R86, R87, R88) -/

def oldestReady (l : List Order) : Option Order := l.find? fun o => o.state = .ready

def suspendedOrder (z : Zone) : Option Order := z.transfer.ordersO.find? fun o => o.state = .suspended

/-- The source still holds the kept serial of a SUSPENDED order (R88). -/
def sourceHolds (e : Env) (z : Zone) (o : Order) : Bool :=
  match throughLane e o.req.source with
  | some l => (upTo (lanePositions e l)).any fun p => (rollAt z (.lane l p)).any fun r => r.serial = o.serial
  | none =>
    match tablePlace z o (sourcePlace e o) with
    | some p => (rollAt z p).any fun r => r.serial = o.serial
    | none => false

/-- The SUSPENDED order is resumed by the resume policy (R88). -/
def resumeOrder (e : Env) (o : Order) (z : Zone) : Zone :=
  match e.img.resume with
  | .restartOrder => beginOrder e o z
  | .resumeStep =>
    let z := setCarriage (.running o.number) (modOrder o.number (fun o => { o with state := .running }) z)
    if sourceHolds e z o then beginTravel e o z
    else failUnderrun e o (match throughLane e o.req.source with
      | some _ => flagUnderrun o.req.source z
      | none => z)

/-- Selection with the carriage IDLE (R86). -/
def select (e : Env) (z : Zone) : Zone :=
  match oldestReady z.transfer.ordersP with
  | some o => beginOrder e o z
  | none =>
    match suspendedOrder z with
    | some o => resumeOrder e o z
    | none =>
      match oldestReady z.transfer.ordersO with
      | some o => beginOrder e o z
      | none => z

/-- A READY P order preempts an O order in step 1 or 2 (R87). -/
def preempt (e : Env) (running p : Order) (z : Zone) : Zone :=
  let z := modOrder running.number (fun o => { o with state := .suspended, holding := false })
    (clearHold running.number z)
  beginOrder e p (withdrawCommand z)

/-- The carriage is looked at after the requests of an event: triggers, preemption or selection, and the check of a
WAIT step (R78, R79, R86, R87). -/
def house (e : Env) (z : Zone) : Zone :=
  let z := refreshTriggers e z
  match z.transfer.carriage with
  | .halted _ => z
  | .idle => select e z
  | .running _ =>
    match runningOrder z with
    | none => z
    | some o =>
      match oldestReady z.transfer.ordersP with
      | some p => if o.req.queue = .o ∧ o.step ≤ 2 then preempt e o p z else wait e o z
      | none => wait e o z

/-! ### Operator orders (R77) -/

/-- A source may be a lane position or an arm, a destination also a SCRAP dock (R77). -/
def operatorPlaces (e : Env) (src dst : Place) : Bool :=
  e.img.hasPlace src && e.img.hasPlace dst && src ≠ dst &&
    (match src with
     | .lane .. | .arm .. => true
     | _ => false) &&
    (match dst with
     | .lane .. | .arm .. => true
     | .dock d => (e.img.dock? d).any fun c => c.role = .scrap
     | _ => false)

/-- The record that an operator order names: that of its serial, or the unidentified entry at a source that is no
THROUGH lane; with serial 0 a THROUGH lane gives whatever heads it when the order starts (R77).
(DEDUCED, log entry 31.) -/
def operatorRoll (e : Env) (z : Zone) (serial : Serial) (src : Place) : Option Roll :=
  if serial ≠ 0 then (findSerial z serial).map (·.2)
  else if (throughLane e src).isSome then none
  else rollAt z src

/-- A serial other than 0 stands at the source: in a THROUGH lane at some position of it (R77). -/
def standsAtSource (e : Env) (z : Zone) (serial : Serial) (src : Place) : Bool :=
  match throughLane e src with
  | some l => (upTo (lanePositions e l)).any fun p => (rollAt z (.lane l p)).any fun r => r.serial = serial
  | none => (rollAt z src).any fun r => r.serial = serial

/-- The lane of a place is out of service. -/
def laneOut (z : Zone) (p : Place) : Bool :=
  match placeLane p with
  | some l => (laneRec z l).any fun c => !c.inService
  | none => false

/-- The arm's reelstand is in a splice under way. -/
def armSplicing (z : Zone) (p : Place) : Bool :=
  match p with
  | .arm r _ => (splice? z r).any fun s => s.state.splicing
  | _ => false

/-- The checks of R77 on a decoded request; none where the request is accepted. (DEDUCED, log entry 31.) -/
def operatorRefusal (e : Env) (z : Zone) (q : Queue) (serial : Serial) (src dst : Place) : Option Result :=
  if !operatorPlaces e src dst then some .refusedRange
  else if serial ≠ 0 ∧ (findSerial z serial).isNone then some .unknownRoll
  else if serial = 0 ∧ (throughLane e src).isNone ∧ !(rollAt z src).any (fun r => r.serial = 0) then some .unknownRoll
  else if (serial ≠ 0 ∧ !standsAtSource e z serial src) ∨
      (operatorRoll e z serial src).any (fun r => r.reservation.isSome || r.state = .running) ∨
      armSplicing z src ∨ laneOut z src ∨ laneOut z dst ∨ serialOrdered z serial then some .refusedState
  else if queueFull e z q then some .refusedFull
  else none

def operatorRequest (q : Queue) (serial : Serial) (src dst : Place) : OrderReq :=
  { queue := q, origin := .operator, serial := serial, source := src, dest := .place dst, dockTrigger := none,
    armTrigger := none, vehicle := none, callRef := none }

/-- ORDER REQUEST on decoded fields (R77): the result, and the order number given, 0 where refused.
(DEDUCED, log entry 31.) -/
def orderRequested (e : Env) (q : Queue) (serial : Serial) (src dst : Place) (z : Zone) : Zone × Result × Nat :=
  match operatorRefusal e z q serial src dst with
  | some .refusedState =>
    (if serialOrdered z serial then bumpOverrun q z else z, .refusedState, 0)
  | some r => (z, r, 0)
  | none =>
    let a := acceptOrder e (operatorRequest q serial src dst) z
    (a.1, .done, a.2)

/-! ### Warm restart (R95) -/

/-- The warm restart of the TS (R93, R95). -/
def restartTransfer (z : Zone) : Zone :=
  { z with transfer := { z.transfer with
      ordersP := [], ordersO := [], heldP := [], heldO := [], carriage := .idle, command := none,
      notices := z.transfer.notices.map fun (k, n) => (k, { n with hold := none }) } }

/-- The SHIP request for a reservation (R75, R107). (DEDUCED, log entry 36.) -/
def shipRequest (e : Env) (q : Queue) (serial : Serial) (src : Place) (ref : CallRef) : OrderReq :=
  { queue := q, origin := .ship, serial := serial, source := src, dest := .place (.dock (e.img.loadingDock.getD 0)),
    dockTrigger := some (e.img.loadingDock.getD 0), armTrigger := none, vehicle := none, callRef := some ref }

/-- The RECEIVE request for a docked vehicle with no known call (R95, R112). -/
def receiveRequest (e : Env) (v : Nat) (serial : Serial) (dest : Dest) (ref : Option CallRef) : OrderReq :=
  let d := e.img.receivingDock.getD 0
  { queue := .o, origin := .receive, serial := serial, source := .dock d, dest := dest, dockTrigger := some d,
    armTrigger := none, vehicle := some v, callRef := ref }

/-- The orders re-created on entering ACTIVE after a warm restart, in the order of R95; butts in ascending order
of place, vehicles by slot. (DESIGN CHOICE, log entry 67.) -/
def recreations (e : Env) (z : Zone) : List OrderReq :=
  let ships := z.stock.rolls.filterMap fun (k, r) =>
    match r.reservation, laneOfKey k with
    | some ref, some (l, p) =>
      if ref.station ≠ e.own then some (shipRequest e .p r.serial (.lane l p) ref) else none
    | _, _ => none
  let butts := z.stock.rolls.filterMap fun (k, r) =>
    match placeOfKey k with
    | some (.arm n x) => if r.state = .butt then some (buttClearRequest n x r.serial) else none
    | _ => none
  let receives := z.track.vehicles.filterMap fun (slot, v) =>
    match e.img.receivingDock with
    | some d =>
      if v.loaded ∧ dockedAt e z v.number d then
        some (receiveRequest e v.number (((rollAt z (.vehicle slot)).map Roll.serial).getD 0) .anyStock none)
      else none
    | none => none
  ships ++ butts ++ receives

def recreateOrders (e : Env) (z : Zone) : Zone := (recreations e z).foldl (fun z r => requestOrder e r z) z

end Sys2Proof.Machine
end

