-- ==== Sys2Proof/Machine/Supply.lean ====
section
/-! DEFINITION. The supply agent and the holder's side of the roll supply protocol (Chapter 5): asking and issuing calls,
offers, takes and answers, withdrawal, delivery and load reports. -/

namespace Sys2Proof.Machine

def call? (z : Zone) (n : Need) : Option Call := z.supply.calls.get? n.key

def setCall (c : Call) (z : Zone) : Zone := { z with supply.calls := z.supply.calls.set c.need.key c }

def freeCall (n : Need) (z : Zone) : Zone := { z with supply.calls := z.supply.calls.erase n.key }

/-- The call with a number. -/
def callNumbered (z : Zone) (n : Nat) : Option Call := (z.supply.calls.find? fun c => c.2.number = n).map (·.2)

/-- A new call number (R97). -/
def newCallNumber (z : Zone) : Nat := nextNumber (z.supply.calls.map fun c => c.2.number) z.supply.nextCall

/-! ### Needs (R98, R105) -/

/-- Grade and width that a need calls for; none where the running roll is absent or unidentified (R98). -/
def needSpec (e : Env) (z : Zone) (n : Need) : Option (Nat × Nat) :=
  match n with
  | .runout r =>
    ((runningArm z r).bind fun x => (rollAt z (.arm r x)).bind Roll.data).map fun d => (d.grade, d.width)
  | .restock l => (e.img.lane? l).map fun c => (c.grade, c.width)

/-- The deadline of an issue: T for RUNOUT, 65,535 for ROUTINE (R98). -/
def needDeadline (z : Zone) : Need → Nat
  | .runout r => timeToSplice z r
  | .restock _ => 65535

def needUrgency : Need → Urgency
  | .runout _ => .runout
  | .restock _ => .routine

/-- The need of a call still stands (R105). -/
def needStands (e : Env) (z : Zone) (n : Need) : Bool :=
  match n with
  | .runout r =>
    (rollAt z (.arm r (standbyArm z r))).isNone &&
      (runningArm z r).any fun x => (rollAt z (.arm r x)).isSome
  | .restock l => laneShort e z l

/-! ### NO_STOCK (R105) -/

/-- The element that names a call's purpose. -/
def needElem : Need → CtxElem
  | .runout r => .reelstand r
  | .restock l => .lane l

/-- A call enters NO_STOCK with its fault, and its re-issue time is set (R105). -/
def enterNoStock (e : Env) (c : Call) (z : Zone) : Zone :=
  let c := { c with state := .noStock, offers := [], chosen := none, takeTime := none, windowStart := none,
                    reissueAt := some (e.now + Config.reissue) }
  raise e .noStock [.call c.number, needElem c.need, .number c.grade, .number c.width] (setCall c z)

/-! ### Issue (R99, R100) -/

/-- The LOCAL_LOAD request of a call (R99); a THROUGH lane stands for the lane as a whole, a PICK lane is placed by the
storage choice (R73). -/
def localLoadRequest (e : Env) (z : Zone) (c : Call) (serial : Serial) (src : Place) : OrderReq :=
  let base : OrderReq :=
    { queue := .o, origin := .localLoad, serial := serial, source := src, dest := .anyStock, dockTrigger := none,
      armTrigger := none, vehicle := none, callRef := some ⟨e.own, c.number, 0⟩ }
  match c.need with
  | .runout r =>
    let x := standbyArm z r
    { base with queue := .p, dest := .place (.arm r x), armTrigger := some (r, x) }
  | .restock l =>
    { base with dest := if laneMode? e l = some .through then .place (.lane l 1) else .lane l }

/-- The ROLL CALL of a call (R100). -/
def rollCallFrame (c : Call) : TxFrame :=
  ⟨0, .rollCall (byte c.number) (byte c.urgency.code) (byte c.grade) (BitVec.ofNat 16 c.width)
    (BitVec.ofNat 24 c.minLength)⟩

/-- A call that is not served locally is broadcast, or enters NO_STOCK in a zone without a receiving dock (R100). -/
def broadcast (e : Env) (c : Call) (z : Zone) : Zone :=
  match e.img.receivingDock with
  | none => enterNoStock e c z
  | some _ =>
    let c := { c with state := .collecting }
    offer e (rollCallFrame c) (setCall c z)

def askerOf : Need → Asker
  | .runout _ => .ownRunout
  | .restock _ => .ownRestock

/-- The issue of a call: the local search with its reservation in the same event, else the line (R99, R100). -/
def issue (e : Env) (c : Call) (z : Zone) : Zone :=
  match choose e z ⟨askerOf c.need, c.grade, c.width, c.minLength⟩ with
  | some (k, r) =>
    (match canReserve z k, laneOfKey k with
     | true, some (l, p) =>
       let z := reserve k ⟨e.own, c.number, 0⟩ z
       let c := { c with state := .localService }
       (setCall c z).push (.requestOrder (localLoadRequest e z c r.serial (.lane l p)))
     | _, _ => broadcast e c z)
  | none => broadcast e c z

/-- A fresh call for a need with a new number, issued at once (R97, R98, R105, R113); a call issued again keeps no offer,
chosen offer or late flag. (DEDUCED, log entry 36.) -/
def issueNew (e : Env) (n : Need) (spec : Nat × Nat) (z : Zone) : Zone :=
  let number := newCallNumber z
  let c : Call :=
    { number := number, need := n, urgency := needUrgency n, grade := spec.1, width := spec.2,
      minLength := e.img.minLength, deadline := needDeadline z n, state := .collecting, offers := [], chosen := none,
      takeTime := none, windowStart := none, reissueAt := none, late := false }
  issue e c (setCall c { z with supply.nextCall := counterAfter number })

/-- The no stock fault of an unidentified running roll, once for each (R98). -/
def raiseUnidentified (e : Env) (r : Nat) (z : Zone) : Zone :=
  if z.supply.noStockRaised.has r then z
  else raise e .noStock [.reelstand r, .serial 0]
    { z with supply.noStockRaised := z.supply.noStockRaised.set r () }

/-- A call is asked for (R98): taken only when the entry of its purpose is free. -/
def askCall (e : Env) (n : Need) (z : Zone) : Zone :=
  if (call? z n).isSome then z
  else
    match needSpec e z n with
    | some spec => issueNew e n spec z
    | none =>
      match n with
      | .runout r => raiseUnidentified e r z
      | .restock _ => z

/-- The call is issued again in its entry with a new number and deadline, or its entry is freed (R105, R113).
(DEDUCED, log entry 36.) -/
def reissueOrFree (e : Env) (c : Call) (z : Zone) : Zone :=
  if needStands e z c.need then issueNew e c.need (c.grade, c.width) z else freeCall c.need z

/-! ### Offers (R101, R102, R103) -/

/-- An offer ranks before another (Table 5-2-1). -/
def Offer.before (a b : Offer) : Bool :=
  if a.estimate ≠ b.estimate then a.estimate < b.estimate
  else if a.ready ≠ b.ready then a.ready
  else if a.remaining ≠ b.remaining then a.remaining < b.remaining
  else a.station < b.station

/-- An offer placed at its rank in a list kept in rank order. -/
def insertOffer (o : Offer) : List Offer → List Offer
  | [] => [o]
  | a :: t => if o.before a then o :: a :: t else a :: insertOffer o t

/-- The worst-ranked offer that may be replaced: never the chosen one in TAKING (R101). -/
def worstOffer (c : Call) : Option Offer :=
  (c.offers.filter fun o => !(c.state = .taking && c.chosen = some o)).getLast?

/-- A ROLL OFFER placed by rank: added below 6 offers, else in place of the worst if it ranks before it (R101). -/
def Call.takeOffer (c : Call) (o : Offer) : Call :=
  if c.offers.any fun x => x.station = o.station then c
  else if c.offers.length < Config.callOffers then { c with offers := insertOffer o c.offers }
  else
    match worstOffer c with
    | some w => if o.before w then { c with offers := insertOffer o (c.offers.filter (· ≠ w)) } else c
    | none => c

/-- The ROLL TAKE to an offer's station (R102). -/
def rollTakeFrame (e : Env) (c : Call) (o : Offer) : TxFrame :=
  ⟨o.station, .rollTake (byte c.number) o.serial (byte c.urgency.code) (byte (e.img.receivingDock.getD 0))⟩

/-- The best-ranked offer left becomes the chosen one and its ROLL TAKE goes out; with none the call enters NO_STOCK
(R102, R103). -/
def takeBest (e : Env) (c : Call) (z : Zone) : Zone :=
  match c.offers with
  | [] => enterNoStock e c z
  | o :: _ =>
    let c := { c with state := .taking, chosen := some o, takeTime := none, late := c.deadline < o.estimate }
    offer e (rollTakeFrame e c o) (setCall c z)

/-- The chosen offer is removed and the next is taken (R103, R104). -/
def dropChosen (e : Env) (c : Call) (z : Zone) : Zone :=
  takeBest e { c with offers := c.offers.filter fun o => c.chosen ≠ some o, chosen := none, takeTime := none } z

def callWithdrawFrame (station call : Nat) : TxFrame := ⟨station, .callWithdraw (byte call)⟩

/-- A TAKE ANSWER at the caller (Table 5-3-1). -/
def answerTaken (e : Env) (sender call : Nat) (serial : Serial) (confirmed : Bool) (z : Zone) : Zone :=
  let known := (callNumbered z call).filter fun c =>
    (c.state = .taking || c.state = .confirmed) && c.chosen.any fun o => o.station = sender && o.serial = serial
  match known, confirmed with
  | some c, true => if c.state = .taking then setCall { c with state := .confirmed } z else z
  | some c, false => dropChosen e c z
  | none, true => offer e (callWithdrawFrame sender call) z
  | none, false => z

/-! ### Withdrawal (R110, R111) -/

/-- A frame waiting to be sent that names a call. -/
def isRollCall (call : Nat) (f : TxFrame) : Bool :=
  match f.body with
  | .rollCall n .. => n.toNat = call
  | _ => false

def isRollTake (call : Nat) (f : TxFrame) : Bool :=
  match f.body with
  | .rollTake n .. => n.toNat = call
  | _ => false

/-- The call enters WITHDRAWN and its CALL WITHDRAW is offered; the entry is freed when the frame is accepted (R111). -/
def sendWithdraw (e : Env) (c : Call) (z : Zone) : Zone :=
  match c.chosen with
  | some o => offer e (callWithdrawFrame o.station c.number) (setCall { c with state := .withdrawn } z)
  | none => freeCall c.need z

/-- The reservation of an own call is released (R111). -/
def releaseOwn (e : Env) (call : Nat) (z : Zone) : Zone :=
  match reservationKey z e.own call with
  | some k => release k z
  | none => z

/-- A call is withdrawn by its state (Table 5-5-1). (DEDUCED, log entry 37.) -/
def withdrawCall (e : Env) (n : Need) (z : Zone) : Zone :=
  match call? z n with
  | none => z
  | some c =>
    match c.state with
    | .localService => freeCall n (endLoadOrder e c.number (releaseOwn e c.number z))
    | .collecting => freeCall n (withdrawWaiting (isRollCall c.number) z)
    | .taking =>
      if c.takeTime.isSome then sendWithdraw e c z else freeCall n (withdrawWaiting (isRollTake c.number) z)
    | .confirmed => sendWithdraw e c z
    | .delivered => freeCall n (endLoadOrder e c.number z)
    | .noStock => freeCall n z
    | .withdrawn => z

/-- Every RUNOUT call is withdrawn at RUN END, in table order (R110). (DESIGN CHOICE, log entry 67.) -/
def withdrawRunouts (z : Zone) : Zone :=
  (z.supply.calls.filter fun c => c.2.need = .runout c.1).foldl (fun z c => z.push (.withdrawCall c.2.need)) z

/-- On entering ACTIVE after a warm restart every call is withdrawn (R115), in table order.
(DESIGN CHOICE, log entries 48 and 67.) One that was
WITHDRAWN already is not withdrawn again (R110): its frame went with the restart, and its entry is freed.
(DEDUCED, log entry 36.) -/
def withdrawAll (e : Env) (z : Zone) : Zone :=
  (z.supply.calls.map fun c => c.2.need).foldl
    (fun z n => if (call? z n).any (·.state = .withdrawn) then freeCall n z else withdrawCall e n z) z

/-! ### Delivery and load reports (R112, R113) -/

/-- A pending order or a held request names a vehicle (R112). (DEDUCED, log entry 32.) -/
def vehicleOrdered (z : Zone) (v : Nat) : Bool :=
  (allOrders z).any (fun o => o.vehicle = some v) ||
    (z.transfer.heldP ++ z.transfer.heldO).any fun r => r.vehicle = some v

/-- The call in CONFIRMED that a docked vehicle's purpose names (R112). -/
def deliveredCall (e : Env) (z : Zone) (v : Vehicle) : Option Call :=
  match v.purpose with
  | .ship st n _ _ => if st = e.own then (callNumbered z n).filter fun c => c.state = .confirmed else none
  | _ => none

/-- The unloading request of a delivered call (R112). -/
def deliveryRequest (e : Env) (z : Zone) (c : Call) (v : Nat) (serial : Serial) : OrderReq :=
  let ref : CallRef := ⟨e.own, c.number, 0⟩
  match c.need with
  | .runout r =>
    let x := standbyArm z r
    if (rollAt z (.arm r x)).isSome then receiveRequest e v serial .anyStock (some ref)
    else
      { receiveRequest e v serial (.place (.arm r x)) (some ref) with
          queue := .p, origin := .callLoad, armTrigger := some (r, x) }
  | .restock l =>
    receiveRequest e v serial (if laneMode? e l = some .through then .place (.lane l 1) else .lane l) (some ref)

/-- A loaded vehicle docked at the receiving dock gets its unloading order (R112). -/
def unload (e : Env) (v : Nat) (z : Zone) : Zone :=
  match findVehicle z v, e.img.receivingDock with
  | some (slot, veh), some d =>
    if veh.loaded ∧ dockedAt e z v d ∧ !vehicleOrdered z v then
      let serial := ((rollAt z (.vehicle slot)).map Roll.serial).getD 0
      let z := { z with supply.retries := z.supply.retries.erase v }
      match deliveredCall e z veh with
      | some c => (setCall { c with state := .delivered } z).push (.requestOrder (deliveryRequest e z c v serial))
      | none => z.push (.requestOrder (receiveRequest e v serial .anyStock none))
    else z
  | _, _ => z

/-- A load has completed: its call is served and its entry freed (R113). -/
def loadDone (n : Nat) (z : Zone) : Zone :=
  match callNumbered z n with
  | some c => freeCall c.need z
  | none => z

/-- A load has failed (R113). -/
def loadFailed (e : Env) (n order : Nat) (serial : Serial) (z : Zone) : Zone :=
  match callNumbered z n with
  | some c => reissueOrFree e c (raise e .loadFailed [.call n, .order order, .serial serial] z)
  | none => z

/-- A load was redirected (R113). -/
def loadRedirected (e : Env) (n : Nat) (z : Zone) : Zone :=
  match callNumbered z n with
  | some c => reissueOrFree e c z
  | none => z

/-! ### The holder's side (R106, R107, R109, R116) -/

/-- A peer's ROLL CALL is answered with at most one ROLL OFFER (R106). -/
def answerRollCall (e : Env) (station call grade width minLength : Nat) (z : Zone) : Zone :=
  match choose e z ⟨.peer, grade, width, minLength⟩, deliveryEstimate e z station with
  | some (_, r), some est =>
    if reservedCount z < Config.reservations then
      offer e ⟨station, .rollOffer (byte call) r.serial (BitVec.ofNat 24 r.remaining) (BitVec.ofNat 16 est)
        (if parkedReady z then 1#8 else 0#8)⟩ z
    else z
  | _, _ => z

/-- The conditions on the roll that a ROLL TAKE names (R107). -/
def mayShip (e : Env) (z : Zone) (station : Nat) (key : Nat) (r : Roll) : Bool :=
  match laneOfKey key with
  | none => false
  | some (l, _) =>
    (e.img.lane? l).any (fun c => c.role = .stock) && (laneRec z l).any (fun c => c.inService && !c.mismatch) &&
      canReserve z key && !quarantined z r.serial && !r.defect && !serialOrdered z r.serial &&
      e.img.loadingDock.isSome && (e.img.exit? station).isSome

/-- A ROLL TAKE is answered CONFIRMED, with a reservation and a SHIP order, or GONE (R107). -/
def takeRoll (e : Env) (station call : Nat) (serial : Serial) (urgency : Urgency) (dock : Nat) (z : Zone) : Zone :=
  match findSerial z serial with
  | some (k, r) =>
    (match mayShip e z station k r, laneOfKey k with
     | true, some (l, p) =>
       let ref : CallRef := ⟨station, call, dock⟩
       let q : Queue := match urgency with
         | .runout => .p
         | .routine => .o
       (offer e (takeAnswerFrame station call serial 1) (reserve k ref z)).push
         (.requestOrder (shipRequest e q serial (.lane l p) ref))
     | _, _ => offer e (takeAnswerFrame station call serial 2) z)
  | none => offer e (takeAnswerFrame station call serial 2) z

/-- A CALL WITHDRAW releases the reservation it names and cancels its SHIP order where that is still possible (R109). -/
def withdrawReservation (e : Env) (station call : Nat) (z : Zone) : Zone :=
  match reservationKey z station call with
  | some k => cancelShip e station call (release k z)
  | none => z

/-- The kept peer reservations are confirmed again, in ascending order of place (R116). -/
def reconfirm (e : Env) (z : Zone) : Zone :=
  z.stock.rolls.foldl
    (fun z x =>
      match x.2.reservation with
      | some ref =>
        if ref.station ≠ e.own then offer e (takeAnswerFrame ref.station ref.call x.2.serial 1) z else z
      | none => z) z

/-! ### One request of an event, and the event to its end (DESIGN CHOICE, log entry 4) -/

def runTask (e : Env) (t : Task) (z : Zone) : Zone :=
  match t with
  | .restock => restockCheck e z
  | .askCall n => askCall e n z
  | .withdrawCall n => withdrawCall e n z
  | .loadDone c => loadDone c z
  | .loadFailed c o s => loadFailed e c o s z
  | .loadRedirected c => loadRedirected e c z
  | .requestOrder r => requestOrder e r z
  | .invite q => invite e q z
  | .assignVehicle o => assignVehicle e o z
  | .offerVehicle v w => offerVehicle e v w z
  | .unload v => unload e v z

/-- The requests of an event are served, each before the ones asked earlier go on, and the carriage is looked at when
none is left, until nothing changes (DESIGN CHOICE, log entry 4). -/
def settle (e : Env) : Nat → Zone → Zone
  | 0, z => z
  | n + 1, z =>
    match z.agenda with
    | t :: ts =>
      let z' := runTask e t { z with agenda := [] }
      settle e n { z' with agenda := z'.agenda ++ ts }
    | [] =>
      let z' := house e z
      if z' = z then z else settle e n z'

/-- The end of an event in ACTIVE: its inner requests are served and the detector watches follow (R59, R138). In the
other station states nothing moves (R16). (DESIGN CHOICE, log entry 4.) -/
def finish (e : Env) (z : Zone) : Zone :=
  if e.active then refreshWatches e (settle e Config.cascadeFuel z) else z

end Sys2Proof.Machine
end

