-- ==== Sys2Proof/Machine/Spoilage.lean ====
section
/-! DEFINITION. The spoilage counters (Chapter 9): press condition, copy categories, edition and run records, cause bits,
the rate monitor, break counts and lot alerts. -/

namespace Sys2Proof.Machine

/-! ### Press condition and cause bits (R167, R168, R172) -/

/-- The run states are the four values other than IDLE (9-1). -/
def PressCondition.running (c : PressCondition) : Bool := c ≠ .idle

/-- The status bits as the press condition sets and clears them; entering IDLE clears SPLICE and RUNNING (R172). -/
def Causes.forCondition (s : Causes) (c : PressCondition) : Causes :=
  { s with makeready := c = .makeready, breaks := c = .broken, changeover := c = .changeover,
           splice := s.splice && c ≠ .idle, running := s.running && c ≠ .idle }

/-- The union of two sets of cause bits. -/
def Causes.union (a b : Causes) : Causes :=
  ⟨a.makeready || b.makeready, a.splice || b.splice, a.breaks || b.breaks, a.changeover || b.changeover,
   a.running || b.running, a.rateHigh || b.rateHigh⟩

/-- The status bits take a new value; each bit that is set sets its log bit (R172). -/
def Spoilage.setStatus (s : Spoilage) (c : Causes) : Spoilage := { s with status := c, log := s.log.union c }

def Spoilage.setCondition (s : Spoilage) (c : PressCondition) : Spoilage :=
  ({ s with condition := c } : Spoilage).setStatus (s.status.forCondition c)

/-- RATE_HIGH is set or cleared (R172). -/
def Spoilage.setRateHigh (s : Spoilage) (on : Bool) : Spoilage := s.setStatus { s.status with rateHigh := on }

/-- The rate window restarts: its partial counts are discarded (R171, R174). -/
def Spoilage.discardWindow (s : Spoilage) : Spoilage := { s with windowCopies := 0, windowWaste := 0 }

/-- A run is opened (R171). -/
def Spoilage.openRun (s : Spoilage) (run edition : Nat) : Spoilage :=
  ({ s with run := ⟨run, 1, Counts.zero, 0⟩, edition := ⟨edition, Counts.zero⟩ } : Spoilage).discardWindow.setRateHigh false

/-- An edition is opened (R171). -/
def Spoilage.openEdition (s : Spoilage) (edition : Nat) : Spoilage :=
  { s with edition := ⟨edition, Counts.zero⟩, run := { s.run with editions := satAdd Config.max32 s.run.editions 1 } }

/-- A run is closed (R171). -/
def Spoilage.closeRun (s : Spoilage) : Spoilage :=
  ({ s with lastRun := s.run } : Spoilage).discardWindow.setRateHigh false

/-- RUN START (Table 9-1-1). -/
def Spoilage.runStart (s : Spoilage) (run edition : Nat) : Spoilage :=
  ((if s.condition.running then s.closeRun else s).openRun run edition).setCondition .makeready

/-- EDITION CHANGE (Table 9-1-1). -/
def Spoilage.editionChange (s : Spoilage) (edition : Nat) : Spoilage :=
  match s.condition with
  | .idle => s
  | .broken => s.openEdition edition
  | _ => (s.openEdition edition).setCondition .changeover

/-- RUN END (Table 9-1-1). -/
def Spoilage.runEnd (s : Spoilage) : Spoilage :=
  if s.condition.running then s.closeRun.setCondition .idle else s

def webInUse (i : Image) (r : Nat) : Bool := (i.reel? r).any (·.webInUse)

/-- Some web break input of a reelstand in use is active (R168). -/
def breakActive (e : Env) : Bool := (reelNumbers e).any fun r => webInUse e.img r && (reelIns e r).webBreak

/-- A web break input becomes active (R168). -/
def Spoilage.webBroke (s : Spoilage) (i : Image) (r : Nat) : Spoilage :=
  if webInUse i r ∧ s.condition.running then s.setCondition .broken else s

/-- The waste gate changes to showing good (R168). -/
def Spoilage.gateGood (s : Spoilage) (e : Env) : Spoilage :=
  match s.condition with
  | .makeready | .changeover => s.setCondition .production
  | .broken => if breakActive e then s else s.setCondition .production
  | _ => s

/-- A web break input becomes inactive (R168). -/
def Spoilage.breakCleared (s : Spoilage) (e : Env) : Spoilage :=
  if s.condition = .broken ∧ !e.inputs.wasteGate ∧ !breakActive e then s.setCondition .production else s

/-! ### Copies (R169, R170) -/

/-- Copy categories (Table 9-2-1). -/
inductive Category where
  | idle
  | broken
  | changeover
  | makeready
  | splice
  | running
  | good
deriving DecidableEq, Repr

/-- The category of a copy: the first line of Table 9-2-1 that holds (R169). -/
def category (c : PressCondition) (window waste : Bool) : Category :=
  match c with
  | .idle => .idle
  | .broken => .broken
  | .changeover => .changeover
  | .makeready => .makeready
  | .production => if window then .splice else if waste then .running else .good

/-- The waste categories (9-2). -/
def Category.isWaste : Category → Bool
  | .idle | .good => false
  | _ => true

/-- A length added to its remainder; each whole 1,000 mm passes as 1 m (R170). -/
def Metres.add (x : Metres) (mm : Nat) : Metres :=
  ⟨satAdd Config.max32 x.m ((x.rest + mm) / 1000), (x.rest + mm) % 1000⟩

def bump32 (n : Nat) : Nat := satAdd Config.max32 n 1

/-- 1 to the count of a category (R170). -/
def Counts.count (c : Counts) (k : Category) : Counts :=
  match k with
  | .idle => c
  | .broken => { c with breaks := bump32 c.breaks }
  | .changeover => { c with changeover := bump32 c.changeover }
  | .makeready => { c with makeready := bump32 c.makeready }
  | .splice => { c with splice := bump32 c.splice }
  | .running => { c with running := bump32 c.running }
  | .good => { c with good := bump32 c.good }

/-- A copy of a run category added to a record's counts (R170). -/
def Counts.addCopy (c : Counts) (k : Category) (overlap : Bool) (cutoff : Nat) (webs : List Nat) : Counts :=
  let c := c.count k
  let c := if overlap then { c with overlap := bump32 c.overlap } else c
  let c := { c with sheet := c.sheet.add (cutoff * webs.length) }
  if k.isWaste then
    { c with webWaste := webs.foldl (fun t r => t.set r (((t.get? r).getD ⟨0, 0⟩).add cutoff)) c.webWaste }
  else c

/-- The SPLICE and RUNNING status bits follow each copy's category (R172). -/
def Causes.forCopy (s : Causes) (k : Category) : Causes := { s with splice := k = .splice, running := k = .running }

/-- A copy counted: the idle count, or the edition and run records and the rate window's counts (R170, R172, R174). -/
def Spoilage.countCopy (s : Spoilage) (k : Category) (overlap : Bool) (cutoff : Nat) (webs : List Nat) : Spoilage :=
  let s := s.setStatus (s.status.forCopy k)
  if k = .idle then { s with idleCopies := bump32 s.idleCopies }
  else
    { s with edition := { s.edition with counts := s.edition.counts.addCopy k overlap cutoff webs },
             run := { s.run with counts := s.run.counts.addCopy k overlap cutoff webs },
             windowCopies := s.windowCopies + 1,
             windowWaste := s.windowWaste + if k.isWaste then 1 else 0 }

/-! ### Rate monitor (R174) -/

/-- The window size W in copies. -/
def windowSize (i : Image) : Nat := (4 + i.rateX) * 2 ^ i.rateY / 4

/-- The window's waste is above the limit M. -/
def Spoilage.aboveLimit (s : Spoilage) (i : Image) : Bool := i.rateM < s.windowWaste

/-- The decision of a window that ends (R174). -/
def Spoilage.endWindow (s : Spoilage) (i : Image) : Spoilage :=
  let s' :=
    if s.aboveLimit i then
      ({ s with run := { s.run with overWindow := bump32 s.run.overWindow } } : Spoilage).setRateHigh true
    else s.setRateHigh false
  { s' with lastWindowWaste := s.windowWaste, windowCopies := 0, windowWaste := 0 }

/-- The fault of a window that ends above the limit with RATE_HIGH clear (R174). -/
def raiseRateHigh (e : Env) (s : Spoilage) (z : Zone) : Zone :=
  if s.aboveLimit e.img ∧ !s.status.rateHigh then
    raise e .rateHigh
      [.number (windowSize e.img), .number e.img.rateM, .number s.windowWaste, .number s.edition.number] z
  else z

/-- A window with W copies ends (R174). (DESIGN CHOICE, log entry 29.) -/
def windowDue (i : Image) (s : Spoilage) : Bool := windowSize i ≤ s.windowCopies

/-- The folder copy pulse at the WF and the SC, its parts in the order of R158. (DESIGN CHOICE, log entry 29.) -/
def copyPulse (e : Env) (s : Spoilage) (z : Zone) : Spoilage × Zone :=
  let z := copyArrivals e z
  let k := category s.condition (windowOpen z) e.inputs.wasteGate
  let open' := (z.folder.webs.filter fun w => 0 < w.2.window).length
  let webs := (reelNumbers e).filter (webActive e z)
  let s := s.countCopy k (2 ≤ open') e.img.cutoff webs
  let due : Bool := windowDue e.img s && k ≠ .idle
  let z := if due then raiseRateHigh e s z else z
  let s := if due then s.endWindow e.img else s
  let z := if k.isWaste then copyCharge e z else z
  (s, copyWindows z)

/-! ### Breaks and alerts (R175, R176) -/

/-- Steps 2 and 3 of R176: the lot to the own stock table, and the LOT ALERT. -/
def sendAlert (e : Env) (s : Serial) (z : Zone) : Zone :=
  offer e ⟨0, .lotAlert (lotFirst s) s⟩ (addAlert e s e.own z)

/-- Step 4 of R176. -/
def raiseAlert (e : Env) (s : Serial) (reel : Option Nat) (breaks : Nat) (z : Zone) : Zone :=
  raise e .lotAlertIssued
    ([.serial s, .serial (lotFirst s)] ++ (reel.map CtxElem.reelstand).toList ++ [.number breaks]) z

/-- The record of the running arm after a web break: its break count, and its defect flag when it alerts (R175, R176). -/
def Roll.broke (r : Roll) (threshold : Nat) : Roll :=
  let n := satAdd 7 r.breaks 1
  { r with breaks := n, defect := r.defect || (0 < threshold && threshold ≤ n) }

/-- A web break counted on the running roll, by a write that names the arm and the serial standing there, 0 with none
(R51, R175; DEDUCED, log entry 61); an identified roll that reaches the threshold alerts (R176). The
serial is that of an alert to be held in JOINING. (DEDUCED, log entry 49.) -/
def countBreak (e : Env) (r : Nat) (z : Zone) : Zone × Option Serial :=
  match runningArm z r with
  | none => (z, none)
  | some x =>
    let found := rollAt z (.arm r x)
    let z := writeRoll e (.arm r x) (armSerial z r x) (·.broke e.img.lotThreshold) z
    match found with
    | none => (z, none)
    | some roll =>
      let new := roll.broke e.img.lotThreshold
      if new.defect ∧ !roll.defect ∧ roll.serial ≠ 0 then
        if e.active then (raiseAlert e roll.serial (some r) new.breaks (sendAlert e roll.serial z), none)
        else (raiseAlert e roll.serial (some r) new.breaks z, some roll.serial)
      else (z, none)

/-- The alert of a defective entry that ROLL ENTRY identifies (R176). -/
def identifiedAlert (e : Env) (s : Serial) (reel : Option Nat) (breaks : Nat) (z : Zone) : Zone :=
  raiseAlert e s reel breaks (sendAlert e s z)

/-! ### LOG CLEAR (R173) -/

def Spoilage.logCleared (s : Spoilage) : Spoilage := { s with log := s.status }

end Sys2Proof.Machine
end

