-- ==== Sys2Proof/Machine/Flags.lean ====
section
/-! DEFINITION. Flag and status bytes as the report pages show them, bits counting from bit 0 in the order their record
lists them (11-3), and the field outputs with the polarity bits of the 147 lines (R13, R14, R193). -/

namespace Sys2Proof.Machine

/-- A flag byte from its bits, bit 0 first. -/
def flagByte (bits : List Bool) : Byte :=
  byte ((bits.zipIdx.map fun (b, i) => if b then 2 ^ i else 0).sum)

/-- The cause bits in the order of 9-4: MAKEREADY, SPLICE, BREAK, CHANGEOVER, RUNNING, RATE_HIGH. -/
def Causes.byte (c : Causes) : Byte :=
  flagByte [c.makeready, c.splice, c.breaks, c.changeover, c.running, c.rateHigh]

/-- The reelstand flags: inhibited, manual splice, runout raised, late raised, press stop request, mark-lost. -/
def reelFlags (s : Splice) (pressStop markLost : Bool) : Byte :=
  flagByte [s.inhibited, s.manual, s.runoutRaised, s.lateRaised, pressStop, markLost]

/-- The lane flags: in service, overrun, underrun, mismatch, full, empty. -/
def Lane.byte (c : Lane) : Byte :=
  flagByte [c.inService, c.overrun, c.underrun, c.mismatch, c.full, c.empty]

/-! ### Field outputs as the station state lets them out (R13, R14, R16) -/

/-- The outputs follow their blocks in ACTIVE only; before a good image they are released, in JOINING and INERT they are
inactive (R14, R16, R18). (DESIGN CHOICE, log entry 51.) -/
def outputsDriven (s : State) : Bool := !s.loader.held && s.loader.station = .active

/-- The permit output of a segment. -/
def State.permitOut (s : State) (k : Nat) : Bool :=
  outputsDriven s && (s.zone.track.segments.get? k).any (·.permit)

/-- The position output of points: active for position 2, inactive for position 1 (R22; DESIGN CHOICE, log entry 51);
inactive like every other output where the station drives none (R16 to R18). -/
def State.pointsOut (s : State) (p : Nat) : Bool := outputsDriven s && s.zone.track.points.get? p = some 2

def State.accelerateOut (s : State) (r : Nat) : Bool :=
  outputsDriven s && (s.zone.splice.stands.get? r).any (·.accelerateOut)

def State.pasteOut (s : State) (r : Nat) : Bool :=
  outputsDriven s && (s.zone.splice.stands.get? r).any (·.pasteOut)

def State.knifeOut (s : State) (r : Nat) : Bool :=
  outputsDriven s && (s.zone.splice.stands.get? r).any (·.knifeOut)

/-- The press stop request keeps its level through JOINING (R16, R148). -/
def State.pressStopOut (s : State) : Bool :=
  !s.loader.held && (s.loader.station = .active || s.loader.station = .joining) && s.zone.splice.pressStop

/-- The eject output, inactive in JOINING (R161). -/
def State.ejectOut (s : State) : Bool := outputsDriven s && s.zone.folder.eject

/-- The carriage command outputs (4-1). -/
def State.carriageOut (s : State) : Option (Motion × Place) :=
  if outputsDriven s then s.zone.transfer.command else none

/-! ### Polarity (R13, R193) -/

/-- The lines of one reelstand, in the order of their polarity bits (R193): twelve inputs, then three outputs. -/
inductive ReelLine where
  | presentA | presentB | armOpenA | armOpenB | revolutionA | revolutionB | standbyReady | speedMatched | pasteDone
  | knifeDone | webBreak | encoder | accelerate | paste | knife
deriving DecidableEq, Repr

/-- The field lines that have a polarity bit (R193). -/
inductive FieldLine where
  | occupancy (k : Nat)
  | permit (k : Nat)
  | points (p : Nat)
  | atDock (d : Nat)
  | detector (lane position : Nat)
  | reel (r : Nat) (line : ReelLine)
  | carriageDone
  | copyPulse
  | wasteGate
  | eject
  | pressStop
deriving DecidableEq, Repr

def ReelLine.index : ReelLine → Nat
  | .presentA => 0
  | .presentB => 1
  | .armOpenA => 2
  | .armOpenB => 3
  | .revolutionA => 4
  | .revolutionB => 5
  | .standbyReady => 6
  | .speedMatched => 7
  | .pasteDone => 8
  | .knifeDone => 9
  | .webBreak => 10
  | .encoder => 11
  | .accelerate => 12
  | .paste => 13
  | .knife => 14

/-- Place k, counted from 1, of a group of so many bits; none outside it. -/
def bitInGroup (base count k : Nat) : Option Nat := if 1 ≤ k ∧ k ≤ count then some (base + (k - 1)) else none

/-- The polarity bit of a line, from bit 0 of the first byte (R193, list 1 to 7); none for a number outside its list. -/
def FieldLine.bit : FieldLine → Option Nat
  | .occupancy k => bitInGroup 0 16 k
  | .permit k => bitInGroup 16 16 k
  | .points p => bitInGroup 32 6 p
  | .atDock d => bitInGroup 38 12 d
  | .detector l p => if 1 ≤ l ∧ 1 ≤ p ∧ p ≤ 4 then bitInGroup 50 32 ((l - 1) * 4 + p) else none
  | .reel r line => if 1 ≤ r then bitInGroup 82 60 ((r - 1) * 15 + line.index + 1) else none
  | .carriageDone => some 142
  | .copyPulse => some 143
  | .wasteGate => some 144
  | .eject => some 145
  | .pressStop => some 146

/-- The electrical level of a line in a state, or the state at an electrical level: true is high, and a bit of 1 makes
active high (R13, R193). (DESIGN CHOICE, log entry 51.) -/
def Image.throughPolarity (i : Image) (line : FieldLine) (level : Bool) : Option Bool :=
  line.bit.map fun b => ((i.polarity.getD (b / 8) 0#8).getLsbD (b % 8)) == level

/-- An input read through its polarity (R13). -/
def readThrough (i : Image) (line : FieldLine) (high : Bool) : Option Bool := i.throughPolarity line high

/-- The state that the owning blocks call for on an output, as the station lets it out; none for an input. -/
def State.outputActive (s : State) : FieldLine → Option Bool
  | .permit k => some (s.permitOut k)
  | .points p => some (s.pointsOut p)
  | .reel r .accelerate => some (s.accelerateOut r)
  | .reel r .paste => some (s.pasteOut r)
  | .reel r .knife => some (s.knifeOut r)
  | .eject => some s.ejectOut
  | .pressStop => some s.pressStopOut
  | _ => none

/-- The electrical level of a line for a state of it: none is released, before a good image and under RESET (R13, R14).
(DESIGN CHOICE, log entry 51.) -/
def electrical (s : State) (line : FieldLine) (active : Bool) : Option Bool :=
  if s.loader.held then none else s.loader.image.bind fun i => i.throughPolarity line active

/-- The level that a field output is driven at through its polarity; none is released (R13, R14). -/
def State.outputLevel (s : State) (line : FieldLine) : Option Bool := (s.outputActive line).bind (electrical s line)

end Sys2Proof.Machine
end

