-- ==== Sys2Proof/Machine/Reports.lean ====
section
/-! DEFINITION. ZONE REPORT pages (R185, R192): the data bytes of every page and index, and their parts. -/

namespace Sys2Proof.Machine

/-- A number in n bytes, most significant first, held at the greatest value where it is larger.
(DESIGN CHOICE, log entry 43.) -/
def field (n v : Nat) : List Byte := toBytes n (min v (256 ^ n - 1))

def metresBytes (x : Metres) : List Byte := field 4 x.m ++ field 2 x.rest

/-- The seven counts: good, makeready, splice, break, changeover, running, overlap. -/
def countBytes (c : Counts) : List Byte :=
  field 4 c.good ++ field 4 c.makeready ++ field 4 c.splice ++ field 4 c.breaks ++ field 4 c.changeover ++
    field 4 c.running ++ field 4 c.overlap

def webBytes (c : Counts) : List Byte := [1, 2, 3, 4].flatMap fun r => metresBytes ((c.webWaste.get? r).getD ⟨0, 0⟩)

/-- Page 1, index 1. -/
def editionPage (s : Spoilage) : List Byte :=
  field 2 s.edition.number ++ countBytes s.edition.counts ++ metresBytes s.edition.counts.sheet ++
    webBytes s.edition.counts ++ field 4 s.idleCopies

/-- Page 1, index 2. -/
def causePage (s : Spoilage) : List Byte := [byte s.condition.code, s.status.byte, s.log.byte]

/-- Page 2, indexes 1 and 2. -/
def runPage (r : RunRecord) : List Byte :=
  field 2 r.number ++ field 4 r.editions ++ countBytes r.counts ++ metresBytes r.counts.sheet ++ webBytes r.counts ++
    field 4 r.overWindow

/-- Page 2, index 3. -/
def windowPage (s : Spoilage) : List Byte :=
  field 2 s.windowCopies ++ field 2 s.windowWaste ++ field 2 s.lastWindowWaste

/-- A record as serial and state; an absent one is zeros. -/
def rollBytes (r : Option Roll) : List Byte :=
  match r with
  | some r => bytes32 r.serial ++ [byte r.state.code]
  | none => List.replicate 5 0#8

/-- The 11 bytes of a call. -/
def callBytes (c : Option Call) : List Byte :=
  match c with
  | some c =>
    [byte c.number, byte c.state.code] ++ field 2 c.deadline ++
      [if c.late then 1#8 else 0#8, byte c.offers.length, byte ((c.chosen.map (·.station)).getD 0)] ++
      bytes32 ((c.chosen.map (·.serial)).getD 0)
  | none => List.replicate 11 0#8

/-- The result byte of a completion: 1 DONE, 2 onward FAILED with the reasons in order (11-3). -/
def resultByte (r : Option Reason) : Byte :=
  match r with
  | none => 1#8
  | some r => byte (r.code + 1)

/-- The 9 bytes of the notices of a place. -/
def noticeBytes (n : Option Notice) : List Byte :=
  let hold := match n.bind Notice.hold with
    | some h => [byte h.order, byte h.step] ++ bytes32 h.time
    | none => List.replicate 6 0#8
  let done := match n.bind Notice.completion with
    | some d => [byte d.order, byte d.origin.code, resultByte d.failed]
    | none => List.replicate 3 0#8
  hold ++ done

def noticeAt (z : Zone) (k : Nat) : List Byte := noticeBytes (z.transfer.notices.get? k)

def markBytes (m : Option Mark) : List Byte :=
  match m with
  | some m => field 5 m.position.toNat ++ bytes32 m.old ++ bytes32 m.new
  | none => List.replicate 13 0#8

/-- The measurement record of the running arm: state, seed, average, rejects, total rejects and the three lengths. -/
def measBytes (m : Option Meas) : List Byte :=
  match m with
  | some m =>
    [byte m.state.code, byte m.seed.code] ++ field 2 (m.average.getD 0) ++ [byte m.rejects] ++
      field 2 m.totalRejects ++ field 4 m.remaining ++ field 4 m.spliceLength ++ field 4 m.minLength
  | none => List.replicate 19 0#8

/-- The web record. -/
def webRecordBytes (w : WebPath) : List Byte :=
  [byte w.marks.length] ++ ([0, 1, 2, 3].flatMap fun i => markBytes w.marks[i]?) ++
    bytes32 (w.folderRoll.getD 0) ++ field 4 w.wasteLength ++ field 4 w.wasteCopies ++ [byte w.window] ++
    (match w.lastClosed with
     | some a => bytes32 a.serial ++ field 2 a.metres ++ field 4 a.copies ++ [byte a.disposal.code]
     | none => List.replicate 11 0#8) ++
    field 4 w.unattributed

/-- Page 3 of a reelstand. -/
def reelPage (e : Env) (z : Zone) (r : Nat) : List Byte :=
  let s := (splice? z r).getD Splice.initial
  let w := (web? z r).getD WebPath.initial
  [byte s.state.code, byte (armCode s.running), reelFlags s z.splice.pressStop w.markLost, byte s.deferred.length] ++
    rollBytes (rollAt z (.arm r .a)) ++ rollBytes (rollAt z (.arm r .b)) ++ measBytes (runningMeas z r) ++
    field 5 (webCounter e r).toNat ++ field 2 (webSpeed e r) ++ field 2 (timeToSplice z r) ++ webRecordBytes w ++
    callBytes (z.supply.calls.get? (Need.runout r).key) ++ noticeAt z (Place.arm r .a).key ++
    noticeAt z (Place.arm r .b).key

/-- Page 4 of a lane; grade, width and low mark belong to the role STAGING. -/
def lanePage (e : Env) (z : Zone) (l : Nat) : List Byte :=
  match e.img.lane? l with
  | none => []
  | some c =>
    let staging : Bool := c.role = .staging
    let only := fun (n : Nat) => if staging then n else 0
    [byte c.mode.code, byte c.positions, byte c.role.code, byte (only c.grade)] ++ field 2 (only c.width) ++
      [byte (only c.low), ((laneRec z l).map Lane.byte).getD 0#8] ++
      ([1, 2, 3, 4].flatMap fun p => rollBytes (rollAt z (.lane l p))) ++
      callBytes (z.supply.calls.get? (Need.restock l).key) ++ noticeAt z (Place.lane l 0).key

def slotBytes (s : Option Slot) : List Byte :=
  match s with
  | some s =>
    bytes32 s.base ++ bytes32 s.limit ++ [byte s.origin.code, match s.origin with
      | .alert st => byte st
      | _ => 0#8]
  | none => List.replicate 10 0#8

/-- Page 4, lane count + 1. -/
def slotPage (z : Zone) : List Byte := [1, 2, 3, 4].flatMap fun k => slotBytes (z.stock.slots.get? k)

def queueBytes (z : Zone) (q : Queue) : List Byte :=
  let s := statOf z q
  [byte (ordersOf z q).length] ++ field 2 s.done ++ field 2 s.failed ++ field 2 s.overrun

/-- Page 4, lane count + 2: the transfer status and the dock notices (R93). -/
def transferPage (z : Zone) : List Byte :=
  let t := z.transfer
  let head := match t.carriage with
    | .running n =>
      (match order? z n with
       | some o => [byte n, byte o.req.origin.code, byte o.step] ++ bytes32 o.serial
       | none => List.replicate 7 0#8)
    | .halted o => [byte o.number, 0#8, 0#8] ++ bytes32 o.serial
    | .idle => List.replicate 7 0#8
  let suspended := match suspendedOrder z with
    | some o => [byte o.number, byte o.step]
    | none => [0#8, 0#8]
  [byte t.carriage.code] ++ head ++ suspended ++ [byte t.statP.last, byte t.statO.last] ++
    queueBytes z .p ++ queueBytes z .o ++ (upTo 12).flatMap fun d => noticeAt z (Place.dock d).key

def purposeBytes : Purpose → List Byte
  | .ship st call dest d => [byte st, byte call, byte dest, byte d]
  | .returnTo st => [byte st, 0#8, 0#8, 0#8]
  | .fetch d => [byte d, 0#8, 0#8, 0#8]
  | _ => [0#8, 0#8, 0#8, 0#8]

/-- The 17 bytes of a load (11-2). -/
def loadBytes (r : Option Roll) : List Byte := bytesPassRoll (passRoll r)

/-- Page 5, indexes 1 to 8. -/
def vehiclePage (z : Zone) (slot : Nat) : List Byte :=
  match vehicle? z slot with
  | none => List.replicate 52 0#8
  | some v =>
    [byte v.number, byte v.state.code, byte (v.current.getD 0), byte (v.granted.getD 0), byte (v.trailing.getD 0),
     byte v.purpose.code] ++ purposeBytes v.purpose ++
      [byte (v.order.getD 0), byte v.home, byte v.handOver.code] ++ bytes32 v.handOverTime ++
      [byte (v.offeredBy.getD 0), byte v.route.length] ++
      ((List.range 16).map fun i => byte (v.route.getD i 0)) ++ loadBytes (vehicleRoll z slot)

/-- Page 5, indexes 9 on. -/
def segmentPage (z : Zone) (k : Nat) : List Byte :=
  match seg? z k with
  | none => []
  | some s =>
    [byte s.state.code, byte s.state.vehicle, byte s.wait.length] ++ (List.range 7).map fun i => byte (s.wait.getD i 0)

/-- Page 6, index 0. -/
def leadPage (e : Env) (f : FaultRecord) : List Byte :=
  (match f.lead with
   | some o => [classByte o.code.cls o.code.severity] ++ bytes32 o.time ++ contextBytes o
   | none => List.replicate 14 0#8) ++ [byte (f.level.getD 0), byte e.img.level]

/-- Page 6, indexes 1 to 7. -/
def classPage (f : FaultRecord) (k : Nat) : List Byte :=
  match f.entries.get? k with
  | some c => entryBytes c
  | none => List.replicate 15 0#8

/-- Page 7. -/
def linePage (l : Line) : List Byte :=
  field 2 l.dropped ++ field 2 l.lineErrors ++ field 2 l.unknown ++ field 2 l.malformed ++ field 2 l.refused

/-- The data of a page and index; none where they lie outside their range (Table 10-4-1).
(DESIGN CHOICE, log entry 43.) -/
def pageData (e : Env) (sp : Spoilage) (z : Zone) (page index : Nat) : Option (List Byte) :=
  let lanes := e.img.lanes.length
  match page with
  | 1 => if index = 1 then some (editionPage sp) else if index = 2 then some (causePage sp) else none
  | 2 =>
    if index = 1 then some (runPage sp.run) else if index = 2 then some (runPage sp.lastRun)
    else if index = 3 then some (windowPage sp) else none
  | 3 => if 1 ≤ index ∧ index ≤ e.img.reels.length then some (reelPage e z index) else none
  | 4 =>
    if 1 ≤ index ∧ index ≤ lanes then some (lanePage e z index)
    else if index = lanes + 1 then some (slotPage z)
    else if index = lanes + 2 then some (transferPage z)
    else none
  | 5 =>
    if 1 ≤ index ∧ index ≤ 8 then some (vehiclePage z index)
    else if 9 ≤ index ∧ index ≤ 8 + e.img.segments.length then some (segmentPage z (index - 8))
    else none
  | 6 => if index = 0 then some (leadPage e z.faults) else if index ≤ 7 then some (classPage z.faults index) else none
  | 7 => if index = 1 then some (linePage z.line) else none
  | _ => none

/-- The number of parts of an index's data: parts of 20 bytes, the last carrying the rest (R192). -/
def partCount (data : List Byte) : Nat := (data.length + 19) / 20

/-- Part p of an index's data. -/
def partData (data : List Byte) (p : Nat) : List Byte := (data.drop (20 * (p - 1))).take 20

/-- The ZONE REPORT that answers a request; none where page, index or part lies outside its range (R185, R192). -/
def zoneReport (e : Env) (sp : Spoilage) (z : Zone) (page index part : Nat) : Option Body :=
  match pageData e sp z page index with
  | some d =>
    if 1 ≤ part ∧ part ≤ partCount d then
      some (.zoneReport (byte page) (byte index) (byte part) (byte (partCount d)) (partData d part))
    else none
  | none => none

end Sys2Proof.Machine
end

