-- ==== Sys2Proof/Machine/Receive.lean ====
section
/-! DEFINITION. What every command uses of the whole state: the environment of the blocks, the end of an event, and the
receiving of a frame by R7, R8 and R9. -/

namespace Sys2Proof.Machine

/-! ### The blocks' view of the whole state -/

/-- What the blocks read of the state within one event. -/
def State.env (s : State) : Env :=
  { now := s.time, own := s.loader.number, station := s.loader.station, img := s.loader.image.getD Image.absent,
    webs := s.webs, inputs := s.inputs }

/-- RESET is not held and the station is in a state. -/
def State.isIn (s : State) (st : Station) : Bool := !s.loader.held && s.loader.station = st

def State.isActive (s : State) : Bool := s.isIn .active

/-- The station measures and counts: JOINING or ACTIVE (R16). (DEDUCED, log entry 21.) -/
def State.measures (s : State) : Bool := s.isIn .active || s.isIn .joining

/-- An event's work on the zone, without its inner requests yet. -/
def State.within (s : State) (f : Env → Zone → Zone) : State := { s with zone := f s.env s.zone }

/-- The inner requests of the event are served (DESIGN CHOICE, log entry 4). -/
def State.settled (s : State) : State := s.within finish

/-- One event on the zone, to its end. -/
def State.onZone (s : State) (f : Env → Zone → Zone) : State := (s.within f).settled

def State.modLine (s : State) (f : Line → Line) : State := { s with zone := { s.zone with line := f s.zone.line } }

def State.modInputs (s : State) (f : Inputs → Inputs) : State := { s with inputs := f s.inputs }

/-- One more frame of a kind that a block cannot hold (R8, R191). (DEDUCED, log entry 45.) -/
def Line.countMalformed (l : Line) : Line := { l with malformed := bump16 l.malformed }
def Line.countUnknown (l : Line) : Line := { l with unknown := bump16 l.unknown }
def Line.countRefused (l : Line) : Line := { l with refused := bump16 l.refused }

def State.countMalformed (s : State) : State := s.modLine Line.countMalformed

/-! ### INERT (R17, R18) -/

/-- The LINE fault report of INERT joins the queue, or is discarded and counted when 16 frames are queued (1-3); an
invalid station number sends nothing (R18). (DEDUCED, log entry 11.) (DEDUCED, log entry 50.) -/
def offerInert (own : Nat) (z : Zone) : Zone :=
  if !stationOk own then z
  else if z.line.queue.length < Config.queueEntries then
    { z with line.queue := z.line.queue ++ [⟨0, faultReportBody z.faults .line⟩] }
  else { z with line := z.line.drop }

/-- The station enters INERT with a LINE fault, which it records and reports (R17, R18). (DEDUCED, log entry 11.) -/
def State.enterInert (s : State) (code : FaultCode) (context : List CtxElem) : State :=
  let zone := { s.zone with faults := s.zone.faults.record ⟨code, s.time, context⟩ 1 }
  { s with loader := { s.loader with station := .inert, inertNext := some (s.time + Config.inertRepeat),
                                     restartAnswer := none }
           zone := offerInert s.loader.number zone }

/-! ### Receiving (R7, R8, R9) -/

/-- What becomes of a frame by R8. -/
inductive Judgement where
  | ignored
  | unknown
  | malformed
  | refused
  | accepted
deriving DecidableEq, Repr

/-- The sender may send frames of this class to the zone (R8 step 4). -/
def mayCommand (i : Image) (sender : Nat) : FrameClass → Bool
  | .terminal => i.permission.contains sender
  | .console => i.console ≠ 0 && i.console = sender
  | _ => true

/-- The four checks of R8 in their order. -/
def judge (e : Env) (f : RawFrame) : Judgement :=
  if f.addressee ≠ 0 ∧ f.addressee.toNat ≠ e.own then .ignored
  else
    match kindOf f.kind with
    | none => .unknown
    | some k =>
      if !k.lengthOk f.body.length || !stationOk f.sender.toNat then .malformed
      else if !mayCommand e.img f.sender.toNat k.cls then .refused
      else if k.cls = .report then .ignored
      else .accepted

/-- The LI hears frames: JOINING or ACTIVE, RESET released, the line not ignored (R9, R18, R188).
(DEDUCED, log entry 9.) -/
def State.hears (s : State) : Bool := s.measures && !s.zone.line.ignoring

/-- The frame is the one the LI has just sent to its end (R7). (DEDUCED, log entry 7.) -/
def ownFrame (l : Line) (f : RawFrame) : Bool :=
  l.justSent.any fun t =>
    t.dest = f.addressee.toNat && (bodyKind t.body).code = f.kind && encodeBody t.body = f.body

/-- A frame of another station with the own number (R7, R17). -/
def State.duplicate (s : State) : State :=
  if s.isIn .joining then s.enterInert .duplicateStation []
  else s.onZone fun e z => raise e .duplicateStation [] z

/-- What R8 makes of a frame: a count, or in ACTIVE the owning block takes it (R9). -/
def State.judged (s : State) (f : RawFrame) (take : State → State) : State :=
  match judge s.env f with
  | .ignored => s
  | .unknown => s.modLine Line.countUnknown
  | .malformed => s.modLine Line.countMalformed
  | .refused => s.modLine Line.countRefused
  | .accepted => if s.isActive then take s else s

/-- A frame in ACTIVE tells the TC that its sender is alive (R9, R37). (DESIGN CHOICE, log entry 8.) -/
def State.aliveFrom (s : State) (sender : Byte) : State :=
  if s.isActive ∧ stationOk sender.toNat then s.within (fun e z => senderAlive e sender.toNat z) else s

/-- A frame that has passed the line check is heard: R7, then R8, then the owning block, and the sender is alive.
(DEDUCED, log entry 7.) (DESIGN CHOICE, log entry 8.) -/
def State.hear (s : State) (f : RawFrame) (take : State → State) : State :=
  if !s.hears then s
  else
    let own := f.sender.toNat = s.loader.number
    let sent := ownFrame s.zone.line f
    let s := s.modLine fun l => { l with justSent := none }
    if own then (if sent then s else s.duplicate)
    else ((s.judged f take).aliveFrom f.sender).settled

/-- A frame with a body whose fields are read. -/
def rawFrame (h : Header) (b : Body) : RawFrame := ⟨h.sender, h.addressee, (bodyKind b).code, encodeBody b⟩

/-- A typed frame is heard. -/
def State.hearBody (s : State) (h : Header) (b : Body) (take : State → State) : State := s.hear (rawFrame h b) take

/-- The answer to a terminal's request (R10). -/
def State.answer (s : State) (h : Header) (k : Kind) (r : Result) (ref : Reference) : State :=
  s.within fun e z => Sys2Proof.Machine.answer e h.sender.toNat k r ref z

/-- A request decided by a block: its effect on the zone, then the answer (R10). -/
def State.decide (s : State) (h : Header) (k : Kind) (ref : Reference) (f : Env → Zone → Zone × Result) : State :=
  s.within fun e z =>
    let d := f e z
    Sys2Proof.Machine.answer e h.sender.toNat k d.2 ref d.1

end Sys2Proof.Machine
end

