-- ==== Sys2Proof/Machine/PeerFrames.lean ====
section
/-! DEFINITION. The commands of protocol-class frames: supply, hand-over, waste and lot alerts, with the clamps and
discards of R191. Each has the block's own taking of the frame and the command that hears it. -/

namespace Sys2Proof.Machine

/-! ### Supply frames (Chapter 5) -/

/-- ROLL CALL at the ST (R106): a call number 0 is discarded, quantities are clamped (R191); the urgency is not read. -/
def takeRollCall (h : Header) (call grade : Byte) (width : BitVec 16) (minLength : BitVec 24) (s : State) : State :=
  if call = 0 then s.countMalformed
  else s.within fun e z =>
    answerRollCall e h.sender.toNat call.toNat (clampGrade grade.toNat) (clampWidth width.toNat)
      (clampLength minLength.toNat) z

def execRollCall (h : Header) (call urgency grade : Byte) (width : BitVec 16) (minLength : BitVec 24) (s : State) :
    Host.Outcome State Fault Refusal :=
  .next (s.hearBody h (.rollCall call urgency grade width minLength) (takeRollCall h call grade width minLength))

/-- The offer that a ROLL OFFER makes, clamped (R191). -/
def offerOf (h : Header) (serial : Serial) (remaining : BitVec 24) (estimate : BitVec 16) (flags : Byte) : Offer :=
  ⟨h.sender.toNat, serial, clampLength remaining.toNat, clampEstimate estimate.toNat, flags.getLsbD 0⟩

/-- ROLL OFFER at the SA (R101). -/
def takeRollOffer (h : Header) (call : Byte) (serial : Serial) (remaining : BitVec 24) (estimate : BitVec 16)
    (flags : Byte) (s : State) : State :=
  if call = 0 then s.countMalformed
  else s.within fun _ z =>
    match callNumbered z call.toNat with
    | some c =>
      if c.state = .collecting ∨ c.state = .taking then
        setCall (c.takeOffer (offerOf h serial remaining estimate flags)) z
      else z
    | none => z

def execRollOffer (h : Header) (call : Byte) (serial : Serial) (remaining : BitVec 24) (estimate : BitVec 16)
    (flags : Byte) (s : State) : Host.Outcome State Fault Refusal :=
  .next (s.hearBody h (.rollOffer call serial remaining estimate flags)
    (takeRollOffer h call serial remaining estimate flags))

/-- Urgency by its code (R187). -/
def urgencyOf (b : Byte) : Option Urgency :=
  if b = 1 then some .runout else if b = 2 then some .routine else none

/-- ROLL TAKE at the ST (R107). -/
def takeRollTake (h : Header) (call : Byte) (serial : Serial) (urgency dock : Byte) (s : State) : State :=
  match urgencyOf urgency with
  | some u =>
    if call = 0 then s.countMalformed
    else s.within fun e z => takeRoll e h.sender.toNat call.toNat serial u dock.toNat z
  | none => s.countMalformed

def execRollTake (h : Header) (call : Byte) (serial : Serial) (urgency dock : Byte) (s : State) :
    Host.Outcome State Fault Refusal :=
  .next (s.hearBody h (.rollTake call serial urgency dock) (takeRollTake h call serial urgency dock))

/-- TAKE ANSWER at the SA (R104): result 1 CONFIRMED, 2 GONE. -/
def takeTakeAnswer (h : Header) (call : Byte) (serial : Serial) (result : Byte) (s : State) : State :=
  if call = 0 ∨ (result ≠ 1 ∧ result ≠ 2) then s.countMalformed
  else s.within fun e z => answerTaken e h.sender.toNat call.toNat serial (result = 1) z

def execTakeAnswer (h : Header) (call : Byte) (serial : Serial) (result : Byte) (s : State) :
    Host.Outcome State Fault Refusal :=
  .next (s.hearBody h (.takeAnswer call serial result) (takeTakeAnswer h call serial result))

/-- CALL WITHDRAW at the ST (R109). -/
def takeCallWithdraw (h : Header) (call : Byte) (s : State) : State :=
  if call = 0 then s.countMalformed
  else s.within fun e z => withdrawReservation e h.sender.toNat call.toNat z

def execCallWithdraw (h : Header) (call : Byte) (s : State) : Host.Outcome State Fault Refusal :=
  .next (s.hearBody h (.callWithdraw call) (takeCallWithdraw h call))

/-! ### Hand-over frames (Chapter 2) -/

/-- The purpose of a PASS OFFER; none where a field lies outside its list or names no station or call (R191, 11-2).
(DEDUCED, log entry 26.) -/
def purposeOf (v : PassVehicle) : Option Purpose :=
  match v.purpose.toNat with
  | 0 => some .none
  | 1 =>
    if stationOk v.field1.toNat ∧ v.field2 ≠ 0 then
      some (.ship v.field1.toNat v.field2.toNat v.field1.toNat v.field3.toNat)
    else none
  | 2 => if stationOk v.field1.toNat then some (.returnTo v.field1.toNat) else none
  | 3 => some .home
  | 4 => some (.fetch v.field1.toNat)
  | _ => none

/-- The roll record of a PASS OFFER, clamped; serial 0 is an unidentified entry (R49, R191). The outer none is a field
outside its list. (DEDUCED, log entry 26.) -/
def rollOf (r : PassRoll) : Option (Option Roll) :=
  match r.load.toNat with
  | 0 => some none
  | 1 =>
    (rollStateOf r.state.toNat).map fun _ =>
      some { serial := r.serial
             data := if r.serial = 0 then none
               else some ⟨clampGrade r.grade.toNat, clampWidth r.width.toNat, clampCaliper r.caliper.toNat,
                 clampLength r.remaining.toNat⟩
             state := .shipping, reservation := none, breaks := clampBreaks r.breaks.toNat, waste := r.waste.toNat,
             defect := r.defect ≠ 0 }
  | _ => none

/-- The offer that a PASS OFFER makes; none where it is to be discarded (R191). (DEDUCED, log entry 26.) -/
def passOfferOf (e : Env) (station claim : Nat) (v : PassVehicle) (r : PassRoll) : Option PassOffer :=
  match purposeOf v, rollOf r with
  | some p, some roll =>
    if vehicleOk v.number.toNat ∧ stationOk v.home.toNat then
      some { number := v.number.toNat, home := v.home.toNat, target := v.target.toNat, purpose := p, roll := roll,
             station := station, time := e.now, claim := claim }
    else none
  | _, _ => none

/-- A segment is a boundary entry for a station (R39). -/
def boundaryEntry (i : Image) (station k : Nat) : Bool := i.boundary.any fun b => b.station = station && b.segment = k

/-- An offer joins the deferred list and is answered PASS DEFER, or is ignored when the list is full (R39). -/
def deferOffer (e : Env) (o : PassOffer) (z : Zone) : Zone :=
  if z.track.deferred.length < Config.deferredLength then
    let z := nextClaim z
    offer e ⟨o.station, .passDefer (byte o.number) (byte o.target)⟩
      { z with track.deferred := z.track.deferred ++ [{ o with claim := z.track.claims }] }
  else z

/-- A PASS OFFER at the receiving zone (R39). -/
def receiveOffer (e : Env) (o : PassOffer) (z : Zone) : Zone :=
  if !boundaryEntry e.img o.station o.target then z
  else
    match findVehicle z o.number with
    | some (_, v) =>
      if v.state = .incoming ∧ v.offeredBy = some o.station ∧ v.current = some o.target then
        offer e ⟨o.station, .passAccept (byte o.number) (byte o.target)⟩ z
      else if z.track.deferred.any fun d => d.number = o.number then
        offer e ⟨o.station, .passDefer (byte o.number) (byte o.target)⟩ z
      else deferOffer e o z
    | none =>
      if z.track.deferred.any fun d => d.number = o.number then
        offer e ⟨o.station, .passDefer (byte o.number) (byte o.target)⟩ z
      else
        match freeVehicleSlot z with
        | some slot =>
          if segState z o.target = some .free ∧ (deferredFor z o.target).isNone then acceptOffer e slot o z
          else deferOffer e o z
        | none => deferOffer e o z

/-- PASS OFFER at the TC (R39, R191). -/
def takePassOffer (h : Header) (v : PassVehicle) (r : PassRoll) (s : State) : State :=
  match passOfferOf s.env h.sender.toNat 0 v r with
  | some o => s.within fun e z => receiveOffer e o z
  | none => s.countMalformed

def execPassOffer (h : Header) (v : PassVehicle) (r : PassRoll) (s : State) : Host.Outcome State Fault Refusal :=
  .next (s.hearBody h (.passOffer v r) (takePassOffer h v r))

/-- PASS ACCEPT at the sending zone (R36). -/
def acceptAnswered (e : Env) (station vehicle segment : Nat) (z : Zone) : Zone :=
  match answered z station vehicle segment with
  | some (slot, v) =>
    match v.handOver with
    | .offered | .timedOut | .deferred => passAccepted e slot v z
    | _ => z
  | none => z

/-- PASS ACCEPT at the TC (R36). -/
def takePassAccept (h : Header) (vehicle segment : Byte) (s : State) : State :=
  if !vehicleOk vehicle.toNat then s.countMalformed
  else s.within fun e z => acceptAnswered e h.sender.toNat vehicle.toNat segment.toNat z

def execPassAccept (h : Header) (vehicle segment : Byte) (s : State) : Host.Outcome State Fault Refusal :=
  .next (s.hearBody h (.passAccept vehicle segment) (takePassAccept h vehicle segment))

/-- PASS DEFER at the sending zone: DEFERRED and HELD; the repeats count from the last DEFER (R36). -/
def deferAnswered (e : Env) (station vehicle segment : Nat) (z : Zone) : Zone :=
  match answered z station vehicle segment with
  | some (slot, v) =>
    match v.handOver with
    | .offered | .timedOut =>
      modVehicle slot (fun v => { v with handOver := .deferred, handOverTime := e.now, state := .held,
                                         repeatAt := e.now + Config.passRepeat }) z
    | .deferred => modVehicle slot (fun v => { v with repeatAt := e.now + Config.passRepeat }) z
    | _ => z
  | none => z

/-- PASS DEFER at the TC (R36). -/
def takePassDefer (h : Header) (vehicle segment : Byte) (s : State) : State :=
  if !vehicleOk vehicle.toNat then s.countMalformed
  else s.within fun e z => deferAnswered e h.sender.toNat vehicle.toNat segment.toNat z

def execPassDefer (h : Header) (vehicle segment : Byte) (s : State) : Host.Outcome State Fault Refusal :=
  .next (s.hearBody h (.passDefer vehicle segment) (takePassDefer h vehicle segment))

/-- PASS DONE for a vehicle with status ACCEPTED (R36, R38). -/
def passDoneAnswered (e : Env) (station vehicle segment : Nat) (z : Zone) : Zone :=
  match answered z station vehicle segment with
  | some (slot, v) => if v.handOver = .accepted then deletePassed e slot v z else z
  | none => z

/-- PASS DONE at the TC (R38). -/
def takePassDone (h : Header) (vehicle segment : Byte) (s : State) : State :=
  if !vehicleOk vehicle.toNat then s.countMalformed
  else s.within fun e z => passDoneAnswered e h.sender.toNat vehicle.toNat segment.toNat z

def execPassDone (h : Header) (vehicle segment : Byte) (s : State) : Host.Outcome State Fault Refusal :=
  .next (s.hearBody h (.passDone vehicle segment) (takePassDone h vehicle segment))

/-! ### Waste and lot alerts (R67, R163) -/

/-- ROLL WASTE at the ST (R163). -/
def takeWaste (serial : Serial) (metres : BitVec 16) (s : State) : State :=
  s.within fun _ z => takeRollWaste serial metres.toNat z

def execRollWaste (h : Header) (serial : Serial) (metres : BitVec 16) (s : State) : Host.Outcome State Fault Refusal :=
  .next (s.hearBody h (.rollWaste serial metres) (takeWaste serial metres))

/-- LOT ALERT at the ST (R67); the alerting roll's serial is not read. -/
def takeLotAlert (h : Header) (lot : Serial) (s : State) : State :=
  s.within fun e z => addAlert e lot h.sender.toNat z

def execLotAlert (h : Header) (lot roll : Serial) (s : State) : Host.Outcome State Fault Refusal :=
  .next (s.hearBody h (.lotAlert lot roll) (takeLotAlert h lot))

end Sys2Proof.Machine
end

