-- ==== Sys2Proof/Machine/TerminalFrames.lean ====
section
/-! DEFINITION. The commands of terminal-class frames that a block decides and answers (R10): roll entry and removal,
operator orders, lane service, quarantine, segment release, SPLICE NOW, FAULT ACK, LOG CLEAR and REPORT REQUEST. Each
has the block's own taking of the frame and the command that hears it. -/

namespace Sys2Proof.Machine

/-! ### Places that orders name (R68, R69) -/

/-- An order names a place as its source or destination. (DESIGN CHOICE, log entry 30.) -/
def orderNames (e : Env) (z : Zone) (o : Order) (p : Place) : Bool :=
  o.req.source = p || sourcePlace e o = p || tablePlace z o (sourcePlace e o) = some p || o.req.dest = .place p ||
    o.target = some p || (o.target.bind (tablePlace z o)) = some p

/-- A place of the roll table in the zone make-up (R48, R68). (DESIGN CHOICE, log entry 30.) -/
def tableHas (e : Env) (p : Place) : Bool :=
  e.img.hasPlace p && (match p with
    | .dock _ => false
    | _ => true)

/-! ### ROLL ENTRY (R68) -/

/-- What ROLL ENTRY gives of a roll. -/
structure Entry where
  serial : Serial
  grade : Nat
  width : Nat
  caliper : Nat
  remaining : Nat
deriving DecidableEq, Repr

/-- The ranges of check 1; the caliper is clamped. -/
def Entry.inRange (n : Entry) : Bool :=
  n.serial ≠ 0 && 1 ≤ n.grade && n.grade ≤ 255 && 200 ≤ n.width && n.width ≤ 2600 && n.remaining ≤ 99999

def Entry.data (n : Entry) : RollData := ⟨n.grade, n.width, clampCaliper n.caliper, n.remaining⟩

/-- An unidentified entry takes the serial and attributes, and keeps its other fields (R49). -/
def Roll.identify (r : Roll) (n : Entry) : Roll := { r with serial := n.serial, data := some n.data }

/-- STOCK, or BUTT in a BUTT lane. -/
def laneRest (e : Env) (l : Nat) : RollState := if laneRole? e l = some .butt then .butt else .stock

/-- The alert of a defective entry that is identified (R176), before the request is answered; its context names a
reelstand only for an entry on an arm. (DESIGN CHOICE, log entry 75.) -/
def alertIdentified (e : Env) (old : Roll) (n : Entry) (reel : Option Nat) (z : Zone) : Zone :=
  if old.defect then identifiedAlert e n.serial reel old.breaks z else z

/-- LANE(l, p). -/
def enterLane (e : Env) (l p : Nat) (n : Entry) (z : Zone) : Zone × Result :=
  match rollAt z (.lane l p) with
  | some r =>
    if r.serial = 0 then
      (alertIdentified e r n none (setRoll (.lane l p) { r.identify n with state := laneRest e l } z), .done)
    else (z, .refusedState)
  | none =>
    if laneDetector e l p then
      (laneEntered e l (setRoll (.lane l p) ((unidentified (laneRest e l)).identify n) z), .done)
    else (z, .refusedState)

/-- An identification on a running arm reaches the runout engine, and the web path block when the roll is the RUNNING one
(R129, R157): a butt, or a roll placed there in SPLICE_FAILED, changes no mark. (DEDUCED, log entry 68.) -/
def tellIdentified (e : Env) (r : Nat) (x : Arm) (n : Entry) (z : Zone) : Zone :=
  let z := identifyRunning e r x n.serial n.data.caliper n.remaining z
  if runningArm z r = some x ∧ (rollAt z (.arm r x)).any (fun y => y.state = .running) then
    modWeb r (fun w => w.identified n.serial) z
  else z

/-- ARM(r, x). -/
def enterArm (e : Env) (r : Nat) (x : Arm) (n : Entry) (z : Zone) : Zone × Result :=
  match rollAt z (.arm r x) with
  | some y =>
    if y.serial = 0 then
      (alertIdentified e y n (some r) (tellIdentified e r x n (setRoll (.arm r x) (y.identify n) z)), .done)
    else (z, .refusedState)
  | none => (z, .refusedState)

/-- A vehicle may be given a load by ROLL ENTRY: empty, not PASSING or INCOMING, purpose NONE or HOME. -/
def mayBeLoaded (v : Vehicle) : Bool :=
  !v.loaded && v.state ≠ .passing && v.state ≠ .incoming && (v.purpose = .none || v.purpose = .home)

/-- VEHICLE(s). -/
def enterVehicle (e : Env) (slot : Nat) (n : Entry) (z : Zone) : Zone × Result :=
  match vehicle? z slot with
  | some v =>
    if mayBeLoaded v ∧ (rollAt z (.vehicle slot)).isNone then
      let z := setRoll (.vehicle slot) ((unidentified .shipping).identify n) z
      (setPurpose e slot (.returnTo e.own) (modVehicle slot (fun v => { v with loaded := true }) z), .done)
    else (z, .refusedState)
  | none => (z, .refusedState)

/-- CARRIAGE; a running order that moves the entry goes on under its serial. (DESIGN CHOICE, log entry 30.) -/
def enterCarriage (e : Env) (n : Entry) (z : Zone) : Zone × Result :=
  match rollAt z .carriage with
  | some r =>
    if r.serial = 0 then
      let z := setRoll .carriage (r.identify n) z
      let z := match runningOrder z with
        | some o => if o.serial = 0 then modOrder o.number (fun o => { o with serial := n.serial }) z else z
        | none => z
      (alertIdentified e r n none z, .done)
    else (z, .refusedState)
  | none => (z, .refusedState)

/-- ROLL ENTRY decided by the ST in the order of R68. -/
def rollEntered (e : Env) (c : PlaceCode) (n : Entry) (z : Zone) : Zone × Result :=
  match c.decode with
  | none => (z, .refusedRange)
  | some p =>
    if !tableHas e p || !n.inRange then (z, .refusedRange)
    else if (findSerial z n.serial).isSome || (runningOrder z).any (fun o => orderNames e z o p) then
      (z, .refusedState)
    else
      match p with
      | .lane l q => enterLane e l q n z
      | .arm r x => enterArm e r x n z
      | .vehicle slot => enterVehicle e slot n z
      | .carriage => enterCarriage e n z
      | .dock _ => (z, .refusedRange)

def takeRollEntry (h : Header) (place : PlaceCode) (serial : Serial) (grade : Byte) (width : BitVec 16)
    (caliper : Byte) (remaining : BitVec 24) (s : State) : State :=
  s.decide h .rollEntry (refPlace place serial) fun e z =>
    rollEntered e place ⟨serial, grade.toNat, width.toNat, caliper.toNat, remaining.toNat⟩ z

def execRollEntry (h : Header) (place : PlaceCode) (serial : Serial) (grade : Byte) (width : BitVec 16)
    (caliper : Byte) (remaining : BitVec 24) (s : State) : Host.Outcome State Fault Refusal :=
  .next (s.hearBody h (.rollEntry place serial grade width caliper remaining)
    (takeRollEntry h place serial grade width caliper remaining))

/-! ### ROLL REMOVE (R69) -/

/-- The record that ROLL REMOVE names, or why it names none. -/
inductive Named where
  | roll (p : Place) (r : Roll)
  | refused (r : Result)
deriving DecidableEq, Repr

def removeNamed (e : Env) (z : Zone) (serial : Serial) (c : PlaceCode) : Named :=
  if serial ≠ 0 then
    match findSerial z serial with
    | some (k, r) =>
      (match placeOfKey k with
       | some p => .roll p r
       | none => .refused .unknownRoll)
    | none => .refused .unknownRoll
  else
    match c.decode with
    | none => .refused .refusedRange
    | some p =>
      if !tableHas e p then .refused .refusedRange
      else
        match rollAt z p with
        | some r => if r.serial = 0 then .roll p r else .refused .unknownRoll
        | none => .refused .unknownRoll

/-- The removal is refused (R69). -/
def removeRefused (e : Env) (z : Zone) (p : Place) (r : Roll) : Bool :=
  r.state = .running || r.reservation.isSome || serialOrdered z r.serial ||
    (allOrders z).any (fun o => orderNames e z o p) || p = .carriage || armSplicing z p || onPassing z p.key

/-- The record is deleted, with what follows for its place (R69). (DESIGN CHOICE, log entry 30.) -/
def removeRoll (e : Env) (p : Place) (z : Zone) : Zone :=
  let z := eraseRoll p z
  match p with
  | .lane l _ => laneLeft e l z
  | .arm r x => recordLeft e r x z
  | .vehicle slot => setPurpose e slot .home (modVehicle slot (fun v => { v with loaded := false }) z)
  | _ => z

def rollRemoved (e : Env) (serial : Serial) (c : PlaceCode) (z : Zone) : Zone × Result :=
  match removeNamed e z serial c with
  | .refused r => (z, r)
  | .roll p r => if removeRefused e z p r then (z, .refusedState) else (removeRoll e p z, .done)

def takeRollRemove (h : Header) (serial : Serial) (place : PlaceCode) (s : State) : State :=
  s.decide h .rollRemove (refPlace place serial) (rollRemoved · serial place ·)

def execRollRemove (h : Header) (serial : Serial) (place : PlaceCode) (s : State) :
    Host.Outcome State Fault Refusal :=
  .next (s.hearBody h (.rollRemove serial place) (takeRollRemove h serial place))

/-! ### ORDER REQUEST (R77) -/

/-- A queue by its code (R187). -/
def queueOf (b : Byte) : Option Queue := if b = 1 then some .p else if b = 2 then some .o else none

/-- ORDER REQUEST with its fields decoded: the result and the order number given. -/
def orderAsked (e : Env) (queue : Byte) (serial : Serial) (source destination : PlaceCode) (z : Zone) :
    Zone × Result × Nat :=
  match queueOf queue, source.decode, destination.decode with
  | some q, some a, some b => orderRequested e q serial a b z
  | _, _, _ => (z, .refusedRange, 0)

def takeOrderRequest (h : Header) (queue : Byte) (serial : Serial) (source destination : PlaceCode) (s : State) :
    State :=
  s.within fun e z =>
    let d := orderAsked e queue serial source destination z
    answer e h.sender.toNat .orderRequest d.2.1 (refByte d.2.2) d.1

def execOrderRequest (h : Header) (queue : Byte) (serial : Serial) (source destination : PlaceCode) (s : State) :
    Host.Outcome State Fault Refusal :=
  .next (s.hearBody h (.orderRequest queue serial source destination)
    (takeOrderRequest h queue serial source destination))

/-! ### LANE SERVICE (R60) -/

/-- LANE SERVICE(out): an in-service lane leaves service with its mismatch flag clear and the orders that touch it fail;
its RESTOCK call is no longer needed and is withdrawn (R110). (DEDUCED, log entry 37.) -/
def laneTakenOut (e : Env) (l : Nat) (z : Zone) : Zone × Result :=
  match laneRec z l with
  | none => (z, .refusedRange)
  | some c =>
    if c.inService then
      let z := modLane l (fun c => { c with inService := false, mismatch := false }) z
      ((cancelForLane e l z).push (.withdrawCall (.restock l)), .done)
    else (z, .done)

/-- Step 2 and 3 of LANE SERVICE(in) for one position. -/
def comparePosition (e : Env) (l p : Nat) (z : Zone) : Zone :=
  match rollAt z (.lane l p), laneDetector e l p with
  | none, true => setRoll (.lane l p) (unidentified (laneRest e l)) z
  | some r, false =>
    raise e .mismatch [.lane l, .position p, .serial r.serial]
      (eraseRoll (.lane l p) (release (Place.lane l p).key z))
  | _, _ => z

/-- The five steps of LANE SERVICE(in) for a lane out of service. -/
def laneBroughtIn (e : Env) (l : Nat) (z : Zone) : Zone :=
  let z := modLane l (fun c => { c with overrun := false, underrun := false }) z
  let z := (upTo (lanePositions e l)).foldl (fun z p => comparePosition e l p z) z
  let z := if laneMode? e l = some .through then closeUp e l z else z
  (laneFound e l (modLane l (fun c => { c with inService := true }) z)).push .restock

/-- LANE SERVICE(in). -/
def laneServed (e : Env) (l : Nat) (z : Zone) : Zone × Result :=
  match laneRec z l with
  | none => (z, .refusedRange)
  | some c =>
    if c.inService then (modLane l (fun c => { c with overrun := false, underrun := false }) z, .done)
    else (laneBroughtIn e l z, .done)

def takeLaneOut (h : Header) (lane : Byte) (s : State) : State :=
  s.decide h .laneService (refByte lane.toNat) (laneTakenOut · lane.toNat ·)

def takeLaneIn (h : Header) (lane : Byte) (s : State) : State :=
  s.decide h .laneService (refByte lane.toNat) (laneServed · lane.toNat ·)

def execLaneServiceOut (h : Header) (lane : Byte) (s : State) : Host.Outcome State Fault Refusal :=
  .next (s.hearBody h (.laneService lane 1) (takeLaneOut h lane))

def execLaneServiceIn (h : Header) (lane : Byte) (s : State) : Host.Outcome State Fault Refusal :=
  .next (s.hearBody h (.laneService lane 2) (takeLaneIn h lane))

/-! ### Quarantine (R65, R66) -/

/-- QUARANTINE SET: the result and the slot written or asked for; base and limit are stored as given and read as whole lots
(R64). (DESIGN CHOICE, log entry 65.) -/
def quarantineWritten (slot : Nat) (base limit : Serial) (z : Zone) : Zone × Result × Nat :=
  if 4 < slot ∨ (lotFirst limit).toNat < (lotFirst base).toNat then (z, .refusedRange, slot)
  else if slot = 0 then
    match freeSlot z with
    | some k => (writeSlot k ⟨base, limit, .terminal⟩ z, .done, k)
    | none => (z, .refusedFull, slot)
  else if (z.stock.slots.get? slot).any (fun x => x.origin = .image) then (z, .refusedLocked, slot)
  else (writeSlot slot ⟨base, limit, .terminal⟩ z, .done, slot)

def takeQuarantineSet (h : Header) (slot : Byte) (base limit : Serial) (s : State) : State :=
  s.within fun e z =>
    let d := quarantineWritten slot.toNat base limit z
    answer e h.sender.toNat .quarantineSet d.2.1 (refByte d.2.2) d.1

def execQuarantineSet (h : Header) (slot : Byte) (base limit : Serial) (s : State) :
    Host.Outcome State Fault Refusal :=
  .next (s.hearBody h (.quarantineSet slot base limit) (takeQuarantineSet h slot base limit))

/-- QUARANTINE CLEAR (R66). -/
def quarantineCleared (slot : Nat) (z : Zone) : Zone × Result :=
  if slot = 0 ∨ 4 < slot then (z, .refusedRange)
  else
    match z.stock.slots.get? slot with
    | none => (z, .done)
    | some x =>
      if x.origin = .image then (z, .refusedLocked)
      else (({ z with stock.slots := z.stock.slots.erase slot } : Zone).push .restock, .done)

def takeQuarantineClear (h : Header) (slot : Byte) (s : State) : State :=
  s.decide h .quarantineClear (refByte slot.toNat) fun _ z => quarantineCleared slot.toNat z

def execQuarantineClear (h : Header) (slot : Byte) (s : State) : Host.Outcome State Fault Refusal :=
  .next (s.hearBody h (.quarantineClear slot) (takeQuarantineClear h slot))

/-! ### SEGMENT RELEASE and SPLICE NOW (R33, R145) -/

def takeSegmentRelease (h : Header) (segment : Byte) (s : State) : State :=
  s.decide h .segmentRelease (refByte segment.toNat) (segmentReleased · segment.toNat ·)

def execSegmentRelease (h : Header) (segment : Byte) (s : State) : Host.Outcome State Fault Refusal :=
  .next (s.hearBody h (.segmentRelease segment) (takeSegmentRelease h segment))

def takeSpliceNow (h : Header) (reelstand : Byte) (s : State) : State :=
  s.decide h .spliceNow (refByte reelstand.toNat) (spliceByHand · reelstand.toNat ·)

def execSpliceNow (h : Header) (reelstand : Byte) (s : State) : Host.Outcome State Fault Refusal :=
  .next (s.hearBody h (.spliceNow reelstand) (takeSpliceNow h reelstand))

/-! ### FAULT ACK and LOG CLEAR (R183, R173) -/

/-- Steps 1 and 2 of R183. (DEDUCED, log entry 44.) -/
def FaultRecord.acknowledged (level : Nat) : FaultRecord := { entries := [], lead := none, level := some level }

/-- FAULT ACK: the record is emptied, the level restored, then the halted carriage and the failed splices (R183). -/
def faultsAcknowledged (e : Env) (z : Zone) : Zone × Result :=
  (ackSplices e (endHalted e { z with faults := FaultRecord.acknowledged e.img.level }), .done)

def takeFaultAck (h : Header) (s : State) : State := s.decide h .faultAck 0 faultsAcknowledged

def execFaultAck (h : Header) (s : State) : Host.Outcome State Fault Refusal :=
  .next (s.hearBody h .faultAck (takeFaultAck h))

/-- The overrun and underrun flags of every lane clear (R57). -/
def clearLaneFlags (z : Zone) : Zone :=
  { z with stock.lanes := z.stock.lanes.map fun (l, c) => (l, { c with overrun := false, underrun := false }) }

def takeLogClear (h : Header) (s : State) : State :=
  ({ s with spoilage := s.spoilage.logCleared } : State).decide h .logClear 0 fun _ z => (clearLaneFlags z, .done)

def execLogClear (h : Header) (s : State) : Host.Outcome State Fault Refusal :=
  .next (s.hearBody h .logClear (takeLogClear h))

/-! ### REPORT REQUEST (R185) -/

/-- A REPORT REQUEST is answered by its page part, or REFUSED_RANGE. -/
def takeReportRequest (h : Header) (page index part : Byte) (s : State) : State :=
  s.within fun e z =>
    match zoneReport e s.spoilage z page.toNat index.toNat part.toNat with
    | some b => offer e ⟨h.sender.toNat, b⟩ z
    | none => answer e h.sender.toNat .reportRequest .refusedRange 0 z

def execReportRequest (h : Header) (page index part : Byte) (s : State) : Host.Outcome State Fault Refusal :=
  .next (s.hearBody h (.reportRequest page index part) (takeReportRequest h page index part))

end Sys2Proof.Machine
end

