-- ==== Sys2Proof/Machine/Restart.lean ====
section
/-! DEFINITION. PRESS STATE (R167, R171) and ZONE RESTART with the warm restart of every block (R19, R47, R71, R95,
R115, R133, R153, R166, R178, R186), and the taking of any accepted frame by its owning block (R9). -/

namespace Sys2Proof.Machine

/-! ### PRESS STATE (R167) -/

/-- RUN START at the SC. -/
def takeRunStart (run edition : BitVec 16) (s : State) : State :=
  { s with spoilage := s.spoilage.runStart run.toNat edition.toNat }

def execRunStart (h : Header) (run edition : BitVec 16) (s : State) : Host.Outcome State Fault Refusal :=
  .next (s.hearBody h (.pressState 1 run edition) (takeRunStart run edition))

/-- EDITION CHANGE at the SC. -/
def takeEditionChange (edition : BitVec 16) (s : State) : State :=
  { s with spoilage := s.spoilage.editionChange edition.toNat }

def execEditionChange (h : Header) (edition : BitVec 16) (s : State) : Host.Outcome State Fault Refusal :=
  .next (s.hearBody h (.pressState 2 0 edition) (takeEditionChange edition))

/-- RUN END at the SC: a run that closes has every RUNOUT call withdrawn (R110). -/
def takeRunEnd (s : State) : State :=
  if s.spoilage.condition.running then
    ({ s with spoilage := s.spoilage.runEnd } : State).within fun _ z => withdrawRunouts z
  else s

def execRunEnd (h : Header) (s : State) : Host.Outcome State Fault Refusal :=
  .next (s.hearBody h (.pressState 3 0 0) takeRunEnd)

/-! ### ZONE RESTART (R19) -/

/-- The carriage grips a roll: steps 4 to 6 of an order, or HALTED. -/
def carriageGrips (z : Zone) : Bool :=
  match z.transfer.carriage with
  | .halted _ => true
  | _ => (runningOrder z).any fun o => 4 ≤ o.step

/-- A warm restart is refused (R19). -/
def restartRefused (z : Zone) : Bool := (z.splice.stands.any fun s => s.2.state.splicing) || carriageGrips z

/-- The LI's queues are emptied; a frame past its sender byte is still sent to its end (R5). -/
def Line.restarted (l : Line) : Line :=
  { l with queue := [], waiting := [], heldFrames := [], sending := l.sending.map fun x => { x with queued := false } }

/-- The ST's flags clear and its watch stops (R71). -/
def Stock.restarted (t : Stock) : Stock :=
  { t with lanes := t.lanes.map fun (l, c) => (l, { c with overrun := false, underrun := false, mismatch := false })
           watch := [], disagreeing := [] }

/-- The SA keeps every call record with its state, offers and chosen offer (R115, Table 5-7-1). -/
def Supply.restarted (a : Supply) : Supply := { a with asked := [] }

/-- The zone at a warm restart: queues and lists emptied, permits off, orders cleared. -/
def Zone.restarted (z : Zone) : Zone :=
  let z := restartTransfer (restartTrack z)
  { z with line := z.line.restarted, stock := z.stock.restarted, supply := z.supply.restarted
           splice := { z.splice with watch := [] }, agenda := [] }

/-- The warm restart: JOINING is entered, and its answer waits for ACTIVE (R19). -/
def State.restart (s : State) (terminal : Nat) : State :=
  { s with loader := { s.loader with station := .joining, joinedAt := s.time, warm := true,
                                     restartAnswer := some terminal }
           zone := s.zone.restarted }

/-- ZONE RESTART at the SL (R19). -/
def takeZoneRestart (h : Header) (s : State) : State :=
  if restartRefused s.zone then
    s.within fun e z => answer e h.sender.toNat .zoneRestart .refusedState 0 z
  else s.restart h.sender.toNat

def execZoneRestart (h : Header) (s : State) : Host.Outcome State Fault Refusal :=
  .next (s.hearBody h .zoneRestart (takeZoneRestart h))

/-! ### Any accepted frame (R9) -/

/-- LANE SERVICE by its direction, 1 out and 2 in (R60, R187). (DEDUCED, log entry 45.) -/
def takeLaneService (h : Header) (lane direction : Byte) (s : State) : State :=
  if direction = 1 then takeLaneOut h lane s
  else if direction = 2 then takeLaneIn h lane s
  else s.within fun e z => answer e h.sender.toNat .laneService .refusedRange (refByte lane.toNat) z

/-- PRESS STATE by its sub-kind; any other is ignored (R190). (DEDUCED, log entry 45.) -/
def takePressState (subKind : Byte) (run edition : BitVec 16) (s : State) : State :=
  if subKind = 1 then takeRunStart run edition s
  else if subKind = 2 then takeEditionChange edition s
  else if subKind = 3 then takeRunEnd s
  else s

/-- The block that owns an accepted frame takes it (Table 1-4-1); report frames go no further (R8). -/
def takeBody (h : Header) (b : Body) (s : State) : State :=
  match b with
  | .rollCall c _ g w m => takeRollCall h c g w m s
  | .rollOffer c x m t f => takeRollOffer h c x m t f s
  | .rollTake c x u d => takeRollTake h c x u d s
  | .takeAnswer c x r => takeTakeAnswer h c x r s
  | .callWithdraw c => takeCallWithdraw h c s
  | .passOffer v r => takePassOffer h v r s
  | .passAccept v k => takePassAccept h v k s
  | .passDefer v k => takePassDefer h v k s
  | .passDone v k => takePassDone h v k s
  | .rollWaste x m => takeWaste x m s
  | .lotAlert l _ => takeLotAlert h l s
  | .rollEntry p x g w c m => takeRollEntry h p x g w c m s
  | .rollRemove x p => takeRollRemove h x p s
  | .orderRequest q x a b => takeOrderRequest h q x a b s
  | .laneService l d => takeLaneService h l d s
  | .quarantineSet k a b => takeQuarantineSet h k a b s
  | .quarantineClear k => takeQuarantineClear h k s
  | .segmentRelease k => takeSegmentRelease h k s
  | .spliceNow r => takeSpliceNow h r s
  | .faultAck => takeFaultAck h s
  | .logClear => takeLogClear h s
  | .reportRequest p i n => takeReportRequest h p i n s
  | .zoneRestart => takeZoneRestart h s
  | .pressState k r e => takePressState k r e s
  | .requestAnswer .. | .zoneReport .. | .faultReport .. => s

/-- The taking of a frame whose kind and length R8 has judged. -/
def takeRaw (f : RawFrame) (s : State) : State :=
  match (kindOf f.kind).bind fun k => decodeBody k f.body with
  | some b => takeBody ⟨f.sender, f.addressee⟩ b s
  | none => s

/-- Any frame that has passed the line check is heard. -/
def State.hearAny (s : State) (f : RawFrame) : State := s.hear f (takeRaw f)

end Sys2Proof.Machine
end

