-- ==== Sys2Proof/Machine/Startup.lean ====
section
/-! DEFINITION. The commands of power-on reset, the configuration image, the station states and the hall line itself
(R2, R3, R6, R7, R8, R11 to R20, R188), with what every block does on entering ACTIVE. -/

namespace Sys2Proof.Machine

/-! ### Power-on reset (R11, R20) -/

/-- RESET goes active: nothing is sent, received or driven until release (R20). (DESIGN CHOICE, log entry 1.)
(DEDUCED, log entry 10.) -/
def State.heldInReset (s : State) : State :=
  { s with loader := { s.loader with held := true }
           zone := { s.zone with line := { s.zone.line with sending := none, justSent := none } } }

def execResetHeldActive (s : State) : Host.Outcome State Fault Refusal := .next s.heldInReset

/-- The levels of the carriage's two inputs outlast a reset of the part (DESIGN CHOICE, log entry 2). -/
def Zone.keepCarriageInputs (z old : Zone) : Zone :=
  { z with transfer := { z.transfer with doneInput := old.transfer.doneInput, placeInput := old.transfer.placeInput } }

/-- RESET is released with the straps as read: START, or INERT at once for the values 0 and 31 (R11, R20).
(DESIGN CHOICE, log entry 1.) (DEDUCED, log entry 50.) -/
def State.released (s : State) (straps : BitVec 5) : State :=
  { State.reset with
      pending := s.pending
      inputs := s.inputs
      loader := { Loader.initial with number := straps.toNat
                                      station := if stationOk straps.toNat then .start else .inert }
      zone := Zone.initial.keepCarriageInputs s.zone }

def execPowerOnReset (straps : BitVec 5) (s : State) : Host.Outcome State Fault Refusal := .next (s.released straps)

/-! ### The configuration image (R12) -/

def numbered {α β : Type} (l : List α) (f : Nat → α → β) : Tbl β := l.zipIdx.map fun x => (x.2 + 1, f (x.2 + 1) x.1)

/-- The lane record of Table 3-2-1 after power-on reset. -/
def Lane.initial : Lane :=
  { inService := true, overrun := false, underrun := false, mismatch := false, full := false, empty := false }

/-- Every block gets its part of a good image at its power-on values (R12, R46, R70, R134, R165). -/
def Zone.forImage (i : Image) (z : Zone) : Zone :=
  let fresh := Zone.initial.keepCarriageInputs z
  { fresh with
      line := z.line
      track := { fresh.track with segments := numbered i.segments fun _ _ => ⟨.free, [], false⟩
                                  points := numbered i.points fun _ _ => 1 }
      stock := { fresh.stock with lanes := numbered i.lanes fun _ _ => Lane.initial
                                  slots := numbered i.locked fun _ x => ⟨x.1, x.2, .image⟩ }
      reels := numbered i.reels fun _ _ => ⟨Meas.initial, Meas.initial, 65535⟩
      splice := { fresh.splice with stands := numbered i.reels fun _ _ => Splice.initial }
      folder := { fresh.folder with webs := numbered i.reels fun _ _ => WebPath.initial }
      faults := { fresh.faults with level := some i.level } }

/-- A good image is distributed and the station enters JOINING (R12, R15); the web counters start (R117, R118). -/
def State.withImage (s : State) (i : Image) : State :=
  { s with loader := { s.loader with image := some i, station := .joining, joinedAt := s.time, warm := false }
           webs := numbered i.reels fun _ _ => ⟨0, 0, s.time, 0⟩
           zone := s.zone.forImage i }

/-- The SL's image check, made in START after a valid strap value (R12). -/
def State.imageChecked (s : State) (memory : List Byte) : State :=
  if s.isIn .start ∧ stationOk s.loader.number then
    match checkImage memory s.loader.number with
    | .good i => s.withImage i
    | .bad stage offset => s.enterInert .image (.number stage :: (offset.map CtxElem.number).toList)
  else s

def execImageCheck (memory : List Byte) (s : State) : Host.Outcome State Fault Refusal :=
  .next (s.imageChecked memory)

/-! ### INERT (R18) -/

/-- INERT reports again when its time has come. (DEDUCED, log entry 11.) -/
def State.inertReported (s : State) : State :=
  match s.loader.inertNext with
  | some t =>
    if s.isIn .inert ∧ reached s.time t then
      { s with loader := { s.loader with inertNext := some (t + Config.inertRepeat) }
               zone := offerInert s.loader.number s.zone }
    else s
  | none => s

def execInertReportRepeat (s : State) : Host.Outcome State Fault Refusal := .next s.inertReported

/-! ### Entering ACTIVE (R15) -/

/-- The LI opens its first line error period; the held frames leave their list to be offered (R5, R6). -/
def Line.activated (l : Line) (now : Time) : Line := { l with periodStart := now, periodErrors := 0, heldFrames := [] }

/-- The answer of R19 first, then the held frames in turn (R15). -/
def offerHeld (e : Env) (terminal : Option Nat) (held : List TxFrame) (z : Zone) : Zone :=
  let z := match terminal with
    | some t => answer e t .zoneRestart .done 0 z
    | none => z
  held.foldl (fun z f => offer e f z) z

/-- Every lane is read: unidentified entries where detectors show rolls, notices as found (R70). -/
def scanLane (e : Env) (l : Nat) (z : Zone) : Zone :=
  laneFound e l ((upTo (lanePositions e l)).foldl
    (fun z p => if laneDetector e l p then setRoll (.lane l p) (unidentified (laneRest e l)) z else z) z)

def scanLanes (e : Env) (z : Zone) : Zone := e.img.laneNumbers.foldl (fun z l => scanLane e l z) z

/-- The blocks after power-on reset find the zone from its inputs (R46, R70, R152). (DESIGN CHOICE, log entry 48.) -/
def startBlocks (e : Env) (z : Zone) : Zone := (scanReelstands e (scanLanes e (scanTrack e z))).push .restock

/-- The blocks after a warm restart: orders re-created before any other is accepted, the track and the arms read again,
calls withdrawn, peer reservations confirmed again (R47, R95, R115, R116, R153). (DESIGN CHOICE, log entry 48.) -/
def resumeBlocks (e : Env) (z : Zone) : Zone :=
  reconfirm e (withdrawAll e (recreateOrders e (resumeReelstands e (resumeTrack e z))))

/-- A call asked in JOINING is presented once, if its conditions still hold (R131). (DEDUCED, log entry 49.) -/
def presentAsked (e : Env) (n : Need) (z : Zone) : Zone :=
  match n with
  | .runout r => if runoutCallHolds e r z then z.push (.askCall n) else z
  | .restock _ => z.push (.askCall n)

def presentAll (e : Env) (z : Zone) : Zone :=
  z.supply.asked.foldl (fun z n => presentAsked e n z) { z with supply.asked := [] }

/-- What every block does on entering ACTIVE (R15). (DESIGN CHOICE, log entry 48.) -/
def activate (e : Env) (warm : Bool) (terminal : Option Nat) (alerts : List HeldAlert) (z : Zone) : Zone :=
  let held := z.line.heldFrames
  let z := offerHeld e terminal held { z with line := z.line.activated e.now }
  let z := { z with stock.restockAt := e.now + Config.restockPeriod }
  let z := if warm then resumeBlocks e z else startBlocks e z
  presentAll e (alerts.foldl (fun z a => sendAlert e a.serial z) z)

/-- ACTIVE is entered (R15). -/
def State.enterActive (s : State) : State :=
  let warm := s.loader.warm
  let terminal := s.loader.restartAnswer
  let alerts := s.spoilage.heldAlerts
  let s := { s with loader := { s.loader with station := .active, warm := false, restartAnswer := none }
                    spoilage := { s.spoilage with heldAlerts := [] } }
  s.onZone fun e z => activate e warm terminal alerts z

/-- The 10 ds of JOINING end (R15). -/
def State.joiningEnded (s : State) : State :=
  if s.isIn .joining ∧ reached s.time (s.loader.joinedAt + Config.joiningTime) then s.enterActive else s

def execJoiningEnd (s : State) : Host.Outcome State Fault Refusal := .next s.joiningEnded

/-! ### Line errors (R6, R188) -/

/-- A line error period ends and the next opens (R6). -/
def State.periodEnded (s : State) : State :=
  if s.isActive ∧ reached s.time (s.zone.line.periodStart + Config.errorPeriod) then
    s.modLine fun l => { l with periodStart := l.periodStart + Config.errorPeriod, periodErrors := 0 }
  else s

def execLineErrorPeriodEnd (s : State) : Host.Outcome State Fault Refusal := .next s.periodEnded

/-- A line error is counted; in ACTIVE it belongs to a period, whose 65th raises the fault (R6).
(DEDUCED, log entry 9.) -/
def State.countLineError (s : State) : State :=
  let s := s.modLine fun l => { l with lineErrors := bump16 l.lineErrors }
  if s.isActive then
    let s := s.modLine fun l => { l with periodErrors := l.periodErrors + 1 }
    if s.zone.line.periodErrors = Config.errorRate then s.onZone fun e z => raise e .errorRate [] z else s
  else s

/-- Bytes heard on the line, put to the line check (R6, R188). (DESIGN CHOICE, log entry 6.) (DEDUCED, log entry 9.)
(DEDUCED, log entry 10.) -/
def State.heardBytes (s : State) (heard : List HeardByte) : State :=
  if s.loader.held || s.zone.line.ignoring then s
  else
    match lineCheck heard with
    | .nothing => s
    | .badStart => (s.modLine fun l => { l with ignoring := true }).countLineError
    | .failed => s.countLineError
    | .frame f => s.hearAny f

def execLineError (heard : List HeardByte) (s : State) : Host.Outcome State Fault Refusal := .next (s.heardBytes heard)

/-- 12 bit times of quiet: the next byte heard is a start byte again (R188). (DEDUCED, log entry 10.) -/
def State.quietAgain (s : State) : State :=
  if s.loader.held then s else s.modLine fun l => { l with ignoring := false }

def execReceiveQuiet12Bits (s : State) : Host.Outcome State Fault Refusal := .next s.quietAgain

/-! ### Frames that go no further (R7, R8) -/

/-- A frame with the own number as sender (R7). -/
def execDuplicateStation (addressee kind : Byte) (body : List Byte) (s : State) : Host.Outcome State Fault Refusal :=
  .next (s.hearAny ⟨byte s.loader.number, addressee, kind, body⟩)

/-- Any frame that passes the line check, judged by R7 and R8. -/
def execFrameDiscard (f : RawFrame) (s : State) : Host.Outcome State Fault Refusal := .next (s.hearAny f)

/-! ### Sending (R2, R3, R5) -/

/-- The gap of a frame's class in bit times (R2). (DESIGN CHOICE, log entry 6.) -/
def gapOf (f : TxFrame) : Nat := if f.isProtocol then 16 else 24

/-- The head of the queue may start: the station sends, nothing is being sent, the gap has run (R2). -/
def State.mayStart (s : State) (quiet : Nat) (f : TxFrame) : Bool :=
  (s.isIn .active || s.isIn .inert) && s.zone.line.sending.isNone && gapOf f ≤ quiet

/-- The LI starts the head frame; it has the line when the sender byte reads back as driven (R3).
(DESIGN CHOICE, log entry 6.) (DESIGN CHOICE, log entry 51.) -/
def State.transmitStarted (s : State) (quiet : Nat) (readBack : Byte) : State :=
  match s.zone.line.queue with
  | [] => s
  | f :: _ =>
    if s.mayStart quiet f ∧ readBack = byte s.loader.number then
      s.modLine fun l => { l with sending := some ⟨f, true⟩ }
    else s

def execTransmitStart (quiet : Nat) (readBack : Byte) (s : State) : Host.Outcome State Fault Refusal :=
  .next (s.transmitStarted quiet readBack)

/-- The CRC of a frame has gone out: the line hears it next, and its entry is free (R3, R7). (DEDUCED, log entry 7.) -/
def Line.sent (l : Line) (x : Sending) : Line :=
  { l with sending := none, justSent := some x.frame, queue := if x.queued then l.queue.tail else l.queue }

/-- FRAME_SENT: the freed entry goes to the first waiting frame (R3, R5). (DESIGN CHOICE, log entry 6.) -/
def State.frameSent (s : State) : State :=
  match s.zone.line.sending with
  | none => s
  | some x =>
    if s.loader.held then s
    else (s.modLine fun l => l.sent x).onZone fun e z => promoteWaiting e z

def execFrameSent (s : State) : Host.Outcome State Fault Refusal := .next s.frameSent

end Sys2Proof.Machine
end

