-- ==== Sys2Proof/Machine/TrackEvents.lean ====
section
/-! DEFINITION. The commands of the track: tag reads, clearings, at-dock inputs and the hand-over times (Chapter 2). An
input line is followed in every station state; the TC acts on it in ACTIVE only (R16, DESIGN CHOICE, log entry 2). -/

namespace Sys2Proof.Machine

/-- An event that a block acts on in ACTIVE only (R16). (DEDUCED, log entry 21.) -/
def State.whenActive (s : State) (f : Env → Zone → Zone) : State := if s.isActive then s.onZone f else s

/-! ### Occupancy and tags (R28, R29, R31, R32, R41) -/

/-- A segment's occupancy input goes active with a tag. (DESIGN CHOICE, log entry 2.) -/
def State.tagRead (s : State) (segment : Nat) (tag : BitVec 6) : State :=
  let was := s.inputs.occupancy.has segment
  let s := s.modInputs fun i => { i with occupancy := i.occupancy.set segment tag.toNat }
  if was then s else s.whenActive fun e z => readTag e segment tag.toNat z

def execTagRead (segment : Nat) (tag : BitVec 6) (s : State) : Host.Outcome State Fault Refusal :=
  .next (s.tagRead segment tag)

/-- A segment's occupancy input clears. -/
def State.occupancyCleared (s : State) (segment : Nat) : State :=
  let was := s.inputs.occupancy.has segment
  let s := s.modInputs fun i => { i with occupancy := i.occupancy.erase segment }
  if was then s.whenActive fun e z => clearSegment e segment z else s

def execOccupancyClear (segment : Nat) (s : State) : Host.Outcome State Fault Refusal :=
  .next (s.occupancyCleared segment)

/-! ### At-dock inputs (R30) -/

/-- The slots of the vehicles that stand on a dock's segment with an empty route. -/
def atDockSlots (e : Env) (z : Zone) (d : Nat) : List Nat :=
  (z.track.vehicles.filter fun v =>
    v.2.route.isEmpty && (dockSegment e.img d).isSome && v.2.current = dockSegment e.img d).map (·.1)

/-- The vehicle that waited for this dock is docked or parked; several in slot order. (DESIGN CHOICE, log entry 77.) -/
def dockRises (e : Env) (d : Nat) (z : Zone) : Zone := (atDockSlots e z d).foldl (fun z slot => proceed e slot z) z

/-- The vehicle DOCKED at this dock becomes HELD, and so does each of several. (DESIGN CHOICE, log entry 77.) -/
def dockFalls (e : Env) (d : Nat) (z : Zone) : Zone :=
  { z with track.vehicles := z.track.vehicles.map fun (k, v) =>
      (k, if v.state = .docked ∧ goalOf e v = .dock d then { v with state := .held } else v) }

def State.dockRose (s : State) (dock : Nat) : State :=
  let was := s.inputs.atDock.pin dock
  let s := s.modInputs fun i => { i with atDock := i.atDock.set dock true }
  if was then s else s.whenActive fun e z => dockRises e dock z

def execAtDockRise (dock : Nat) (s : State) : Host.Outcome State Fault Refusal := .next (s.dockRose dock)

def State.dockFell (s : State) (dock : Nat) : State :=
  let was := s.inputs.atDock.pin dock
  let s := s.modInputs fun i => { i with atDock := i.atDock.erase dock }
  if was then s.whenActive fun e z => dockFalls e dock z else s

def execAtDockFall (dock : Nat) (s : State) : Host.Outcome State Fault Refusal := .next (s.dockFell dock)

/-! ### Hand-over times (R36, R37, R38) -/

/-- The station that a vehicle has been offered to, as a context element. -/
def offeredStation (v : Vehicle) : List CtxElem := (v.offeredTo.map fun o => CtxElem.station o.1).toList

/-- 20 ds have passed since the offer with the status still OFFERED (R37). -/
def answerOverdue (e : Env) (v : Vehicle) : Bool :=
  v.handOver = .offered && reached e.now (v.handOverTime + Config.passAnswer)

/-- The vehicle is STRANDED and its status TIMED_OUT (R37). (DESIGN CHOICE, log entry 14.) -/
def answerTimedOut (e : Env) (vehicle : Nat) (z : Zone) : Zone :=
  match findVehicle z vehicle with
  | some (slot, v) =>
    if answerOverdue e v then
      let z := modVehicle slot (fun v => { v with handOver := .timedOut, handOverTime := e.now }) (strand e slot z)
      raise e .stranded (.vehicle vehicle :: currentSegment v ++ offeredStation v) z
    else z
  | none => z

def execPassAnswerTimeout (vehicle : Nat) (s : State) : Host.Outcome State Fault Refusal :=
  .next (s.whenActive fun e z => answerTimedOut e vehicle z)

/-- The repeat of a deferred offer, 300 ds after the last DEFER or repeat (R36). (DESIGN CHOICE, log entry 14.) -/
def offerRepeated (e : Env) (vehicle : Nat) (z : Zone) : Zone :=
  match findVehicle z vehicle with
  | some (slot, v) =>
    if v.handOver = .deferred ∧ reached e.now v.repeatAt then
      sendPassOffer e slot (modVehicle slot (fun v => { v with repeatAt := v.repeatAt + Config.passRepeat }) z)
    else z
  | none => z

def execPassOfferRepeat (vehicle : Nat) (s : State) : Host.Outcome State Fault Refusal :=
  .next (s.whenActive fun e z => offerRepeated e vehicle z)

/-- 100 ds have passed since the permit without PASS DONE, not raised yet (R38). -/
def doneOverdue (e : Env) (v : Vehicle) : Bool :=
  v.handOver = .accepted && v.state = .passing && !v.unconfirmed &&
    reached e.now (v.handOverTime + Config.passConfirm)

/-- The pass unconfirmed fault, once for a hand-over (R38). -/
def passOverdue (e : Env) (vehicle : Nat) (z : Zone) : Zone :=
  match findVehicle z vehicle with
  | some (slot, v) =>
    if doneOverdue e v then
      raise e .passUnconfirmed (.vehicle vehicle :: currentSegment v)
        (modVehicle slot (fun v => { v with unconfirmed := true }) z)
    else z
  | none => z

def execPassUnconfirmed (vehicle : Nat) (s : State) : Host.Outcome State Fault Refusal :=
  .next (s.whenActive fun e z => passOverdue e vehicle z)

end Sys2Proof.Machine
end

