-- ==== Sys2Proof/Machine/YardEvents.lean ====
section
/-! DEFINITION. The commands of lane detectors and the restock period, of the carriage with its limits, and of the call
times (Chapters 3, 4 and 5). -/

namespace Sys2Proof.Machine

/-! ### Lane detectors (R59, R63) -/

/-- A lane position detector takes a level; held orders and storage choices are looked at again as the event ends. -/
def State.laneDetectorChanged (s : State) (lane position : Nat) (active : Bool) : State :=
  (s.modInputs fun i => { i with lanes := i.lanes.set (Place.lane lane position).key active }).whenActive fun _ z => z

def execLaneDetectorChange (lane position : Nat) (active : Bool) (s : State) : Host.Outcome State Fault Refusal :=
  .next (s.laneDetectorChanged lane position active)

/-- A position has disagreed for 50 ds and is not yet a disagreeing position (R59). -/
def disagreeDue (e : Env) (z : Zone) (key : Nat) : Bool :=
  (z.stock.watch.get? key).any (fun t => reached e.now (t + Config.disagreeTime)) && !z.stock.disagreeing.has key

/-- A position comes to disagree: the mismatch flag and one occurrence (R59). -/
def positionDisagreed (e : Env) (lane position : Nat) (z : Zone) : Zone :=
  let key := (Place.lane lane position).key
  if disagreeDue e z key then
    let z := { z with stock.disagreeing := z.stock.disagreeing.set key () }
    raise e .mismatch
      [.lane lane, .position position, .serial (((rollAt z (.lane lane position)).map Roll.serial).getD 0)]
      (modLane lane (fun c => { c with mismatch := true }) z)
  else z

def execLaneDisagreeTimeout (lane position : Nat) (s : State) : Host.Outcome State Fault Refusal :=
  .next (s.whenActive fun e z => positionDisagreed e lane position z)

/-- The periodic restock check (R63). -/
def restockPeriod (e : Env) (z : Zone) : Zone :=
  if reached e.now z.stock.restockAt then
    restockCheck e { z with stock.restockAt := z.stock.restockAt + Config.restockPeriod }
  else z

def execRestockPeriod (s : State) : Host.Outcome State Fault Refusal := .next (s.whenActive restockPeriod)

/-! ### The carriage (R72, R79, R82, R85, R89, R90) -/

/-- Carriage-done goes active with the carriage place input as it then reads (4-1); a rise completes the motion step that
is in progress (R72). (DEDUCED, log entry 27.) -/
def State.carriageRose (s : State) (place : Option Place) : State :=
  let was := s.zone.transfer.doneInput
  let s := { s with zone := { s.zone with transfer := { s.zone.transfer with doneInput := true, placeInput := place } } }
  if was then s else s.whenActive carriageDone

/-- Carriage-done at the end of a TRAVEL (R79). (DEDUCED, log entry 27.) -/
def execTravelComplete (place : Option Place) (s : State) : Host.Outcome State Fault Refusal :=
  .next (s.carriageRose place)

/-- Carriage-done at the end of a PICK (R82). (DEDUCED, log entry 27.) -/
def execPickComplete (place : Option Place) (s : State) : Host.Outcome State Fault Refusal :=
  .next (s.carriageRose place)

/-- Carriage-done at the end of a SET (R85). -/
def execSetComplete (place : Option Place) (s : State) : Host.Outcome State Fault Refusal :=
  .next (s.carriageRose place)

/-- The steps of a motion: TRAVEL, PICK, TRAVEL and SET (R79). -/
def motionStep (step : Nat) : Bool := step = 1 || step = 3 || step = 4 || step = 6

/-- The steps of a WAIT (R79). -/
def waitStep (step : Nat) : Bool := step = 2 || step = 5

/-- The step limit of the running order (R79, R89, R90). -/
def stepLimitDue (e : Env) (z : Zone) : Zone :=
  match runningOrder z with
  | some o =>
    if motionStep o.step ∧ reached e.now (o.stepStart + Config.stepLimit) then
      limitExpired e o .stepLimit .stepLimit Config.stepLimit z
    else z
  | none => z

def execStepLimitExpiry (s : State) : Host.Outcome State Fault Refusal := .next (s.whenActive stepLimitDue)

/-- The hold limit of the running order (R79, R89, R90). -/
def holdLimitDue (e : Env) (z : Zone) : Zone :=
  match runningOrder z with
  | some o =>
    if waitStep o.step ∧ reached e.now (o.stepStart + Config.holdLimit) then
      limitExpired e o .holdLimit .holdLimit Config.holdLimit z
    else z
  | none => z

def execHoldLimitExpiry (s : State) : Host.Outcome State Fault Refusal := .next (s.whenActive holdLimitDue)

/-! ### Call times (R102, R103, R105, R112) -/

/-- A time of a call that has come. -/
def due (e : Env) (start : Option Time) (after : Time) : Bool := start.any fun t => reached e.now (t + after)

/-- The offer window of a COLLECTING call ends (R102). -/
def windowEnded (e : Env) (call : Nat) (z : Zone) : Zone :=
  match callNumbered z call with
  | some c => if c.state = .collecting ∧ due e c.windowStart Config.offerWindow then takeBest e c z else z
  | none => z

def execOfferWindowEnd (call : Nat) (s : State) : Host.Outcome State Fault Refusal :=
  .next (s.whenActive fun e z => windowEnded e call z)

/-- A ROLL TAKE has had no answer for 10 ds (R103). -/
def takeTimedOut (e : Env) (call : Nat) (z : Zone) : Zone :=
  match callNumbered z call with
  | some c => if c.state = .taking ∧ due e c.takeTime Config.takeAnswer then dropChosen e c z else z
  | none => z

def execTakeAnswerTimeout (call : Nat) (s : State) : Host.Outcome State Fault Refusal :=
  .next (s.whenActive fun e z => takeTimedOut e call z)

/-- The re-issue time of a NO_STOCK call (R105). -/
def reissueDue (e : Env) (call : Nat) (z : Zone) : Zone :=
  match callNumbered z call with
  | some c => if c.state = .noStock ∧ due e c.reissueAt 0 then reissueOrFree e c z else z
  | none => z

def execReissueTime (call : Nat) (s : State) : Host.Outcome State Fault Refusal :=
  .next (s.whenActive fun e z => reissueDue e call z)

/-- A docked vehicle's second unloading order (R112). -/
def retryDue (e : Env) (vehicle : Nat) (z : Zone) : Zone :=
  if due e (z.supply.retries.get? vehicle) 0 then
    ({ z with supply.retries := z.supply.retries.erase vehicle } : Zone).push (.unload vehicle)
  else z

def execUnloadRetry (vehicle : Nat) (s : State) : Host.Outcome State Fault Refusal :=
  .next (s.whenActive fun e z => retryDue e vehicle z)

end Sys2Proof.Machine
end

