-- ==== Sys2Proof/Machine/ReelEvents.lean ====
section
/-! DEFINITION. The commands of the reelstands: arm inputs, encoders and gates, revolution points, the splice inputs and
timers (Chapters 6 and 7). Measuring events act in JOINING and in ACTIVE, the others in ACTIVE only (R16). -/

namespace Sys2Proof.Machine

/-- An event that a block measures or counts, in JOINING as in ACTIVE (R16). -/
def State.whenMeasuring (s : State) (f : Env → Zone → Zone) : State := if s.measures then s.onZone f else s

/-! ### Level inputs -/

/-- Change the level inputs of a reelstand. -/
def State.modReelIns (s : State) (r : Nat) (f : ReelIns → ReelIns) : State :=
  s.modInputs fun i => { i with reels := i.reels.set r (f ((i.reels.get? r).getD ReelIns.idle)) }

/-- The level inputs of a reelstand. -/
def State.reelIns (s : State) (r : Nat) : ReelIns := (s.inputs.reels.get? r).getD ReelIns.idle

def ReelIns.setOpen (i : ReelIns) (x : Arm) (active : Bool) : ReelIns :=
  match x with
  | .a => { i with openA := active }
  | .b => { i with openB := active }

def ReelIns.setPresent (i : ReelIns) (x : Arm) (active : Bool) : ReelIns :=
  match x with
  | .a => { i with presentA := active }
  | .b => { i with presentB := active }

/-- ARM_OPEN_CHANGE: triggers and held orders are looked at as the event ends (R78, R135). -/
def execArmOpenChange (r : Nat) (x : Arm) (active : Bool) (s : State) : Host.Outcome State Fault Refusal :=
  .next ((s.modReelIns r (·.setOpen x active)).whenActive fun _ z => z)

/-- ROLL_PRESENT_CHANGE: the arm's watch starts or ends as the event ends (R138). -/
def execRollPresentChange (r : Nat) (x : Arm) (active : Bool) (s : State) : Host.Outcome State Fault Refusal :=
  .next ((s.modReelIns r (·.setPresent x active)).whenActive fun _ z => z)

/-- An arm has disagreed for 50 ds: the table is brought into line with its detector (R138). -/
def armDisagreed (e : Env) (r : Nat) (x : Arm) (z : Zone) : Zone :=
  if (z.splice.watch.get? (Place.arm r x).key).any fun t => reached e.now (t + Config.disagreeTime) then
    let z := { z with splice.watch := z.splice.watch.erase (Place.arm r x).key }
    if rollPresent e r x then
      (if (rollAt z (.arm r x)).isNone then armFound e r x z else z)
    else if (rollAt z (.arm r x)).isSome then armLost e r x z
    else z
  else z

def execArmDisagreeTimeout (r : Nat) (x : Arm) (s : State) : Host.Outcome State Fault Refusal :=
  .next (s.whenActive fun e z => armDisagreed e r x z)

/-! ### The web encoder, its gates and the revolution points (R117, R118, R121, R127) -/

/-- One pulse of the encoder on the web counter and the running gate. -/
def Web.pulse (w : Web) : Web := { w with counter := w.counter + 1, gatePulses := w.gatePulses + 1 }

/-- A missing-index point that has become due is served before the pulse (DESIGN CHOICE, log entry 20). -/
def State.encoderPulsed (s : State) (r : Nat) : State :=
  if s.measures then
    let s := s.onZone fun e z => serveMissingIndex e r z
    ({ s with webs := s.webs.modify r Web.pulse } : State).onZone fun _ z => feedRunning r z
  else s

def execEncoderPulse (r : Nat) (s : State) : Host.Outcome State Fault Refusal := .next (s.encoderPulsed r)

def execMissingIndexPoint (r : Nat) (s : State) : Host.Outcome State Fault Refusal :=
  .next (s.whenMeasuring fun e z => serveMissingIndex e r z)

/-- A gate ends: the speed is set from its pulses and the next gate begins (R118). -/
def Web.gateEnd (w : Web) : Web :=
  { w with speed := min 20000 (w.gatePulses * 10), gatePulses := 0, gateStart := w.gateStart + 1 }

/-- The gate of a reelstand is due to end. -/
def gateDue (s : State) (r : Nat) : Bool :=
  s.measures && (s.webs.get? r).any fun w => reached s.time (w.gateStart + 1)

/-- At a gate end T is recomputed, and the acceleration and runout call conditions are evaluated (R118, R130, R131). -/
def State.gateEnded (s : State) (r : Nat) : State :=
  if gateDue s r then
    ({ s with webs := s.webs.modify r Web.gateEnd } : State).onZone fun e z => recomputeTime e r false z
  else s

def execSpeedGateEnd (r : Nat) (s : State) : Host.Outcome State Fault Refusal := .next (s.gateEnded r)

def execRevolutionIndex (r : Nat) (x : Arm) (s : State) : Host.Outcome State Fault Refusal :=
  .next (s.whenMeasuring fun e z => revolutionIndexed e r x z)

/-! ### Splice inputs and timers (R139 to R143) -/

def State.standbyReadyTaken (s : State) (r : Nat) (active : Bool) : State :=
  let was := (s.reelIns r).standbyReady
  let s := s.modReelIns r fun i => { i with standbyReady := active }
  if was = active then s else s.whenActive fun e z => standbyReadyChanged e r active z

def execStandbyReadyChange (r : Nat) (active : Bool) (s : State) : Host.Outcome State Fault Refusal :=
  .next (s.standbyReadyTaken r active)

def State.speedMatchedTaken (s : State) (r : Nat) (active : Bool) : State :=
  let was := (s.reelIns r).speedMatched
  let s := s.modReelIns r fun i => { i with speedMatched := active }
  if was = active then s else s.whenActive fun e z => speedMatchedChanged e r active z

def execSpeedMatchedChange (r : Nat) (active : Bool) (s : State) : Host.Outcome State Fault Refusal :=
  .next (s.speedMatchedTaken r active)

/-- A timer of a splice record that has expired in the state it belongs to. -/
def timerDue (e : Env) (z : Zone) (r : Nat) (st : SpliceState) (timer : Splice → Option Time) : Bool :=
  (splice? z r).any fun s => s.state = st && (timer s).any fun t => reached e.now t

/-- The match timer expires (R141). -/
def matchTimedOut (e : Env) (r : Nat) (z : Zone) : Zone :=
  if timerDue e z r .accelerating Splice.matchTimer then matchExpired e r z else z

def execMatchTimeout (r : Nat) (s : State) : Host.Outcome State Fault Refusal :=
  .next (s.whenActive fun e z => matchTimedOut e r z)

def execPasteDone (r : Nat) (s : State) : Host.Outcome State Fault Refusal :=
  .next (s.whenActive fun e z => pasteMade e r z)

/-- The paste timer expires in PASTING (R142). -/
def pasteTimedOut (e : Env) (r : Nat) (z : Zone) : Zone :=
  if timerDue e z r .pasting Splice.pasteTimer then enterFailed e r .missedPaste .pasteTimer z else z

def execPasteTimeout (r : Nat) (s : State) : Host.Outcome State Fault Refusal :=
  .next (s.whenActive fun e z => pasteTimedOut e r z)

/-- 10 ds after paste done with no running index the knife fires (R143). -/
def knifeFallbackDue (e : Env) (r : Nat) (z : Zone) : Zone :=
  if timerDue e z r .cutting (fun s => s.knifeArmed.map (· + Config.knifeFallback)) then fireKnife e r z else z

def execKnifeFallback (r : Nat) (s : State) : Host.Outcome State Fault Refusal :=
  .next (s.whenActive fun e z => knifeFallbackDue e r z)

def execKnifeDone (r : Nat) (s : State) : Host.Outcome State Fault Refusal :=
  .next (s.whenActive fun e z => knifeMade e r z)

/-- The knife timer expires in CUTTING (R143). -/
def knifeTimedOut (e : Env) (r : Nat) (z : Zone) : Zone :=
  if timerDue e z r .cutting Splice.knifeTimer then enterFailed e r .missedKnife .knifeTimer z else z

def execKnifeTimeout (r : Nat) (s : State) : Host.Outcome State Fault Refusal :=
  .next (s.whenActive fun e z => knifeTimedOut e r z)

end Sys2Proof.Machine
end

