-- ==== Sys2Proof/Machine/PressEvents.lean ====
section
/-! DEFINITION. The commands of the press: web breaks, the waste gate, folder copy pulses and rate windows (Chapters 7, 8
and 9). They are taken in JOINING as in ACTIVE; the splice states move in ACTIVE only (R16). -/

namespace Sys2Proof.Machine

/-! ### Web breaks (R146, R168, R175, R176) -/

/-- The break is passed to the SC: the press condition, the break count, and an alert held in JOINING. -/
def State.breakPassed (s : State) (r : Nat) : State :=
  let d := countBreak s.env r s.zone
  { s with spoilage :=
      { s.spoilage.webBroke s.env.img r with
          heldAlerts := s.spoilage.heldAlerts ++ (d.2.map HeldAlert.mk).toList }
           zone := d.1 }

/-- A web break input becomes active: the SC first, then the splice states (R146). -/
def State.webBreakTaken (s : State) (r : Nat) : State :=
  let was := (s.reelIns r).webBreak
  let s := s.modReelIns r fun i => { i with webBreak := true }
  if was || !s.measures || (s.loader.image.bind (·.reel? r)).isNone then s
  else
    let s := s.breakPassed r
    if s.isActive then s.onZone fun e z => webBroken e r z else s

def execWebBreak (r : Nat) (s : State) : Host.Outcome State Fault Refusal := .next (s.webBreakTaken r)

/-- A web break input goes inactive: the press condition (R168), and the acceleration conditions (R140).
(DEDUCED, log entry 40.) -/
def State.webBreakCleared (s : State) (r : Nat) : State :=
  let was := (s.reelIns r).webBreak
  let s := s.modReelIns r fun i => { i with webBreak := false }
  if !was || !s.measures || (s.loader.image.bind (·.reel? r)).isNone then s
  else
    let s := if webInUse s.env.img r then { s with spoilage := s.spoilage.breakCleared s.env } else s
    s.whenActive fun e z => evalSplice e r z

def execWebBreakClear (r : Nat) (s : State) : Host.Outcome State Fault Refusal := .next (s.webBreakCleared r)

/-! ### The waste gate (R168) -/

/-- The zone has a press: reelstands in its make-up (R13). (DEDUCED, log entry 42.) -/
def State.hasPress (s : State) : Bool := s.loader.image.any fun i => i.reels ≠ []

/-- The waste gate takes a level; its change to good moves the press condition. (DEDUCED, log entry 42.) -/
def State.gateChanged (s : State) (waste : Bool) : State :=
  let was := s.inputs.wasteGate
  let s := s.modInputs fun i => { i with wasteGate := waste }
  if was && !waste && s.measures && s.hasPress then { s with spoilage := s.spoilage.gateGood s.env } else s

def execWasteGateChange (waste : Bool) (s : State) : Host.Outcome State Fault Refusal := .next (s.gateChanged waste)

/-! ### Copies (R158, R174) -/

/-- A folder copy pulse at the WF and the SC, taken as one event (R158). (DESIGN CHOICE, log entry 29.)
(DEDUCED, log entry 42.) -/
def State.copyTaken (s : State) : State :=
  if s.measures && s.hasPress then
    let d := copyPulse s.env s.spoilage s.zone
    ({ s with spoilage := d.1, zone := d.2 } : State).settled
  else s

def execFolderCopyPulse (s : State) : Host.Outcome State Fault Refusal := .next s.copyTaken

/-- A rate window of W copies ends (R174). The copy that fills a window ends it in its own event, so that this command
finds a full window only where that copy has not. (DESIGN CHOICE, log entry 29.) (DEDUCED, log entry 42.) -/
def State.rateWindowEnded (s : State) : State :=
  if s.measures && s.hasPress && windowDue s.env.img s.spoilage then
    ({ s with spoilage := s.spoilage.endWindow s.env.img
              zone := raiseRateHigh s.env s.spoilage s.zone } : State).settled
  else s

def execRateWindowEnd (s : State) : Host.Outcome State Fault Refusal := .next s.rateWindowEnded

end Sys2Proof.Machine
end

