-- ==== Sys2Proof/Machine/Dispatch.lean ====
section
/-! DEFINITION. The meaning of every command: one arm for each row of the opcode table, in the table's order. -/

namespace Sys2Proof.Machine

def exec (i : Instr) (s : State) : Host.Outcome State Fault Refusal :=
  match i with
  | .powerOnReset straps => Sys2Proof.Machine.execPowerOnReset straps s
  | .imageCheck memory => Sys2Proof.Machine.execImageCheck memory s
  | .inertReportRepeat => Sys2Proof.Machine.execInertReportRepeat s
  | .joiningEnd => Sys2Proof.Machine.execJoiningEnd s
  | .lineErrorPeriodEnd => Sys2Proof.Machine.execLineErrorPeriodEnd s
  | .lineError heard => Sys2Proof.Machine.execLineError heard s
  | .duplicateStation addressee kind body => Sys2Proof.Machine.execDuplicateStation addressee kind body s
  | .frameDiscard frame => Sys2Proof.Machine.execFrameDiscard frame s
  | .transmitStart quiet readBack => Sys2Proof.Machine.execTransmitStart quiet readBack s
  | .frameSent => Sys2Proof.Machine.execFrameSent s
  | .rollCall h call urgency grade width minLength => Sys2Proof.Machine.execRollCall h call urgency grade width minLength s
  | .rollOffer h call serial remaining estimate flags => Sys2Proof.Machine.execRollOffer h call serial remaining estimate flags s
  | .rollTake h call serial urgency dock => Sys2Proof.Machine.execRollTake h call serial urgency dock s
  | .takeAnswer h call serial result => Sys2Proof.Machine.execTakeAnswer h call serial result s
  | .callWithdraw h call => Sys2Proof.Machine.execCallWithdraw h call s
  | .passOffer h v r => Sys2Proof.Machine.execPassOffer h v r s
  | .passAccept h vehicle segment => Sys2Proof.Machine.execPassAccept h vehicle segment s
  | .passDefer h vehicle segment => Sys2Proof.Machine.execPassDefer h vehicle segment s
  | .passDone h vehicle segment => Sys2Proof.Machine.execPassDone h vehicle segment s
  | .rollWaste h serial metres => Sys2Proof.Machine.execRollWaste h serial metres s
  | .lotAlert h lot roll => Sys2Proof.Machine.execLotAlert h lot roll s
  | .rollEntry h place serial grade width caliper remaining => Sys2Proof.Machine.execRollEntry h place serial grade width caliper remaining s
  | .rollRemove h serial place => Sys2Proof.Machine.execRollRemove h serial place s
  | .orderRequest h queue serial source destination => Sys2Proof.Machine.execOrderRequest h queue serial source destination s
  | .laneServiceOut h lane => Sys2Proof.Machine.execLaneServiceOut h lane s
  | .laneServiceIn h lane => Sys2Proof.Machine.execLaneServiceIn h lane s
  | .quarantineSet h slot base limit => Sys2Proof.Machine.execQuarantineSet h slot base limit s
  | .quarantineClear h slot => Sys2Proof.Machine.execQuarantineClear h slot s
  | .segmentRelease h segment => Sys2Proof.Machine.execSegmentRelease h segment s
  | .spliceNow h reelstand => Sys2Proof.Machine.execSpliceNow h reelstand s
  | .faultAck h => Sys2Proof.Machine.execFaultAck h s
  | .logClear h => Sys2Proof.Machine.execLogClear h s
  | .reportRequest h page index part => Sys2Proof.Machine.execReportRequest h page index part s
  | .zoneRestart h => Sys2Proof.Machine.execZoneRestart h s
  | .runStart h run edition => Sys2Proof.Machine.execRunStart h run edition s
  | .editionChange h edition => Sys2Proof.Machine.execEditionChange h edition s
  | .runEnd h => Sys2Proof.Machine.execRunEnd h s
  | .tagRead segment tag => Sys2Proof.Machine.execTagRead segment tag s
  | .occupancyClear segment => Sys2Proof.Machine.execOccupancyClear segment s
  | .atDockRise dock => Sys2Proof.Machine.execAtDockRise dock s
  | .atDockFall dock => Sys2Proof.Machine.execAtDockFall dock s
  | .passAnswerTimeout vehicle => Sys2Proof.Machine.execPassAnswerTimeout vehicle s
  | .passOfferRepeat vehicle => Sys2Proof.Machine.execPassOfferRepeat vehicle s
  | .passUnconfirmed vehicle => Sys2Proof.Machine.execPassUnconfirmed vehicle s
  | .laneDetectorChange lane position active => Sys2Proof.Machine.execLaneDetectorChange lane position active s
  | .laneDisagreeTimeout lane position => Sys2Proof.Machine.execLaneDisagreeTimeout lane position s
  | .restockPeriod => Sys2Proof.Machine.execRestockPeriod s
  | .travelComplete place => Sys2Proof.Machine.execTravelComplete place s
  | .pickComplete place => Sys2Proof.Machine.execPickComplete place s
  | .setComplete place => Sys2Proof.Machine.execSetComplete place s
  | .stepLimitExpiry => Sys2Proof.Machine.execStepLimitExpiry s
  | .holdLimitExpiry => Sys2Proof.Machine.execHoldLimitExpiry s
  | .offerWindowEnd call => Sys2Proof.Machine.execOfferWindowEnd call s
  | .takeAnswerTimeout call => Sys2Proof.Machine.execTakeAnswerTimeout call s
  | .reissueTime call => Sys2Proof.Machine.execReissueTime call s
  | .unloadRetry vehicle => Sys2Proof.Machine.execUnloadRetry vehicle s
  | .armOpenChange reelstand arm active => Sys2Proof.Machine.execArmOpenChange reelstand arm active s
  | .encoderPulse reelstand => Sys2Proof.Machine.execEncoderPulse reelstand s
  | .missingIndexPoint reelstand => Sys2Proof.Machine.execMissingIndexPoint reelstand s
  | .speedGateEnd reelstand => Sys2Proof.Machine.execSpeedGateEnd reelstand s
  | .revolutionIndex reelstand arm => Sys2Proof.Machine.execRevolutionIndex reelstand arm s
  | .rollPresentChange reelstand arm active => Sys2Proof.Machine.execRollPresentChange reelstand arm active s
  | .armDisagreeTimeout reelstand arm => Sys2Proof.Machine.execArmDisagreeTimeout reelstand arm s
  | .standbyReadyChange reelstand active => Sys2Proof.Machine.execStandbyReadyChange reelstand active s
  | .speedMatchedChange reelstand active => Sys2Proof.Machine.execSpeedMatchedChange reelstand active s
  | .matchTimeout reelstand => Sys2Proof.Machine.execMatchTimeout reelstand s
  | .pasteDone reelstand => Sys2Proof.Machine.execPasteDone reelstand s
  | .pasteTimeout reelstand => Sys2Proof.Machine.execPasteTimeout reelstand s
  | .knifeFallback reelstand => Sys2Proof.Machine.execKnifeFallback reelstand s
  | .knifeDone reelstand => Sys2Proof.Machine.execKnifeDone reelstand s
  | .knifeTimeout reelstand => Sys2Proof.Machine.execKnifeTimeout reelstand s
  | .webBreak reelstand => Sys2Proof.Machine.execWebBreak reelstand s
  | .webBreakClear reelstand => Sys2Proof.Machine.execWebBreakClear reelstand s
  | .wasteGateChange waste => Sys2Proof.Machine.execWasteGateChange waste s
  | .folderCopyPulse => Sys2Proof.Machine.execFolderCopyPulse s
  | .rateWindowEnd => Sys2Proof.Machine.execRateWindowEnd s
  | .resetHeldActive => Sys2Proof.Machine.execResetHeldActive s
  | .receiveQuiet12Bits => Sys2Proof.Machine.execReceiveQuiet12Bits s

end Sys2Proof.Machine
end

