-- ==== Sys2Proof/Machine/Step.lean ====
section
/-! DEFINITION. One step: the command at the front of the queue, or with no command waiting one decisecond of zone time,
whose due timer events then wait as commands (DESIGN CHOICE, log entry 3). -/

namespace Sys2Proof.Machine

/-- A command in a list if its time has come. -/
def onDue (b : Bool) (i : Instr) : List Instr := if b then [i] else []

/-- The events of the station state. -/
def stationDue (s : State) : List Instr :=
  onDue (s.isIn .inert && s.loader.inertNext.any fun t => reached s.time t) .inertReportRepeat ++
    onDue (s.isIn .joining && reached s.time (s.loader.joinedAt + Config.joiningTime)) .joiningEnd ++
    onDue (s.isActive && reached s.time (s.zone.line.periodStart + Config.errorPeriod)) .lineErrorPeriodEnd

/-- The gates and missing-index points of the reelstands. -/
def measuringDue (s : State) : List Instr :=
  s.webs.flatMap fun w =>
    onDue (missingIndexDue s.env s.zone w.1) (.missingIndexPoint w.1) ++ onDue (gateDue s w.1) (.speedGateEnd w.1)

/-- The hand-over times of a vehicle. -/
def vehicleDue (e : Env) (v : Vehicle) : List Instr :=
  onDue (answerOverdue e v) (.passAnswerTimeout v.number) ++
    onDue (v.handOver = .deferred && reached e.now v.repeatAt) (.passOfferRepeat v.number) ++
    onDue (doneOverdue e v) (.passUnconfirmed v.number)

def laneDue (e : Env) (z : Zone) : List Instr :=
  z.stock.watch.flatMap fun w =>
    match laneOfKey w.1 with
    | some (l, p) => onDue (disagreeDue e z w.1) (.laneDisagreeTimeout l p)
    | none => []

def carriageDue (e : Env) (z : Zone) : List Instr :=
  match runningOrder z with
  | some o =>
    onDue (motionStep o.step && reached e.now (o.stepStart + Config.stepLimit)) .stepLimitExpiry ++
      onDue (waitStep o.step && reached e.now (o.stepStart + Config.holdLimit)) .holdLimitExpiry
  | none => []

def callDue (e : Env) (c : Call) : List Instr :=
  onDue (c.state = .collecting && due e c.windowStart Config.offerWindow) (.offerWindowEnd c.number) ++
    onDue (c.state = .taking && due e c.takeTime Config.takeAnswer) (.takeAnswerTimeout c.number) ++
    onDue (c.state = .noStock && due e c.reissueAt 0) (.reissueTime c.number)

def armDue (e : Env) (z : Zone) : List Instr :=
  z.splice.watch.flatMap fun w =>
    match placeOfKey w.1 with
    | some (.arm r x) => onDue (reached e.now (w.2 + Config.disagreeTime)) (.armDisagreeTimeout r x)
    | _ => []

def spliceDue (e : Env) (z : Zone) (r : Nat) : List Instr :=
  onDue (timerDue e z r .accelerating Splice.matchTimer) (.matchTimeout r) ++
    onDue (timerDue e z r .pasting Splice.pasteTimer) (.pasteTimeout r) ++
    onDue (timerDue e z r .cutting fun s => s.knifeArmed.map (· + Config.knifeFallback)) (.knifeFallback r) ++
    onDue (timerDue e z r .cutting Splice.knifeTimer) (.knifeTimeout r)

/-- The timers of the blocks, which run in ACTIVE. -/
def blocksDue (e : Env) (z : Zone) : List Instr :=
  z.track.vehicles.flatMap (fun v => vehicleDue e v.2) ++ laneDue e z ++
    onDue (reached e.now z.stock.restockAt) .restockPeriod ++ carriageDue e z ++
    z.supply.calls.flatMap (fun c => callDue e c.2) ++
    z.supply.retries.flatMap (fun v => onDue (reached e.now v.2) (.unloadRetry v.1)) ++ armDue e z ++
    z.splice.stands.flatMap fun r => spliceDue e z r.1

/-- Every event that zone time brings about now. (DESIGN CHOICE, log entry 3.) (DEDUCED, log entry 21.) -/
def dueEvents (s : State) : List Instr :=
  stationDue s ++ (if s.measures then measuringDue s else []) ++ (if s.isActive then blocksDue s.env s.zone else [])

/-- One decisecond passes; while RESET is held the part holds (R20). (DESIGN CHOICE, log entry 3.) -/
def State.tick (s : State) : State :=
  if s.loader.held then s
  else
    let s := { s with time := s.time + 1 }
    { s with pending := dueEvents s }

def step (s : State) : Host.Outcome State Fault Refusal :=
  match s.pending with
  | [] => .next s.tick
  | c :: rest => exec c { s with pending := rest }

/-- The command that a word spells goes to the front of the queue; no row of the table has bits, so no word spells one.
(DESIGN CHOICE, log entry 5.) -/
def State.withFetchWord (s : State) (nbits w : Nat) : State :=
  match decodeTableWord nbits w with
  | some i => { s with pending := i :: s.pending }
  | none => s

end Sys2Proof.Machine
end

