-- ==== Sys2Proof/Safety.lean ====
section
/-! DEFINITION. The terms in which statements speak of the machine: when a frame is taken, what the end of its event is,
and the invariants that every step keeps, of station and loader and of the tables. -/

namespace Sys2Proof.Machine

/-! ### Frames taken (R7, R8, R9) -/

/-- In ACTIVE, with RESET released and the line not ignored, a frame of this header and kind is handed to its owning
block: the sender is another station, 1 to 30, that may send the kind, and the frame is addressed to all or to this
station (R7, R8, R9). -/
def State.takes (s : State) (h : Header) (k : Kind) : Bool :=
  s.isActive && !s.zone.line.ignoring && stationOk h.sender.toNat && h.sender.toNat ≠ s.loader.number &&
    (h.addressee = 0 || h.addressee.toNat = s.loader.number) && mayCommand s.env.img h.sender.toNat k.cls

/-- The zone as an owning block finds it at a frame: the part's own frame is no longer awaited (R7). -/
def State.heard (s : State) : Zone := { s.zone with line := { s.zone.line with justSent := none } }

/-- The state as an owning block finds it at a frame. -/
def State.heardState (s : State) : State := { s with zone := s.heard }

/-- The end of a frame's event: the owning block leaves this zone, the sender is alive (R9, R37), and the requests of the
event are served (log entry 4). -/
def State.endFrame (s : State) (h : Header) (z : Zone) : State :=
  (({ s with zone := z } : State).aliveFrom h.sender).settled

/-- The end of any other event of the zone: the requests of the event are served. -/
def State.endEvent (s : State) (z : Zone) : State := ({ s with zone := z } : State).settled

/-- The zone after a terminal's request that leaves zone z and gets result r under reference ref (R10). -/
def State.answered (s : State) (h : Header) (k : Kind) (r : Result) (ref : Reference) (z : Zone) : Zone :=
  Sys2Proof.Machine.answer s.env h.sender.toNat k r ref z

/-! ### The station and loader (R11, R12, R15, R17, R18, R19) -/

/-- What holds of station, number and image in every state that a run reaches: a station in JOINING or ACTIVE has a good
image and a valid number, one in START has no image; INERT alone reports by time, JOINING alone owes the answer to a
ZONE RESTART. -/
def State.stationSound (s : State) : Bool :=
  (s.loader.station ≠ .start || s.loader.image.isNone) &&
    ((s.loader.station ≠ .joining && s.loader.station ≠ .active) ||
      (s.loader.image.isSome && stationOk s.loader.number)) &&
    (s.loader.station = .inert || s.loader.inertNext.isNone) &&
    (s.loader.station = .joining || s.loader.restartAnswer.isNone)

/-! ### The tables (R5, R23, R27, R40, R48, R73, R74, R101, R154) -/

/-- No serial other than 0 stands at two places of the roll table (R48). -/
def serialsApart (t : Tbl Roll) : Bool :=
  t.all fun x => t.all fun y => x.1 = y.1 || x.2.serial = 0 || x.2.serial ≠ y.2.serial

/-- No vehicle number stands in two slots (R23). -/
def numbersApart (t : Tbl Vehicle) : Bool :=
  t.all fun x => t.all fun y => x.1 = y.1 || x.2.number ≠ y.2.number

/-- At most 16 frames are queued and 32 wait (R5). -/
def Line.sound (l : Line) : Bool := l.queue.length ≤ 16 && l.waiting.length ≤ 32

/-- Vehicles stand in slots 1 to 8 under numbers of their own, at most 7 wait for a segment, at most 4 offers are
deferred (R23, R27, R40). -/
def Track.sound (t : Track) : Bool :=
  t.segments.sorted && t.points.sorted && t.vehicles.sorted && t.segments.all (fun s => s.2.wait.length ≤ 7) &&
    t.deferred.length ≤ 4 && t.vehicles.all (fun v => 1 ≤ v.1 && v.1 ≤ 8) && numbersApart t.vehicles

/-- A serial stands at one place (R48). -/
def Stock.sound (t : Stock) : Bool :=
  t.rolls.sorted && t.lanes.sorted && t.slots.sorted && t.watch.sorted && t.disagreeing.sorted && serialsApart t.rolls

/-- The order queues hold at most B and 24 - B orders, and 32 requests are held for each (R73, R74). -/
def Transfer.sound (i : Image) (t : Transfer) : Bool :=
  t.ordersP.length ≤ i.queueB && t.ordersO.length ≤ 24 - i.queueB && t.heldP.length ≤ 32 && t.heldO.length ≤ 32 &&
    t.notices.sorted

/-- A call holds at most 6 offers (R101). -/
def Supply.sound (a : Supply) : Bool :=
  a.calls.sorted && a.calls.all (fun c => c.2.offers.length ≤ 6) && a.retries.sorted && a.noStockRaised.sorted

def SpliceBlock.sound (b : SpliceBlock) : Bool := b.stands.sorted && b.watch.sorted

/-- A web path holds at most 4 splice marks (R154). -/
def Folder.sound (f : Folder) : Bool := f.webs.sorted && f.webs.all (fun w => w.2.marks.length ≤ 4)

/-- Every table of the zone is in its one canonical form and within its bounds. -/
def Zone.sound (i : Image) (z : Zone) : Bool :=
  z.line.sound && z.track.sound && z.stock.sound && z.transfer.sound i && z.supply.sound && z.reels.sorted &&
    z.splice.sound && z.folder.sound && z.faults.entries.sorted

def Inputs.sound (i : Inputs) : Bool := i.occupancy.sorted && i.atDock.sorted && i.lanes.sorted && i.reels.sorted

/-- Every table of the part is in its canonical form and within its bounds. -/
def State.tablesSound (s : State) : Bool := s.zone.sound s.env.img && s.webs.sorted && s.inputs.sound

/-! ### An event that asks nothing more -/

/-- Nothing waits to be served in the zone: no request between blocks, no order, an idle carriage, and the detector
watches as the levels call for. -/
def Zone.atRest (e : Env) (z : Zone) : Bool :=
  z.agenda = [] && z.transfer.ordersP = [] && z.transfer.ordersO = [] && z.transfer.carriage = .idle &&
    refreshWatches e z = z

/-- The commands that may change the spoilage counters: copies, rate windows, breaks, the gate, PRESS STATE, LOG CLEAR,
frames whose kind is not named by the command, entering ACTIVE, and power-on reset. -/
def touchesCounters : Instr → Bool
  | .folderCopyPulse | .rateWindowEnd | .webBreak _ | .webBreakClear _ | .wasteGateChange _ | .runStart ..
  | .editionChange .. | .runEnd _ | .logClear _ | .lineError _ | .frameDiscard _ | .duplicateStation .. | .joiningEnd
  | .powerOnReset _ => true
  | _ => false

/-- The commands that are changes of field inputs (R13). -/
def movesInput : Instr → Bool
  | .tagRead .. | .occupancyClear _ | .atDockRise _ | .atDockFall _ | .laneDetectorChange .. | .armOpenChange ..
  | .rollPresentChange .. | .standbyReadyChange .. | .speedMatchedChange .. | .webBreak _ | .webBreakClear _
  | .wasteGateChange _ => true
  | _ => false

/-- The commands by which the blocks' own times and inputs act, in ACTIVE only (R16). -/
def activeOnly : Instr → Bool
  | .passAnswerTimeout _ | .passOfferRepeat _ | .passUnconfirmed _ | .laneDisagreeTimeout .. | .restockPeriod
  | .stepLimitExpiry | .holdLimitExpiry | .offerWindowEnd _ | .takeAnswerTimeout _ | .reissueTime _ | .unloadRetry _
  | .armDisagreeTimeout .. | .matchTimeout _ | .pasteDone _ | .pasteTimeout _ | .knifeFallback _ | .knifeDone _
  | .knifeTimeout _ => true
  | _ => false

end Sys2Proof.Machine
end

