-- ==== Sys2Proof/WellFormed.lean ====
section
/-! DEFINITION. Well-formed commands: every operand within the numbering of 0-5 and the bodies of 1-1. -/

namespace Sys2Proof

/-- A number from 1 to n. -/
def inNumbering (n k : Nat) : Bool := 1 ≤ k && k ≤ n

/-- A place within the numbering of 0-5. -/
def Place.wf : Place → Bool
  | .lane l p => inNumbering 8 l && inNumbering 4 p
  | .arm r _ => inNumbering 4 r
  | .vehicle s => inNumbering 8 s
  | .carriage => true
  | .dock d => inNumbering 12 d

/-- A body of at most 24 bytes (1-1); only a ZONE REPORT has a variable length (R188). -/
def Body.wf : Body → Bool
  | .zoneReport _ _ _ _ data => data.length ≤ 20
  | _ => true

/-- The operands of a command lie in the numbering that the manual gives them. -/
def Instr.wf : Instr → Bool
  | .duplicateStation _ _ body => body.length ≤ 24
  | .frameDiscard frame => frame.body.length ≤ 24
  | .tagRead segment _ => inNumbering 16 segment
  | .occupancyClear segment => inNumbering 16 segment
  | .atDockRise dock => inNumbering 12 dock
  | .atDockFall dock => inNumbering 12 dock
  | .passAnswerTimeout vehicle => inNumbering 63 vehicle
  | .passOfferRepeat vehicle => inNumbering 63 vehicle
  | .passUnconfirmed vehicle => inNumbering 63 vehicle
  | .unloadRetry vehicle => inNumbering 63 vehicle
  | .laneDetectorChange lane position _ => inNumbering 8 lane && inNumbering 4 position
  | .laneDisagreeTimeout lane position => inNumbering 8 lane && inNumbering 4 position
  | .travelComplete place => place.all Place.wf
  | .pickComplete place => place.all Place.wf
  | .setComplete place => place.all Place.wf
  | .offerWindowEnd call => inNumbering 255 call
  | .takeAnswerTimeout call => inNumbering 255 call
  | .reissueTime call => inNumbering 255 call
  | .armOpenChange reelstand _ _ => inNumbering 4 reelstand
  | .encoderPulse reelstand => inNumbering 4 reelstand
  | .missingIndexPoint reelstand => inNumbering 4 reelstand
  | .speedGateEnd reelstand => inNumbering 4 reelstand
  | .revolutionIndex reelstand _ => inNumbering 4 reelstand
  | .rollPresentChange reelstand _ _ => inNumbering 4 reelstand
  | .armDisagreeTimeout reelstand _ => inNumbering 4 reelstand
  | .standbyReadyChange reelstand _ => inNumbering 4 reelstand
  | .speedMatchedChange reelstand _ => inNumbering 4 reelstand
  | .matchTimeout reelstand => inNumbering 4 reelstand
  | .pasteDone reelstand => inNumbering 4 reelstand
  | .pasteTimeout reelstand => inNumbering 4 reelstand
  | .knifeFallback reelstand => inNumbering 4 reelstand
  | .knifeDone reelstand => inNumbering 4 reelstand
  | .knifeTimeout reelstand => inNumbering 4 reelstand
  | .webBreak reelstand => inNumbering 4 reelstand
  | .webBreakClear reelstand => inNumbering 4 reelstand
  | .powerOnReset _ | .imageCheck _ | .inertReportRepeat | .joiningEnd | .lineErrorPeriodEnd | .lineError _
  | .transmitStart _ _ | .frameSent | .rollCall .. | .rollOffer .. | .rollTake .. | .takeAnswer ..
  | .callWithdraw .. | .passOffer .. | .passAccept .. | .passDefer .. | .passDone .. | .rollWaste .. | .lotAlert ..
  | .rollEntry .. | .rollRemove .. | .orderRequest .. | .laneServiceOut .. | .laneServiceIn .. | .quarantineSet ..
  | .quarantineClear .. | .segmentRelease .. | .spliceNow .. | .faultAck .. | .logClear .. | .reportRequest ..
  | .zoneRestart .. | .runStart .. | .editionChange .. | .runEnd .. | .restockPeriod | .stepLimitExpiry
  | .holdLimitExpiry | .wasteGateChange _ | .folderCopyPulse | .rateWindowEnd | .resetHeldActive
  | .receiveQuiet12Bits => true

end Sys2Proof
end

