-- ==== Sys2Proof/Certificates/Slice0/Obligations.lean ====
section
/-! DEFINITION. The statements for the provers: what each command and the machine do, from the numbered rules of the
spec. A command's effect is stated as the whole next state, so what it leaves unchanged stands in the same equation; endFrame
and endEvent (Safety.lean) end an event as every event ends. -/

open Sys2Proof Sys2Proof.Machine

/-! ### The machine and its queue -/

/-- A step takes the command at the front of the queue and runs exec on it with the queue's rest.
The model's choice (log entry 3), no rule of the spec: with no command waiting a step is one decisecond of zone time,
and it holds while RESET is held. The events it queues are those of the station state, then those that measure, then the
blocks' own; in INERT it queues the repeated report and nothing else. -/
def Obligations.StepRunsFrontCommand : Prop :=
  (∀ (c : Instr) (rest : List Instr) (s : State), s.pending = c :: rest → step s = exec c { s with pending := rest }) ∧
  (∀ s : State, s.pending = [] →
     (s.loader.held = true → step s = .next s) ∧
     (s.loader.held = false → step s = .next { s with time := s.time + 1, pending := dueEvents { s with time := s.time + 1 } }) ∧
     (s.loader.held = false → s.loader.station = .inert → ∀ t c, step s = .next t → c ∈ t.pending → c = .inertReportRepeat))

/-- Every command completes. That only POWER_ON_RESET moves zone time, and that none touches the queue, is the model's
form: zone time moves by a step on an empty queue (log entry 3) and the queue is no register of the part. Only
POWER_ON_RESET moves the station number; the field inputs change only by the commands that movesInput lists, and the
spoilage counters only by those that touchesCounters lists. -/
def Obligations.CommandsKeepTimeNumberAndQueue : Prop :=
  ∀ (c : Instr) (s : State), ∃ t, exec c s = .next t ∧ t.pending = s.pending ∧
    ((∀ straps, c ≠ .powerOnReset straps) → t.time = s.time ∧ t.loader.number = s.loader.number) ∧
    (movesInput c = false → t.inputs = s.inputs) ∧ (touchesCounters c = false → t.spoilage = s.spoilage)

/-! ### Power-on reset, image, station states -/

/-- POWER_ON_RESET: on release of RESET zone time is 0, every block is at its power-on values, and the strap value is
the station number; 1 to 30 goes on to START, 0 and 31 to INERT at once, and that INERT has no report to make (R11,
R20). The levels of the field inputs outlast the reset (log entry 2); State.reset is the part with the straps not
sampled yet (log entry 1), and values the manual does not state are log entry 17.
RESET_HELD_ACTIVE: while RESET is held the part drives no field output, sends nothing and receives nothing (R20).
That zone time stands and a step changes nothing meanwhile is the model's choice (log entry 3), as is that the tables
stand as they are until the release (log entry 1) and a transmission ends at once (log entry 10).
Field outputs (R13, R14, R16 to R18). Outside ACTIVE, and while RESET is held, no permit, points, splice, eject or carriage
output is active, whatever position or level the kept records show; the press stop request keeps its level in JOINING and is
inactive in INERT and START. In ACTIVE each follows its record, points in position 2 being active (log entry 51). An output
with a polarity bit is driven at the level the bit gives, active high for a bit of 1, and released before a good image and
under RESET; the 147 bits stand in the order of R193, and no two lines share one. -/
def Obligations.ResetTaken : Prop :=
  (∀ (straps : BitVec 5) (s : State), ∃ t, exec (.powerOnReset straps) s = .next t ∧
     t.time = 0 ∧ t.loader.number = straps.toNat ∧ t.loader.held = false ∧ t.loader.image = none ∧
     t.loader.station = (if straps.toNat = 0 ∨ straps.toNat = 31 then .inert else .start) ∧
     t.loader.inertNext = none ∧ t.zone.line.queue = [] ∧ t.zone.line.waiting = [] ∧ t.zone.line.dropped = 0 ∧
     t.zone.line.lineErrors = 0 ∧ t.zone.line.unknown = 0 ∧ t.zone.line.malformed = 0 ∧ t.zone.line.refused = 0 ∧
     { t with pending := [], inputs := State.reset.inputs, loader := State.reset.loader,
              zone := { t.zone with transfer := { t.zone.transfer with doneInput := false, placeInput := none } } } =
       State.reset ∧
     t.inputs = s.inputs ∧ t.zone.transfer.doneInput = s.zone.transfer.doneInput ∧
     t.zone.transfer.placeInput = s.zone.transfer.placeInput ∧ t.pending = s.pending) ∧
  (∀ s : State, ∃ t, exec .resetHeldActive s = .next t ∧
     t = { s with loader := { s.loader with held := true }
                  zone := { s.zone with line := { s.zone.line with sending := none, justSent := none } } } ∧
     (∀ line on, electrical t line on = none) ∧
     (∀ k, t.permitOut k = false ∧ t.accelerateOut k = false ∧ t.pasteOut k = false ∧ t.knifeOut k = false ∧
       t.pointsOut k = false) ∧ t.ejectOut = false ∧ t.pressStopOut = false ∧ t.carriageOut = none ∧
     (∀ quiet b, exec (.transmitStart quiet b) t = .next t) ∧ (∀ f, exec (.frameDiscard f) t = .next t) ∧
     (∀ bs, exec (.lineError bs) t = .next t) ∧ (t.pending = [] → step t = .next t)) ∧
  ((∀ s : State, s.loader.held = true ∨ s.loader.station ≠ .active →
     (∀ k, s.permitOut k = false ∧ s.pointsOut k = false ∧ s.accelerateOut k = false ∧ s.pasteOut k = false ∧
       s.knifeOut k = false) ∧ s.ejectOut = false ∧ s.carriageOut = none ∧
     s.pressStopOut = (!s.loader.held && decide (s.loader.station = .joining) && s.zone.splice.pressStop)) ∧
   (∀ s : State, s.loader.held = false → s.loader.station = .active →
     (∀ k x, s.zone.track.segments.get? k = some x → s.permitOut k = x.permit) ∧
     (∀ p n, s.zone.track.points.get? p = some n → s.pointsOut p = decide (n = 2)) ∧
     (∀ r w, s.zone.splice.stands.get? r = some w →
       s.accelerateOut r = w.accelerateOut ∧ s.pasteOut r = w.pasteOut ∧ s.knifeOut r = w.knifeOut) ∧
     s.ejectOut = s.zone.folder.eject ∧ s.carriageOut = s.zone.transfer.command ∧ s.pressStopOut = s.zone.splice.pressStop) ∧
   (∀ (s : State) (line : FieldLine) (on : Bool), s.outputActive line = some on →
     (s.loader.held = true ∨ s.loader.image = none → s.outputLevel line = none) ∧
     (∀ i b, s.loader.held = false → s.loader.image = some i → line.bit = some b →
       s.outputLevel line = some (if (i.polarity.getD (b / 8) 0#8).getLsbD (b % 8) then on else !on))) ∧
   (∀ (i : Image) (line : FieldLine) (b : Nat) (high : Bool), line.bit = some b →
     readThrough i line high = some (if (i.polarity.getD (b / 8) 0#8).getLsbD (b % 8) then high else !high)) ∧
   (∀ x y b, FieldLine.bit x = some b → b < 147 ∧ (FieldLine.bit y = some b → x = y)) ∧
   FieldLine.bit (.occupancy 1) = some 0 ∧ FieldLine.bit (.permit 1) = some 16 ∧ FieldLine.bit (.points 1) = some 32 ∧
   FieldLine.bit (.atDock 1) = some 38 ∧ FieldLine.bit (.detector 1 1) = some 50 ∧ FieldLine.bit (.detector 8 4) = some 81 ∧
   FieldLine.bit (.reel 1 .presentA) = some 82 ∧ FieldLine.bit (.reel 4 .knife) = some 141 ∧
   FieldLine.bit .carriageDone = some 142 ∧ FieldLine.bit .pressStop = some 146)

/-- IMAGE_CHECK in START with a good image: JOINING is entered at the present time, and every block has its part at its
power-on values: segments FREE, points at 1, no roll, every lane in service, the image's ranges in the quarantine slots,
no order and no call, reelstands with no roll and no estimate, the reporting level of the image (R12, R46, R70, R93,
R132, R134, R186). The lengths, caliper and seed of a measurement record in NO_ROLL are the model's (log entry 17,
DESIGN CHOICE), as is that a slot holds base and limit as the image gives them (log entry 65, DESIGN CHOICE). -/
def Obligations.GoodImageEntersJoining : Prop :=
  ∀ (memory : List Byte) (s : State) (i : Image), s.loader.held = false → s.loader.station = .start →
    1 ≤ s.loader.number → s.loader.number ≤ 30 → checkImage memory s.loader.number = .good i →
    ∃ t, exec (.imageCheck memory) s = .next t ∧
      t.loader.station = .joining ∧ t.loader.image = some i ∧ t.loader.joinedAt = s.time ∧ t.time = s.time ∧
      t.zone.line = s.zone.line ∧ t.inputs = s.inputs ∧ t.spoilage = s.spoilage ∧
      (∀ k, 1 ≤ k → k ≤ i.segments.length → t.zone.track.segments.get? k = some ⟨.free, [], false⟩) ∧
      (∀ k, 1 ≤ k → k ≤ i.points.length → t.zone.track.points.get? k = some 1) ∧
      t.zone.track.vehicles = [] ∧ t.zone.track.deferred = [] ∧ t.zone.stock.rolls = [] ∧
      (∀ l, 1 ≤ l → l ≤ i.lanes.length →
        (t.zone.stock.lanes.get? l).map (fun c => (c.inService, c.overrun, c.underrun, c.mismatch)) =
          some (true, false, false, false)) ∧
      (∀ k, (t.zone.stock.slots.get? k).map (fun x => (x.base, x.limit, x.origin)) =
        (nth i.locked k).map fun x => (x.1, x.2, .image)) ∧
      t.zone.transfer.ordersP = [] ∧ t.zone.transfer.ordersO = [] ∧ t.zone.transfer.carriage = .idle ∧
      t.zone.transfer.nextNumber = 1 ∧ t.zone.supply.calls = [] ∧ t.zone.supply.nextCall = 1 ∧
      (∀ r, 1 ≤ r → r ≤ i.reels.length →
        t.zone.reels.get? r = some ⟨Meas.initial, Meas.initial, 65535⟩ ∧
        t.zone.splice.stands.get? r = some Splice.initial ∧ t.zone.folder.webs.get? r = some WebPath.initial ∧
        (t.webs.get? r).map (fun w => (w.counter, w.speed, w.gateStart)) = some (0, 0, s.time)) ∧
      t.zone.splice.pressStop = false ∧ t.zone.folder.eject = false ∧ t.zone.faults = ⟨[], none, some i.level⟩

/-- IMAGE_CHECK with a bad image: INERT is entered, the LINE fault of code IMAGE is recorded with the failed stage and for
stage 4 the offset, one FAULT REPORT is queued when the queue has room, and the next is due 100 ds later (R12, R18).
The first three stages of the image check, each with the value at the edge of its range: a length outside 74 to 1,024,
a closing CRC that differs, a format number other than 3; a memory that does not answer fails stage 1 (R12).
INERT_REPORT_REPEAT: in INERT with a valid number, at the time of the next report, one more FAULT REPORT of class LINE
is queued and the next is due 100 ds later; before that time, and in every other station state, nothing happens (R18). -/
def Obligations.ImageCheckFails : Prop :=
  (∀ (memory : List Byte) (s : State) (stage : Nat) (offset : Option Nat), s.loader.held = false →
     s.loader.station = .start → 1 ≤ s.loader.number → s.loader.number ≤ 30 → s.zone.line.queue = [] →
     checkImage memory s.loader.number = .bad stage offset →
     let f := s.zone.faults.record ⟨.image, s.time, .number stage :: (offset.map CtxElem.number).toList⟩ 1
     exec (.imageCheck memory) s = .next
       { s with loader := { s.loader with station := .inert, inertNext := some (s.time + 100), restartAnswer := none }
                zone := { s.zone with faults := f
                                      line := { s.zone.line with queue := [⟨0, faultReportBody f .line⟩] } } }) ∧
  ((∀ memory own, readMem memory 0 2 < 74 ∨ 1024 < readMem memory 0 2 → checkImage memory own = .bad 1 none) ∧
   (∀ own, checkImage [] own = .bad 1 none) ∧
   (∀ memory own, 74 ≤ readMem memory 0 2 → readMem memory 0 2 ≤ memory.length → readMem memory 0 2 ≤ 1024 →
     (crc16 (memory.take (readMem memory 0 2 - 2))).toNat ≠ readMem memory (readMem memory 0 2 - 2) 2 →
     checkImage memory own = .bad 2 none) ∧
   (∀ memory own, 74 ≤ readMem memory 0 2 → readMem memory 0 2 ≤ memory.length → readMem memory 0 2 ≤ 1024 →
     (crc16 (memory.take (readMem memory 0 2 - 2))).toNat = readMem memory (readMem memory 0 2 - 2) 2 →
     readMem memory 2 1 ≠ 3 → checkImage memory own = .bad 3 none) ∧
   (∀ memory own i, checkImage memory own = .good i →
     readMem memory 0 2 = imageSize (imageCounts memory) ∧ 1 ≤ i.segments.length ∧ i.segments.length ≤ 16 ∧
     i.points.length ≤ 6 ∧ i.docks.length ≤ 12 ∧ i.lanes.length ≤ 8 ∧ i.reels.length ≤ 4 ∧ i.boundary.length ≤ 4 ∧
     4 ≤ i.queueB ∧ i.queueB ≤ 12 ∧ i.console ≠ own ∧
     (∀ r ∈ i.reels, r.core + 50 ≤ r.splice ∧ r.core ≤ r.margin ∧ r.margin < r.splice ∧ r.lead + 600 ≤ r.horizon))) ∧
  (∀ s : State, s.loader.held = false →
     (∀ t, s.loader.station = .inert → s.loader.inertNext = some t → liesAfter t s.time = false →
       1 ≤ s.loader.number → s.loader.number ≤ 30 → s.zone.line.queue.length < 16 →
       exec .inertReportRepeat s = .next
         { s with loader := { s.loader with inertNext := some (t + 100) }
                  zone := { s.zone with line := { s.zone.line with
                    queue := s.zone.line.queue ++ [⟨0, faultReportBody s.zone.faults .line⟩] } } }) ∧
     (∀ t, s.loader.inertNext = some t → liesAfter t s.time = true → exec .inertReportRepeat s = .next s) ∧
     (s.loader.station ≠ .inert → exec .inertReportRepeat s = .next s))

/-- JOINING_END: when the 10 ds of listening have run, the station enters ACTIVE, the LI opens its first line error
period, the frames and alerts held in JOINING leave their lists, and the zone goes through activate, whose order of the
blocks is the model's choice (log entry 48); before that time nothing happens (R15).
On entering ACTIVE the answer of a warm restart is offered before the frames held in JOINING, which follow in their
order; with an empty queue and room for all, the queue is just that (R15, R19).
On entering ACTIVE after power-on reset every lane position whose detector shows a roll, and no other, holds an
unidentified entry, in state BUTT in a BUTT lane and STOCK in any other (R70).
What the TC and the SS find on entering ACTIVE after power-on reset (R46, R152). An occupied segment with tag 0, or with a number
that another occupied segment shows too, is BLOCKED; of the other numbers, rising, the first 8 take the slots from 1 with a HELD,
empty record of purpose NONE, home the own station, on their segment, which is OCCUPIED (the fields R46 leaves out: log entry 47,
DESIGN CHOICE; the slots: log entry 53, DESIGN CHOICE), and the segments of the rest are BLOCKED; no fault is raised and nothing else
changes. A reelstand with one roll has it RUNNING and SINGLE, with both A runs and B is STANDBY, LOADED or, with standby ready,
PREPARED and evaluated; without a roll it stays as it is. Reelstands go in rising number (log entry 67, DESIGN CHOICE). After both
resets the answer and held frames come first, then track, lanes and arms, then held alerts, then the calls asked for in JOINING that
still hold (the order of the blocks: log entry 48, DESIGN CHOICE). -/
def Obligations.ActiveEntered : Prop :=
  (∀ s : State, s.loader.held = false → s.loader.station = .joining →
     (liesAfter (s.loader.joinedAt + 10) s.time = false →
       ∃ t, exec .joiningEnd s = .next t ∧ t.loader.station = .active ∧ t.loader.restartAnswer = none ∧
         t.loader.image = s.loader.image ∧ t.inputs = s.inputs ∧ t.webs = s.webs ∧
         t.spoilage = { s.spoilage with heldAlerts := [] } ∧
         t = ({ s with loader := { s.loader with station := .active, warm := false, restartAnswer := none }
                       spoilage := { s.spoilage with heldAlerts := [] } } : State).endEvent
               (activate { s.env with station := .active } s.loader.warm s.loader.restartAnswer s.spoilage.heldAlerts
                 s.zone)) ∧
     (liesAfter (s.loader.joinedAt + 10) s.time = true → exec .joiningEnd s = .next s)) ∧
  (∀ (e : Env) (terminal : Option Nat) (held : List TxFrame) (z : Zone), e.station = .active →
     z.line.queue = [] → z.line.waiting = [] → held.length + 1 ≤ 16 →
     (offerHeld e terminal held z).line.queue =
       (terminal.map fun t => answerFrame t .zoneRestart .done 0).toList ++ held) ∧
  (∀ (e : Env) (z : Zone) (l p : Nat), z.stock.rolls = [] → 1 ≤ l → l ≤ e.img.lanes.length → p ≤ 4 →
     (∀ k, lanePositions e k ≤ 4) →
     rollAt (scanLanes e z) (.lane l p) =
       if 1 ≤ p ∧ p ≤ lanePositions e l ∧ laneDetector e l p = true then
         some (unidentified (if laneRole? e l = some .butt then .butt else .stock))
       else none) ∧
  ((∀ (e : Env) (z : Zone), (∀ k, presentTag e k ≤ 63) →
     let t := scanTrack e z
     let seen := (List.range e.img.segments.length).filterMap fun i => if occupied e (i + 1) then some (i + 1) else none
     let single := fun (k : Nat) => presentTag e k ≠ 0 ∧ ∀ j ∈ seen, presentTag e j = presentTag e k → j = k
     let found := fun (tags : List Nat) => tags.Pairwise (· < ·) ∧ ∀ n, n ∈ tags ↔ ∃ k ∈ seen, single k ∧ presentTag e k = n
     (∀ tags, found tags →
       (∀ k x, z.track.segments.get? k = some x →
         let state := if k ∈ seen then
             if presentTag e k ∈ tags.take 8 ∧ single k then SegState.occupied (presentTag e k) else .blocked
           else x.state
         t.track.segments.get? k = some { x with state := state }) ∧
       (∀ slot, t.track.vehicles.get? slot = (if slot = 0 then none else (tags.take 8)[slot - 1]?).map fun n =>
         { number := n, state := .held, current := seen.find? fun k => presentTag e k = n, granted := none, trailing := none,
           loaded := false, purpose := .none, order := none, home := e.own, route := [], handOver := .none,
           handOverTime := e.now, offeredTo := none, repeatAt := 0, unconfirmed := false, offeredBy := none, carried := none,
           claim := 0 })) ∧
     (∃ tags, found tags) ∧ t.track.vehicles.length ≤ 8 ∧
     t = { z with track := { z.track with segments := t.track.segments, vehicles := t.track.vehicles } }) ∧
   (∀ (e : Env) (r : Nat) (z : Zone),
     let on := fun (x : Arm) (st : RollState) => setRoll (.arm r x) (unidentified st)
     let a := rollPresent e r .a
     let b := rollPresent e r .b
     (a = false → b = false → scanReelstand e r z = z) ∧
     (a = true → b = false → scanReelstand e r z = threadRunning e r .a (on .a .running z)) ∧
     (a = false → b = true → scanReelstand e r z = threadRunning e r .b (on .b .running z)) ∧
     (a = true → b = true →
       let one := threadRunning e r .a (on .a .running z)
       let loaded := fun (st : SpliceState) => ({ on .b .standby one with splice := { one.splice with
         stands := one.splice.stands.modify r fun w => { w with inhibited := false, state := st } } } : Zone)
       ∀ w, one.splice.stands.get? r = some w → w.state = .single →
         ((reelIns e r).standbyReady = false → scanReelstand e r z = loaded .loaded) ∧
         ((reelIns e r).standbyReady = true → scanReelstand e r z = evalSplice e r (loaded .prepared)))) ∧
   (∀ (e : Env) (z : Zone), scanReelstands e z = (List.range e.img.reels.length).foldl (fun z i => scanReelstand e (i + 1) z) z) ∧
   (∀ (e : Env) (warm : Bool) (terminal : Option Nat) (alerts : List HeldAlert) (z : Zone),
     let offered := offerHeld e terminal z.line.heldFrames
       { z with line := { z.line with periodStart := e.now, periodErrors := 0, heldFrames := [] } }
     let set : Zone := { offered with stock := { offered.stock with restockAt := e.now + 600 } }
     let scanned := scanReelstands e (scanLanes e (scanTrack e set))
     let blocks := if warm then resumeBlocks e set else { scanned with agenda := scanned.agenda ++ [.restock] }
     let sent := alerts.foldl (fun z a => sendAlert e a.serial z) blocks
     activate e warm terminal alerts z = { sent with
       supply := { sent.supply with asked := [] }
       agenda := sent.agenda ++ (sent.supply.asked.filter fun n => match n with
         | .runout r => runoutCallHolds e r sent
         | .restock _ => true).map Task.askCall }))

/-! ### Invariants of station and loader -/

/-- State.reset meets the invariant of station and loader, and every table of it is in its form and bounds. -/
def Obligations.SoundAtReset : Prop := State.reset.stationSound = true ∧ State.reset.tablesSound = true

/-- Every step keeps the invariant of station and loader: a station in JOINING or ACTIVE has a good image and a valid
number, one in START has no image, only INERT has a report due and only JOINING owes the answer to a ZONE RESTART. -/
def Obligations.StepKeepsStationSound : Prop :=
  ∀ s t : State, s.stationSound = true → step s = .next t → t.stationSound = true

/-- Every step keeps every table in its canonical form and its bounds: keys strictly rising (each place, lane, slot,
segment, call and reelstand has one entry), at most 16 frames queued and 32 waiting (R5), no serial but 0 at two places of
the roll table (R48), vehicles in slots 1 to 8 under numbers of their own (R23), at most 7 vehicles waiting for a segment
(R27) and 4 offers deferred (R40), at most B and 24 - B orders and 32 held requests a queue (R73, R74), 6 offers to a call
(R101) and 4 marks to a web path (R154). A segment is held by one vehicle at most, since its one state names one. -/
def Obligations.StepKeepsTablesSound : Prop :=
  ∀ s t : State, s.tablesSound = true → step s = .next t → t.tablesSound = true

/-- INERT is left only by power-on reset, whatever the command (R18); and the image, once good, stays the image until
power-on reset (R12), in every state of the invariant. -/
def Obligations.InertAndImageLast : Prop :=
  ∀ (c : Instr) (s t : State), s.stationSound = true → (∀ straps, c ≠ .powerOnReset straps) → exec c s = .next t →
    (s.loader.station = .inert → t.loader.station = .inert) ∧
    (∀ i, s.loader.image = some i → t.loader.image = some i) ∧
    (s.loader.station ≠ .start → t.loader.station ≠ .start)

/-! ### Frames on the line -/

/-- Every body of a frame is read back from its own bytes: no field of Tables 11-2-2 and 11-2-3 is dropped.
The two bytes of a place name that place and no other; a type or a number outside the numbering of 0-5 names none
(Table 11-1-1, R190). -/
def Obligations.BodyAndPlaceRoundTrip : Prop :=
  (∀ b : Body, b.wf = true → decodeBody (bodyKind b) (encodeBody b) = some b) ∧
  ((∀ p : Place, p.wf = true → p.encode.decode = some p) ∧
   (∀ c : PlaceCode, (∀ p : Place, p.wf = true → p.encode ≠ c) → c.decode = none))

/-- A whole frame as the part sends it, heard with all its stop bits, passes the line check, and its bytes read back as
the frame sent (R6, R188, R189).
The line check of bytes heard from a quiet line: a first byte other than the start byte, a length above 24, too few
bytes before the line fell quiet, a byte without its stop bit, a CRC that differs (R6, R188). -/
def Obligations.FramesPassTheLineCheck : Prop :=
  (∀ (sender : Nat) (f : TxFrame), f.body.wf = true → sender < 256 → f.dest < 256 →
     lineCheck ((encodeFrame sender f).map fun b => ⟨b, true⟩) =
       .frame ⟨BitVec.ofNat 8 sender, BitVec.ofNat 8 f.dest, (bodyKind f.body).code, encodeBody f.body⟩ ∧
     takeRaw ⟨BitVec.ofNat 8 sender, BitVec.ofNat 8 f.dest, (bodyKind f.body).code, encodeBody f.body⟩ =
       takeBody ⟨BitVec.ofNat 8 sender, BitVec.ofNat 8 f.dest⟩ f.body) ∧
  ((∀ b rest, b.value ≠ 0xA5#8 → lineCheck (b :: rest) = .badStart) ∧
   (∀ a b c d n rest, a.value = 0xA5#8 → 24 < n.value.toNat → lineCheck (a :: b :: c :: d :: n :: rest) = .failed) ∧
   (∀ a b c d n rest, a.value = 0xA5#8 → rest.length < n.value.toNat + 2 →
     lineCheck (a :: b :: c :: d :: n :: rest) = .failed) ∧
   (∀ a rest, a.value = 0xA5#8 → rest.length < 4 → lineCheck (a :: rest) = .failed) ∧
   (∀ a b c d n rest x, a.value = 0xA5#8 → x ∈ a :: b :: c :: d :: n :: rest.take (n.value.toNat + 2) →
     x.stopBit = false → lineCheck (a :: b :: c :: d :: n :: rest) = .failed) ∧
   (∀ a b c d n rest, a.value = 0xA5#8 →
     bytes16 (crc16 ((b :: c :: d :: n :: rest.take n.value.toNat).map (·.value))) ≠
       ((rest.drop n.value.toNat).take 2).map (·.value) →
     lineCheck (a :: b :: c :: d :: n :: rest) = .failed))

/-- LINE_ERROR, RECEIVE_QUIET_12_BITS and LINE_ERROR_PERIOD_END: bytes that fail the line check are counted and
discarded, a bad start byte also makes the LI ignore the line until it has been quiet for 12 bit times; in ACTIVE the
error belongs to the period, and only the 65th of a period raises the fault; a frame that passes is heard; a period ends
after 100 ds and the next begins where it ended (R6, R188). That nothing heard between a bad start byte and that quiet
is counted or taken is log entry 10 (DEDUCED). -/
def Obligations.LineErrors : Prop :=
  ∀ (s : State) (bs : List HeardByte), s.loader.held = false →
    (s.zone.line.ignoring = true → exec (.lineError bs) s = .next s) ∧
    (s.zone.line.ignoring = false →
      (∀ f, lineCheck bs = .frame f → exec (.lineError bs) s = exec (.frameDiscard f) s) ∧
      (∀ l, (lineCheck bs = .failed ∧ l = s.zone.line ∨
          lineCheck bs = .badStart ∧ l = { s.zone.line with ignoring := true }) →
        (s.loader.station ≠ .active →
          exec (.lineError bs) s = .next
            { s with zone := { s.zone with line := { l with lineErrors := min 65535 (l.lineErrors + 1) } } }) ∧
        (s.loader.station = .active →
          let z : Zone := { s.zone with line :=
            { l with lineErrors := min 65535 (l.lineErrors + 1), periodErrors := l.periodErrors + 1 } }
          exec (.lineError bs) s =
            .next (if l.periodErrors + 1 = 65 then s.endEvent (raise s.env .errorRate [] z) else { s with zone := z })))) ∧
    exec .receiveQuiet12Bits s = .next { s with zone := { s.zone with line := { s.zone.line with ignoring := false } } } ∧
    (s.loader.station = .active → liesAfter (s.zone.line.periodStart + 100) s.time = false →
      exec .lineErrorPeriodEnd s = .next { s with zone := { s.zone with line :=
        { s.zone.line with periodStart := s.zone.line.periodStart + 100, periodErrors := 0 } } }) ∧
    (s.loader.station ≠ .active ∨ liesAfter (s.zone.line.periodStart + 100) s.time = true →
      exec .lineErrorPeriodEnd s = .next s)

/-- DUPLICATE_STATION: a frame with the own number as sender that the LI has just sent to its end is ignored; any other
puts a station in JOINING into INERT with the duplicate station fault, and in ACTIVE raises that fault (R7, R17). How
the LI knows its own frame (ownFrame: the first heard after FRAME_SENT with the same addressee, kind and body) is log
entry 7 (DEDUCED), and that an owed restart answer is dropped is log entry 11 (DEDUCED).
FRAME_DISCARD: a frame of another station is judged by the four checks of R8 in their order; the first it fails
decides its count, a report frame is ignored, and one that passes is taken by its owning block in ACTIVE and dropped in
JOINING; in ACTIVE the sender is alive whatever came of the frame (R8, R9). That the owning block takes the frame before
the TC learns this, and that a frame which carries out a restart tells the TC nothing, is the model's choice (log entry
8). -/
def Obligations.FramesHeard : Prop :=
  (∀ (s : State) (a k : Byte) (body : List Byte), s.hears = true → s.loader.number < 256 →
     let f : RawFrame := ⟨BitVec.ofNat 8 s.loader.number, a, k, body⟩
     let r := s.zone.faults.record ⟨.duplicateStation, s.time, []⟩ 1
     (ownFrame s.zone.line f = true → exec (.duplicateStation a k body) s = .next s.heardState) ∧
     (ownFrame s.zone.line f = false → s.loader.station = .active →
       exec (.duplicateStation a k body) s = .next (s.endEvent (raise s.env .duplicateStation [] s.heard))) ∧
     (ownFrame s.zone.line f = false → s.loader.station = .joining → 1 ≤ s.loader.number → s.loader.number ≤ 30 →
       s.zone.line.queue.length < 16 →
       exec (.duplicateStation a k body) s = .next
         { s with loader := { s.loader with station := .inert, inertNext := some (s.time + 100), restartAnswer := none }
                  zone := { s.zone with faults := r
                                        line := { s.zone.line with justSent := none
                                                                   queue := s.zone.line.queue ++
                                                                     [⟨0, faultReportBody r .line⟩] } } })) ∧
  (∀ (s : State) (f : RawFrame), s.hears = true → f.sender.toNat ≠ s.loader.number →
     let l := s.heard.line
     let t : State :=
       if f.addressee ≠ 0 ∧ f.addressee.toNat ≠ s.loader.number then s.heardState
       else match kindOf f.kind with
         | none => { s with zone := { s.zone with line := { l with unknown := min 65535 (l.unknown + 1) } } }
         | some k =>
           if k.lengthOk f.body.length = false ∨ f.sender.toNat < 1 ∨ 30 < f.sender.toNat then
             { s with zone := { s.zone with line := { l with malformed := min 65535 (l.malformed + 1) } } }
           else if (k.cls = .terminal ∧ f.sender.toNat ∉ s.env.img.permission) ∨
               (k.cls = .console ∧ (s.env.img.console = 0 ∨ s.env.img.console ≠ f.sender.toNat)) then
             { s with zone := { s.zone with line := { l with refused := min 65535 (l.refused + 1) } } }
           else if k.cls = .report ∨ s.loader.station ≠ .active then s.heardState
           else takeRaw f s.heardState
     exec (.frameDiscard f) s = .next (t.aliveFrom f.sender).settled)

/-- A frame offered to the LI in ACTIVE, by the fill of the queue and the class of the frame (R4). -/
def Obligations.FrameOffered : Prop :=
  ∀ (e : Env) (f : TxFrame) (z : Zone), e.station = .active →
    let l := z.line
    (l.queue.length < 16 → l.waiting = [] → (offer e f z).line = { l with queue := l.queue ++ [f] }) ∧
    (f.isProtocol = false → 16 ≤ l.queue.length ∨ l.waiting ≠ [] →
      offer e f z = { z with line := { l with dropped := min 65535 (l.dropped + 1) } }) ∧
    (f.isProtocol = true → 16 ≤ l.queue.length → l.waiting = [] → ∀ newer r older, l.queue = older ++ r :: newer →
      r.isProtocol = false → (∀ g ∈ newer, g.isProtocol = true) → (l.headSending = true → older ≠ []) →
      (offer e f z).line = { l with queue := older ++ newer ++ [f], dropped := min 65535 (l.dropped + 1) }) ∧
    (f.isProtocol = true → 16 ≤ l.queue.length → l.waiting = [] →
      (∀ g ∈ (if l.headSending then l.queue.tail else l.queue), g.isProtocol = true) →
      offer e f z = { z with line := { l with waiting := [f] } }) ∧
    (f.isProtocol = true → l.waiting ≠ [] → l.waiting.length < 32 →
      offer e f z = { z with line := { l with waiting := l.waiting ++ [f] } }) ∧
    (f.isProtocol = true → 32 ≤ l.waiting.length →
      offer e f z = frameAccepted e f { z with line := { l with dropped := min 65535 (l.dropped + 1) } })

/-- TRANSMIT_START: in ACTIVE or INERT, with nothing being sent, the head frame starts when the line has been quiet for 16
bit times, 24 for a report frame, and it has the line when the sender byte reads back as driven; a read-back that differs,
a shorter quiet, an empty queue and the other station states change nothing (R2, R3).
FRAME_SENT: the frame's queue entry is free, and goes to the first frame of the waiting list, which leaves the list; a
frame whose entry a warm restart has taken frees none (R3, R5). -/
def Obligations.FramesSent : Prop :=
  (∀ (s : State) (quiet : Nat) (b : Byte) (f : TxFrame) (rest : List TxFrame), s.zone.line.queue = f :: rest →
     let gap := if f.isProtocol then 16 else 24
     (s.loader.held = false → s.loader.station = .active ∨ s.loader.station = .inert → s.zone.line.sending = none →
       gap ≤ quiet → b = BitVec.ofNat 8 s.loader.number →
       exec (.transmitStart quiet b) s =
         .next { s with zone := { s.zone with line := { s.zone.line with sending := some ⟨f, true⟩ } } }) ∧
     (quiet < gap ∨ b ≠ BitVec.ofNat 8 s.loader.number ∨ s.zone.line.sending ≠ none ∨ s.loader.held = true ∨
         s.loader.station = .start ∨ s.loader.station = .joining →
       exec (.transmitStart quiet b) s = .next s) ∧
     (∀ s' : State, s'.zone.line.queue = [] → exec (.transmitStart quiet b) s' = .next s')) ∧
  (∀ (s : State) (x : Sending), s.loader.held = false → s.zone.line.sending = some x →
     let l := s.zone.line
     let q := if x.queued then l.queue.tail else l.queue
     (l.waiting = [] → exec .frameSent s =
       .next (s.endEvent { s.zone with line := { l with sending := none, justSent := some x.frame, queue := q } })) ∧
     (∀ f rest, l.waiting = f :: rest → q.length < 16 → exec .frameSent s =
       .next (s.endEvent (frameAccepted s.env f { s.zone with line :=
         { l with sending := none, justSent := some x.frame, queue := q ++ [f], waiting := rest } }))) ∧
     (∀ s' : State, s'.zone.line.sending = none → exec .frameSent s' = .next s'))

/-! ### Supply frames -/

/-- The choice among the rolls of the table: none when no roll is a candidate; else a candidate that no other comes before,
by smaller remaining length and then lower serial. A candidate is a known roll in STOCK, unreserved, unordered, of the
grade and width asked for and long enough, in an in-service lane that agrees with its detectors, with no defect and not
quarantined (R61, R62).
How a call is issued (R97 to R100, R105). A request for a filled entry is not taken. The call has a new number, one that no
call holds, the grade and width of its need, the image's minimum length and its need's deadline. A roll of the zone's own
lanes that is found and can be reserved makes it LOCAL, with the reservation and a LOCAL_LOAD request: in P to the standby
arm with the arm trigger for RUNOUT, in O to the lane for RESTOCK. Otherwise it is COLLECTING with its ROLL CALL to all, or
NO_STOCK with its fault in a zone without a receiving dock. The offer window starts when the frame is accepted into the
queue, and not while it waits to be sent. An unidentified running roll has its no stock fault once.
The candidates of R61, all conditions: a lane in service and without mismatch, of role STOCK, or for a RUNOUT call of the own
zone STAGING too, so that a BUTT lane gives none; position 1 of a THROUGH lane, any of a PICK lane; in STOCK, unreserved,
identified, of the grade and width, long enough, not quarantined, no defect, and in no pending order.
The parts of a call (R98, R106): RUNOUT has urgency RUNOUT and the time to splice as its deadline, RESTOCK urgency ROUTINE and
deadline 65,535; the reservations that count against 8 are the roll records that hold one. -/
def Obligations.CallsChosenAndIssued : Prop :=
  (∀ (e : Env) (z : Zone) (w : Wanted),
     (choose e z w = none ↔ ∀ x ∈ z.stock.rolls, candidate e z w x.1 x.2 = false) ∧
     (∀ k r, choose e z w = some (k, r) →
       (k, r) ∈ z.stock.rolls ∧ candidate e z w k r = true ∧
       (∀ x ∈ z.stock.rolls, candidate e z w x.1 x.2 = true → x.2.before r = false) ∧
       r.state = .stock ∧ r.reservation = none ∧ r.serial ≠ 0 ∧ r.defect = false ∧ quarantined z r.serial = false ∧
       serialOrdered z r.serial = false ∧
       (∃ d, r.data = some d ∧ d.grade = w.grade ∧ d.width = w.width ∧ w.minLength ≤ d.remaining) ∧
       (∃ l p c, laneOfKey k = some (l, p) ∧ laneRec z l = some c ∧ c.inService = true ∧ c.mismatch = false))) ∧
  ((∀ (e : Env) (n : Need) (z : Zone),
     (z.supply.calls.get? n.key ≠ none → askCall e n z = z) ∧
     (∀ g w, z.supply.calls.get? n.key = none → needSpec e z n = some (g, w) →
       let number := newCallNumber z
       let c : Call :=
         { number := number, need := n, urgency := needUrgency n, grade := g, width := w, minLength := e.img.minLength,
           deadline := needDeadline z n, state := .collecting, offers := [], chosen := none, takeTime := none,
           windowStart := none, reissueAt := none, late := false }
       let entered : Zone := { z with supply := { z.supply with
         calls := z.supply.calls.set n.key c, nextCall := number % 255 + 1 } }
       let asker : Asker := match n with | .runout _ => .ownRunout | .restock _ => .ownRestock
       let found := choose e z ⟨asker, g, w, e.img.minLength⟩
       (found = none ∨ (∃ k r, found = some (k, r) ∧ (canReserve z k = false ∨ laneOfKey k = none)) →
         (e.img.receivingDock = none → askCall e n z = enterNoStock e c entered) ∧
         (e.img.receivingDock ≠ none → askCall e n z = offer e
           ⟨0, .rollCall (byte number) (byte c.urgency.code) (byte g) (BitVec.ofNat 16 w) (BitVec.ofNat 24 e.img.minLength)⟩
           { entered with supply := { entered.supply with calls := entered.supply.calls.set n.key c } })) ∧
       (∀ k r l p, found = some (k, r) → canReserve z k = true → laneOfKey k = some (l, p) →
         let held := reserve k ⟨e.own, number, 0⟩ entered
         let request : OrderReq :=
           { queue := (match n with | .runout _ => .p | .restock _ => .o), origin := .localLoad, serial := r.serial,
             source := .lane l p,
             dest := (match n with
               | .runout x => .place (.arm x (standbyArm z x))
               | .restock m => if laneMode? e m = some .through then .place (.lane m 1) else .lane m),
             dockTrigger := none,
             armTrigger := (match n with | .runout x => some (x, standbyArm z x) | .restock _ => none),
             vehicle := none, callRef := some ⟨e.own, number, 0⟩ }
         askCall e n z = { held with
           supply := { held.supply with calls := held.supply.calls.set n.key { c with state := .localService } }
           agenda := held.agenda ++ [.requestOrder request] })) ∧
     (∀ r, n = .runout r → z.supply.calls.get? n.key = none → needSpec e z n = none →
       (z.supply.noStockRaised.get? r ≠ none → askCall e n z = z) ∧
       (z.supply.noStockRaised.get? r = none → askCall e n z = raise e .noStock [.reelstand r, .serial 0]
         { z with supply := { z.supply with noStockRaised := z.supply.noStockRaised.set r () } }))) ∧
   (∀ z : Zone, z.supply.calls.length ≤ 12 → 1 ≤ newCallNumber z ∧ newCallNumber z ≤ 255 ∧
     ∀ x ∈ z.supply.calls, x.2.number ≠ newCallNumber z) ∧
   (∀ (e : Env) (z : Zone) (c : Call) (k : Nat) (u g : Byte) (w : BitVec 16) (m : BitVec 24), e.station = .active →
     c.state = .collecting → c.number < 256 → z.supply.calls.get? k = some c →
     let sent := offer e ⟨0, .rollCall (byte c.number) u g w m⟩ z
     (z.line.queue.length < 16 → z.line.waiting = [] →
       sent.supply.calls.get? k = some { c with windowStart := some e.now }) ∧
     (z.line.waiting ≠ [] → z.line.waiting.length < 32 → sent.supply = z.supply))) ∧
  (∀ (e : Env) (z : Zone) (w : Wanted) (k : Nat) (r : Roll),
     candidate e z w k r = true ↔
       ∃ l p c x d, laneOfKey k = some (l, p) ∧ laneRec z l = some c ∧ c.inService = true ∧ c.mismatch = false ∧
         e.img.lane? l = some x ∧ (x.role = .stock ∨ (w.asker = .ownRunout ∧ x.role = .staging)) ∧
         (x.mode = .through → p = 1) ∧ r.state = .stock ∧ r.reservation = none ∧ r.serial ≠ 0 ∧ r.data = some d ∧
         d.grade = w.grade ∧ d.width = w.width ∧ w.minLength ≤ d.remaining ∧ quarantined z r.serial = false ∧
         r.defect = false ∧ ∀ o ∈ z.transfer.ordersP ++ z.transfer.ordersO, o.serial ≠ r.serial) ∧
  (∀ (z : Zone) (k : Nat),
     needUrgency (.runout k) = .runout ∧ needUrgency (.restock k) = .routine ∧ needDeadline z (.restock k) = 65535 ∧
     (∀ y, z.reels.get? k = some y → needDeadline z (.runout k) = y.timeToSplice) ∧
     reservedCount z = (z.stock.rolls.filter fun x => x.2.reservation.isSome).length)

/-- ROLL CALL: a zone with a candidate roll, a delivery estimate for the caller and fewer than 8 reservations answers
with one ROLL OFFER of that roll; a zone without one of them answers nothing, and the table is unchanged in every case.
A call number 0 is malformed, quantities are clamped (R191; log entry 45) (R106).
The delivery estimate (R45): the transit times of the route from the loading dock's segment to the exit segment, both included,
the hops of the exit entry times the mean transit time, twice the carriage transfer time, and the vehicle penalty when no empty
PARKED vehicle without an order stands in the zone, clamped to 65,534; none without a loading dock, an exit entry (of several the
first: log entry 69, DESIGN CHOICE) or a route. The route (R25) is a shortest path over the local successors that takes the lower
index at the first parting, and there is none only where there is no path. -/
def Obligations.RollCallAnswered : Prop :=
  (∀ (h : Header) (call u g : Byte) (w : BitVec 16) (m : BitVec 24) (s : State), s.takes h .rollCall = true →
     let e := s.env
     let z := s.heard
     let found := choose e z ⟨.peer, max 1 g.toNat, max 200 (min 2600 w.toNat), min 99999 m.toNat⟩
     (call = 0 → exec (.rollCall h call u g w m) s =
       .next (s.endFrame h { z with line := { z.line with malformed := min 65535 (z.line.malformed + 1) } })) ∧
     (∀ k r est, call ≠ 0 → found = some (k, r) → deliveryEstimate e z h.sender.toNat = some est → reservedCount z < 8 →
       exec (.rollCall h call u g w m) s =
         .next (s.endFrame h (offer e ⟨h.sender.toNat, .rollOffer call r.serial (BitVec.ofNat 24 r.remaining)
           (BitVec.ofNat 16 est) (if parkedReady z then 1 else 0)⟩ z))) ∧
     (call ≠ 0 → (found = none ∨ deliveryEstimate e z h.sender.toNat = none ∨ 8 ≤ reservedCount z) →
       exec (.rollCall h call u g w m) s = .next (s.endFrame h z))) ∧
  ((∀ (e : Env) (z : Zone) (station : Nat),
     let ready := ∃ x ∈ z.track.vehicles, x.2.state = .parked ∧ x.2.loaded = false ∧ x.2.order = none
     let start := e.img.loadingDock.bind (dockSegment e.img)
     (parkedReady z = true ↔ ready) ∧
     (∀ k x route, start = some k → e.img.exit? station = some x → routeTo e.img k x.segment = some route →
       let transit := ((k :: route).map fun j => ((e.img.segment? j).map (·.transit)).getD 0).sum
       let sum := transit + x.hops * e.img.meanTransit + 2 * e.img.transferTime
       (ready → deliveryEstimate e z station = some (min 65534 sum)) ∧
       (¬ ready → deliveryEstimate e z station = some (min 65534 (sum + e.img.penalty)))) ∧
     (start = none ∨ e.img.exit? station = none → deliveryEstimate e z station = none) ∧
     (∀ k x, start = some k → e.img.exit? station = some x → routeTo e.img k x.segment = none →
       deliveryEstimate e z station = none) ∧
     (∀ before x after, e.img.exits = before ++ x :: after → x.station = station → (∀ y ∈ before, y.station ≠ station) →
       e.img.exit? station = some x)) ∧
   (∀ (i : Image) (start goal : Nat), 1 ≤ goal → goal ≤ i.segments.length →
     let path := fun (l : List Nat) =>
       List.IsChain (fun a b => b ∈ localSuccessors i a) (start :: l) ∧ (start :: l).getLast? = some goal
     (routeTo i start goal = none ↔ ∀ l, ¬ path l) ∧
     (∀ route, routeTo i start goal = some route → path route ∧ (∀ l, path l → route.length ≤ l.length) ∧
       (∀ first a b rest rest' k, route = first ++ a :: rest → path (first ++ b :: rest') → rest'.length = rest.length →
         (start :: first).getLast? = some k → (localSuccessors i k).idxOf a ≤ (localSuccessors i k).idxOf b))))

/-- ROLL OFFER: for a call in COLLECTING or TAKING the offer takes its rank among the offers of other stations, below 6
offers as one more, with 6 in place of the worst one that may be replaced if it ranks before it; a second offer of a
station, an offer to no such call change no call (R101). A call number 0 is malformed (R191; log entry 45).
Offers stay in rank order: an offer inserted into a list that is in the order of Table 5-2-1 leaves it so, and none is
lost. -/
def Obligations.RollOfferTaken : Prop :=
  (∀ (h : Header) (call : Byte) (x : Serial) (m : BitVec 24) (est : BitVec 16) (f : Byte) (s : State),
     s.takes h .rollOffer = true →
     let z := s.heard
     let o : Offer := ⟨h.sender.toNat, x, min 99999 m.toNat, min 65534 est.toNat, f.getLsbD 0⟩
     let t := exec (.rollOffer h call x m est f) s
     (call = 0 → t =
       .next (s.endFrame h { z with line := { z.line with malformed := min 65535 (z.line.malformed + 1) } })) ∧
     (call ≠ 0 → (∀ c, callNumbered z call.toNat = some c → c.state ≠ .collecting ∧ c.state ≠ .taking) →
       t = .next (s.endFrame h z)) ∧
     (∀ c, call ≠ 0 → callNumbered z call.toNat = some c → (c.state = .collecting ∨ c.state = .taking) →
       ((∃ y ∈ c.offers, y.station = o.station) → t = .next (s.endFrame h (setCall c z))) ∧
       ((∀ y ∈ c.offers, y.station ≠ o.station) → c.offers.length < 6 →
         t = .next (s.endFrame h (setCall { c with offers := insertOffer o c.offers } z))) ∧
       ((∀ y ∈ c.offers, y.station ≠ o.station) → 6 ≤ c.offers.length → ∀ y, worstOffer c = some y →
         t = .next (s.endFrame h (setCall
           (if o.before y then { c with offers := insertOffer o (c.offers.filter (· ≠ y)) } else c) z))))) ∧
  (∀ (o : Offer) (l : List Offer), l.Pairwise (fun a b => b.before a = false) →
     (insertOffer o l).Pairwise (fun a b => b.before a = false) ∧ (insertOffer o l).Perm (o :: l))

/-- ROLL TAKE: the roll named is reserved for the caller, answered CONFIRMED, and a SHIP order is asked for, in P for
urgency RUNOUT and in O for ROUTINE, when it stands free in an in-service STOCK lane of a zone that can ship to the
caller and has fewer than 8 reservations; in any other case the answer is GONE and nothing is reserved (R107). A call
number 0 or an urgency other than 1 and 2 makes the frame malformed (R191; log entry 45); the reservation keeps the dock
of the take (log entry 36, DEDUCED).
CALL WITHDRAW: the reservation of the sender under this call number is released, a RESERVED roll is in STOCK again
and the restock check runs, and its SHIP order is cancelled where that is still possible; with no such reservation the
frame is ignored, and no answer is sent (R109). A call number 0 is malformed (R191; log entry 45). -/
def Obligations.TakesAnsweredAndWithdrawn : Prop :=
  (∀ (h : Header) (call : Byte) (x : Serial) (u d : Byte) (s : State), s.takes h .rollTake = true →
     let e := s.env
     let z := s.heard
     let t := exec (.rollTake h call x u d) s
     let gone := Host.Outcome.next (s.endFrame h (offer e ⟨h.sender.toNat, .takeAnswer call x 2⟩ z))
     let fit := fun (l : Nat) (r : Roll) =>
       (∃ c, e.img.lane? l = some c ∧ c.role = .stock) ∧ (∃ c, laneRec z l = some c ∧ c.inService = true ∧ c.mismatch = false) ∧
         r.state = .stock ∧ r.reservation = none ∧ reservedCount z < 8 ∧ quarantined z r.serial = false ∧
         r.defect = false ∧ serialOrdered z r.serial = false ∧ e.img.loadingDock ≠ none ∧
         e.img.exit? h.sender.toNat ≠ none
     ((call = 0 ∨ (u ≠ 1 ∧ u ≠ 2)) →
       t = .next (s.endFrame h { z with line := { z.line with malformed := min 65535 (z.line.malformed + 1) } })) ∧
     (call ≠ 0 → (u = 1 ∨ u = 2) → findSerial z x = none → t = gone) ∧
     (∀ k r, call ≠ 0 → (u = 1 ∨ u = 2) → findSerial z x = some (k, r) → z.stock.rolls.get? k = some r →
       (laneOfKey k = none → t = gone) ∧
       (∀ l p, laneOfKey k = some (l, p) →
         (¬ fit l r → t = gone) ∧
         (fit l r → t = .next (s.endFrame h
           ((offer e ⟨h.sender.toNat, .takeAnswer call x 1⟩
             (reserve k ⟨h.sender.toNat, call.toNat, d.toNat⟩ z)).push
               (.requestOrder (shipRequest e (if u = 1 then .p else .o) x (.lane l p)
                 ⟨h.sender.toNat, call.toNat, d.toNat⟩)))))))) ∧
  (∀ (h : Header) (call : Byte) (s : State), s.takes h .callWithdraw = true →
     let e := s.env
     let z := s.heard
     let t := exec (.callWithdraw h call) s
     (call = 0 → t =
       .next (s.endFrame h { z with line := { z.line with malformed := min 65535 (z.line.malformed + 1) } })) ∧
     (call ≠ 0 → reservationKey z h.sender.toNat call.toNat = none → t = .next (s.endFrame h z)) ∧
     (∀ k r, call ≠ 0 → reservationKey z h.sender.toNat call.toNat = some k → z.stock.rolls.get? k = some r →
       r.reservation ≠ none →
       let free : Zone :=
         { z with stock := { z.stock with rolls := z.stock.rolls.set k { r with
                    reservation := none, state := if r.state = .reserved then .stock else r.state } }
                  agenda := z.agenda ++ [.restock] }
       t = .next (s.endFrame h (cancelShip e h.sender.toNat call.toNat free)) ∧
       (z.transfer.heldP = [] → z.transfer.heldO = [] → (∀ o ∈ allOrders z, o.req.origin ≠ .ship) →
         t = .next (s.endFrame h free))))

/-- TAKE ANSWER at the caller, by Table 5-3-1: CONFIRMED for the chosen offer of a call in TAKING confirms it, and is
ignored in CONFIRMED; GONE removes the chosen offer and the next is taken, or the call enters NO_STOCK; CONFIRMED in any
other case brings a CALL WITHDRAW, GONE is ignored (R104). A call number 0 or a result other than 1 and 2 is malformed
(R191; log entry 45, DEDUCED). -/
def Obligations.TakeAnswerTaken : Prop :=
  ∀ (h : Header) (call : Byte) (x : Serial) (r : Byte) (s : State), s.takes h .takeAnswer = true →
    let e := s.env
    let z := s.heard
    let t := exec (.takeAnswer h call x r) s
    let known := fun (c : Call) => callNumbered z call.toNat = some c ∧ (c.state = .taking ∨ c.state = .confirmed) ∧
      ∃ o, c.chosen = some o ∧ o.station = h.sender.toNat ∧ o.serial = x
    ((call = 0 ∨ (r ≠ 1 ∧ r ≠ 2)) →
      t = .next (s.endFrame h { z with line := { z.line with malformed := min 65535 (z.line.malformed + 1) } })) ∧
    (∀ c, call ≠ 0 → known c →
      (r = 1 → c.state = .taking → t = .next (s.endFrame h (setCall { c with state := .confirmed } z))) ∧
      (r = 1 → c.state = .confirmed → t = .next (s.endFrame h z)) ∧
      (∀ o rest, r = 2 → c.offers.filter (fun y => c.chosen ≠ some y) = o :: rest →
        t = .next (s.endFrame h (offer e
          ⟨o.station, .rollTake (byte c.number) o.serial (byte c.urgency.code) (byte (e.img.receivingDock.getD 0))⟩
          (setCall { c with offers := o :: rest, state := .taking, chosen := some o, takeTime := none,
                            late := c.deadline < o.estimate } z)))) ∧
      (r = 2 → c.offers.filter (fun y => c.chosen ≠ some y) = [] →
        t = .next (s.endFrame h (enterNoStock e { c with offers := [], chosen := none, takeTime := none } z)))) ∧
    (call ≠ 0 → (∀ c, ¬ known c) →
      (r = 1 → t = .next (s.endFrame h (offer e ⟨h.sender.toNat, .callWithdraw call⟩ z))) ∧
      (r = 2 → t = .next (s.endFrame h z)))

/-! ### Hand-over frames -/

/-- PASS OFFER at the receiving zone: a target that is no boundary entry for the sender is ignored; a FREE target with a
free slot and no earlier deferred offer is RESERVED for the vehicle, an INCOMING record is made and PASS ACCEPT sent; a
repeated offer of an INCOMING vehicle is accepted again; an offer that cannot be accepted joins the deferred list, and
is answered PASS DEFER, or is ignored when the list holds 4; an offer with a field outside its list is malformed (R39,
R191; which fields make it so is log entry 26, DEDUCED).
The second and third case of R39: an offer whose vehicle is in the deferred list already is answered PASS DEFER again and
keeps its place; one whose vehicle number stands in another record joins the deferred list, answered PASS DEFER, below 4
offers, and is ignored at 4. -/
def Obligations.PassOfferReceived : Prop :=
  (∀ (h : Header) (v : PassVehicle) (r : PassRoll) (s : State), s.takes h .passOffer = true →
     let e := s.env
     let z := s.heard
     let b := h.sender.toNat
     let t := exec (.passOffer h v r) s
     (passOfferOf e b 0 v r = none → t =
       .next (s.endFrame h { z with line := { z.line with malformed := min 65535 (z.line.malformed + 1) } })) ∧
     ((v.number = 0 ∨ 63 < v.number.toNat ∨ v.home = 0 ∨ 30 < v.home.toNat ∨ 4 < v.purpose.toNat ∨ 1 < r.load.toNat) →
       passOfferOf e b 0 v r = none) ∧
     (∀ o, passOfferOf e b 0 v r = some o →
       (boundaryEntry e.img b o.target = false → t = .next (s.endFrame h z)) ∧
       (∀ slot w, boundaryEntry e.img b o.target = true → findVehicle z o.number = some (slot, w) → w.state = .incoming →
         w.offeredBy = some b → w.current = some o.target →
         t = .next (s.endFrame h (offer e ⟨b, .passAccept (byte o.number) (byte o.target)⟩ z))) ∧
       (∀ slot, boundaryEntry e.img b o.target = true → findVehicle z o.number = none →
         (∀ d ∈ z.track.deferred, d.number ≠ o.number ∧ d.target ≠ o.target) → freeVehicleSlot z = some slot →
         segState z o.target = some .free →
         t = .next (s.endFrame h (offer e ⟨b, .passAccept (byte o.number) (byte o.target)⟩
           { z with track := { z.track with
               segments := z.track.segments.modify o.target fun k => { k with state := .reserved o.number }
               vehicles := z.track.vehicles.set slot
                 { number := o.number, state := .incoming, current := some o.target, granted := none, trailing := none,
                   loaded := o.roll.isSome, purpose := o.purpose, order := none, home := o.home, route := [],
                   handOver := .none, handOverTime := s.time, offeredTo := none, repeatAt := 0, unconfirmed := false,
                   offeredBy := some b, carried := o.roll, claim := 0 } } }))) ∧
       (boundaryEntry e.img b o.target = true → findVehicle z o.number = none →
         (∀ d ∈ z.track.deferred, d.number ≠ o.number) → (freeVehicleSlot z = none ∨ segState z o.target ≠ some .free ∨ ∃ d ∈ z.track.deferred, d.target = o.target) →
         (z.track.deferred.length < 4 →
           t = .next (s.endFrame h (offer e ⟨b, .passDefer (byte o.number) (byte o.target)⟩
             { z with track := { z.track with claims := z.track.claims + 1,
                                              deferred := z.track.deferred ++ [{ o with claim := z.track.claims + 1 }] } }))) ∧
         (4 ≤ z.track.deferred.length → t = .next (s.endFrame h z))))) ∧
  (∀ (e : Env) (o : PassOffer) (z : Zone), boundaryEntry e.img o.station o.target = true →
     let defer := fun (z' : Zone) => offer e ⟨o.station, .passDefer (byte o.number) (byte o.target)⟩ z'
     let other := ∃ slot v, findVehicle z o.number = some (slot, v) ∧
       (v.state ≠ .incoming ∨ v.offeredBy ≠ some o.station ∨ v.current ≠ some o.target)
     ((∃ d ∈ z.track.deferred, d.number = o.number) → (findVehicle z o.number = none ∨ other) →
       receiveOffer e o z = defer z) ∧
     ((∀ d ∈ z.track.deferred, d.number ≠ o.number) → other →
       (z.track.deferred.length < 4 → receiveOffer e o z = defer { z with track := { z.track with
         claims := z.track.claims + 1, deferred := z.track.deferred ++ [{ o with claim := z.track.claims + 1 }] } }) ∧
       (4 ≤ z.track.deferred.length → receiveOffer e o z = z)))

/-- PASS ACCEPT and PASS DEFER at the sending zone, for the vehicle offered to that station and segment. An accepted vehicle
in OFFERED, TIMED_OUT or DEFERRED goes to PASSING with status ACCEPTED, its segment's points toward the neighbour and the
permit on; a deferred one becomes HELD and DEFERRED, and its offer is repeated 300 ds after the last PASS DEFER; any other
answer is ignored (R36). A vehicle number outside 1 to 63 is malformed (R191).
PASS DONE: the record of the ACCEPTED vehicle is deleted with the roll at its place, its segment's permit goes off,
and the freed slot goes to the deferred list, to the oldest offer that fits, then to that of the vehicle number which
left (their order is log entry 19, DEDUCED); with any other status, or for no such vehicle, it is ignored (R38, R40). A
vehicle number outside 1 to 63 is malformed (R191).
Who gets a freed vehicle slot or a vehicle number that has left the table (R40; their order is log entry 19): the oldest
deferred offer whose target is FREE and whose vehicle stands in no record; then the offer of the number that left, its
target FREE and a slot free. An accepted offer leaves the list, its target is RESERVED, an INCOMING record with the offered
purpose, home and load is made, and PASS ACCEPT is sent (R39). -/
def Obligations.HandOverAnswersTaken : Prop :=
  (∀ (h : Header) (n k : Byte) (s : State), s.takes h .passAccept = true →
     let e := s.env
     let z := s.heard
     let bad := Host.Outcome.next
       (s.endFrame h { z with line := { z.line with malformed := min 65535 (z.line.malformed + 1) } })
     ((n = 0 ∨ 63 < n.toNat) → exec (.passAccept h n k) s = bad ∧ exec (.passDefer h n k) s = bad) ∧
     (1 ≤ n.toNat → n.toNat ≤ 63 →
       (answered z h.sender.toNat n.toNat k.toNat = none →
         exec (.passAccept h n k) s = .next (s.endFrame h z) ∧ exec (.passDefer h n k) s = .next (s.endFrame h z)) ∧
       (∀ slot v, answered z h.sender.toNat n.toNat k.toNat = some (slot, v) →
         v.offeredTo = some (h.sender.toNat, k.toNat) ∧
         ((v.handOver = .none ∨ v.handOver = .accepted) →
           exec (.passAccept h n k) s = .next (s.endFrame h z) ∧ exec (.passDefer h n k) s = .next (s.endFrame h z)) ∧
         (∀ c cfg, (v.handOver = .offered ∨ v.handOver = .timedOut ∨ v.handOver = .deferred) → v.current = some c →
           e.img.segment? c = some cfg →
           exec (.passAccept h n k) s = .next (s.endFrame h
             (modVehicle slot (fun v => { v with state := .passing, handOver := .accepted, handOverTime := s.time,
                                                 unconfirmed := false })
               (setPermit c true (setPoints e c
                 (if cfg.succ1.station = h.sender.toNat ∧ cfg.succ1.segment = k.toNat then 1 else 2) z))))) ∧
         ((v.handOver = .offered ∨ v.handOver = .timedOut) →
           exec (.passDefer h n k) s = .next (s.endFrame h
             (modVehicle slot (fun v => { v with handOver := .deferred, handOverTime := s.time, state := .held,
                                                 repeatAt := s.time + 300 }) z))) ∧
         (v.handOver = .deferred →
           exec (.passDefer h n k) s = .next (s.endFrame h
             (modVehicle slot (fun v => { v with repeatAt := s.time + 300 }) z)))))) ∧
  (∀ (h : Header) (n k : Byte) (s : State), s.takes h .passDone = true →
     let e := s.env
     let z := s.heard
     let t := exec (.passDone h n k) s
     ((n = 0 ∨ 63 < n.toNat) → t =
       .next (s.endFrame h { z with line := { z.line with malformed := min 65535 (z.line.malformed + 1) } })) ∧
     (1 ≤ n.toNat → n.toNat ≤ 63 → answered z h.sender.toNat n.toNat k.toNat = none → t = .next (s.endFrame h z)) ∧
     (∀ slot v, 1 ≤ n.toNat → n.toNat ≤ 63 → answered z h.sender.toNat n.toNat k.toNat = some (slot, v) →
       (v.handOver ≠ .accepted → t = .next (s.endFrame h z)) ∧
       (∀ c, v.handOver = .accepted → v.current = some c → segState z c = some (.occupied v.number) →
         t = .next (s.endFrame h (offerLeftNumber e v.number (offerFreedSlot e
           { z with track := { z.track with segments := z.track.segments.modify c fun x => { x with permit := false }
                                            vehicles := z.track.vehicles.erase slot }
                    stock := { z.stock with rolls := z.stock.rolls.erase (768 + slot) } }))) ∧
         (z.track.deferred = [] → t = .next (s.endFrame h
           { z with track := { z.track with segments := z.track.segments.modify c fun x => { x with permit := false }
                                            vehicles := z.track.vehicles.erase slot }
                    stock := { z.stock with rolls := z.stock.rolls.erase (768 + slot) } }))))) ∧
  (∀ (e : Env) (z : Zone),
     let fits := fun (o : PassOffer) => segState z o.target = some .free ∧ findVehicle z o.number = none
     let accepted := fun (slot : Nat) (o : PassOffer) =>
       offer e ⟨o.station, .passAccept (byte o.number) (byte o.target)⟩
         { z with track := { z.track with
             deferred := z.track.deferred.erase o
             segments := z.track.segments.modify o.target fun k => { k with state := .reserved o.number }
             vehicles := z.track.vehicles.set slot
               { number := o.number, state := .incoming, current := some o.target, granted := none, trailing := none,
                 loaded := o.roll.isSome, purpose := o.purpose, order := none, home := o.home, route := [],
                 handOver := .none, handOverTime := e.now, offeredTo := none, repeatAt := 0, unconfirmed := false,
                 offeredBy := some o.station, carried := o.roll, claim := 0 } } }
     (freeVehicleSlot z = none ∨ (∀ o ∈ z.track.deferred, ¬ fits o) → offerFreedSlot e z = z) ∧
     (∀ slot older o newer, freeVehicleSlot z = some slot → z.track.deferred = older ++ o :: newer → fits o →
       (∀ p ∈ older, ¬ fits p) → offerFreedSlot e z = accepted slot o) ∧
     (∀ n, freeVehicleSlot z = none ∨ (∀ o ∈ z.track.deferred, o.number = n → ¬ fits o) → offerLeftNumber e n z = z) ∧
     (∀ slot older o newer, freeVehicleSlot z = some slot → z.track.deferred = older ++ o :: newer → fits o →
       (∀ p ∈ older, p.number ≠ o.number) → offerLeftNumber e o.number z = accepted slot o) ∧
     (∀ (slot : Nat) (v : Vehicle) (c : Nat), v.current = some c →
       segState z c = some (.occupied v.number) ∨ segState z c = some .blocked →
       deletePassed e slot v z = offerLeftNumber e v.number (offerFreedSlot e (eraseRoll (.vehicle slot)
         { z with track := { z.track with
             segments := z.track.segments.modify c fun k => { k with permit := false }
             vehicles := z.track.vehicles.erase slot } }))))

/-! ### Waste and lot alerts -/

/-- ROLL WASTE: the length is added to the waste length of the record that the table holds at a place other than a vehicle
in PASSING, else to the record carried by an INCOMING vehicle, saturating at 65,535 m; otherwise it is ignored; in JOINING
it is not taken (R163). That a carried record is charged also where a vehicle in PASSING holds the serial, and of several the
one of the lowest slot, is the model's choice (log entry 53, DESIGN CHOICE).
A lot alert, from a peer by LOT ALERT or from the zone's own counters: nothing when the image does not accept alerts
or an enabled slot covers the whole lot; else the lowest free slot gets the lot with origin ALERT of the alerting
station; with no free slot the quarantine full fault is raised, naming lot and station (R67). A slot written asks for
the restock check (R64); an alert of the zone's own writes its own table first and then sends LOT ALERT to all (R176). -/
def Obligations.WasteAndAlertsTaken : Prop :=
  (∀ (h : Header) (x : Serial) (m : BitVec 16) (s : State), s.takes h .rollWaste = true →
     let z := s.heard
     let t := exec (.rollWaste h x m) s
     let charged := fun (r : Roll) => { r with waste := min 65535 (r.waste + m.toNat) }
     (∀ k, ownPlace z x = some k → t = .next (s.endFrame h
       { z with stock := { z.stock with rolls := z.stock.rolls.modify k charged } })) ∧
     (∀ slot, x ≠ 0 → ownPlace z x = none → carriedSlot z x = some slot → t = .next (s.endFrame h
       { z with track := { z.track with vehicles := z.track.vehicles.modify slot fun v =>
         { v with carried := v.carried.map charged } } })) ∧
     ((x = 0 ∨ (ownPlace z x = none ∧ carriedSlot z x = none)) → t = .next (s.endFrame h z)) ∧
     (∀ k, ownPlace z x = some k → ∃ r, findSerial z x = some (k, r) ∧ onPassing z k = false) ∧
     (∀ s' t' : State, s'.loader.station = .joining → exec (.rollWaste h x m) s' = .next t' →
       t'.zone.stock = s'.zone.stock ∧ t'.zone.track = s'.zone.track)) ∧
  ((∀ (h : Header) (lot roll : Serial) (s : State), s.takes h .lotAlert = true →
     exec (.lotAlert h lot roll) s = .next (s.endFrame h (addAlert s.env lot h.sender.toNat s.heard))) ∧
   (∀ (e : Env) (x : Serial) (z : Zone),
     sendAlert e x z = offer e ⟨0, .lotAlert (x &&& 0xFFFFFF00#32) x⟩ (addAlert e x e.own z)) ∧
   (∀ (e : Env) (lot : Serial) (station : Nat) (z : Zone),
     let whole := ∃ x ∈ z.stock.slots, x.2.covers (lot &&& 0xFFFFFF00#32) = true ∧ x.2.covers (lot ||| 0x000000FF#32) = true
     let written : Slot := ⟨lot &&& 0xFFFFFF00#32, lot ||| 0x000000FF#32, .alert station⟩
     (e.img.acceptAlerts = false → addAlert e lot station z = z) ∧
     (whole → addAlert e lot station z = z) ∧
     (∀ k, e.img.acceptAlerts = true → ¬ whole → freeSlot z = some k →
       addAlert e lot station z =
         { z with stock := { z.stock with slots := z.stock.slots.set k written }
                  agenda := z.agenda ++ [.restock] }) ∧
     (e.img.acceptAlerts = true → ¬ whole → freeSlot z = none →
       addAlert e lot station z =
         raise e .quarantineFull [.serial (lot &&& 0xFFFFFF00#32), .station station] z) ∧
     (∀ k, freeSlot z = some k → 1 ≤ k ∧ k ≤ 4 ∧ (∀ j, 1 ≤ j → j < k → ∃ x, z.stock.slots.get? j = some x ∧
       (x.enabled = true ∨ x.origin = .image)))))

/-! ### Terminal frames: each accepted request gets one answer (R10) -/

/-- ROLL ENTRY, in the order of its checks: a place or a value outside its range gives REFUSED_RANGE; a serial that the
table already holds, or a place that the running order names, REFUSED_STATE; an unidentified entry on a lane position,
an arm or the carriage takes the serial and the attributes and keeps its other fields, and one whose defect flag is set
alerts (R176); an empty lane position whose detector shows a roll, and a vehicle that may be loaded, get a new record; a
place with an identified record, and an empty place otherwise, REFUSED_STATE (R68, R49). That a dock place is out of
range, that the running order takes the new serial at CARRIAGE, and how a place is matched with the places of an order
(orderNames) is the model's choice (log entry 30), as is that the alert names no reelstand off an arm and comes before the
answer (log entry 75, DESIGN CHOICE).
What the entry of a roll on a running arm changes (R129, R157). Its measurement record takes serial and caliper, with
L_splice and L_min anew; an UNSEEDED one with a length entered takes it as L_load and L_count, fed length 0, and counts from
it; in MEASURING L_meas is formed anew from the average; L_rem falls to its source or stays, and what follows a change of
L_rem follows (R128). The web's latest serial, where it is 0, becomes the entered one: the new serial of the tail mark, or
the folder roll with no mark on the path. The WF is told only where the roll of the entry is RUNNING (log entry 68,
DEDUCED). -/
def Obligations.RollEntryDecided : Prop :=
  (∀ (h : Header) (c : PlaceCode) (x : Serial) (g : Byte) (w : BitVec 16) (cal : Byte) (m : BitVec 24) (s : State),
     s.takes h .rollEntry = true →
     let e := s.env
     let z := s.heard
     let t := exec (.rollEntry h c x g w cal m) s
     let with' := fun (r : Result) (z' : Zone) => Host.Outcome.next (s.endFrame h (s.answered h .rollEntry r (refPlace c x) z'))
     let inRange := x ≠ 0 ∧ g ≠ 0 ∧ 200 ≤ w.toNat ∧ w.toNat ≤ 2600 ∧ m.toNat ≤ 99999
     let data : RollData := ⟨g.toNat, w.toNat, max 40 (min 150 cal.toNat), m.toNat⟩
     let told := fun (r : Roll) (reel : Option Nat) (z : Zone) => if r.defect then identifiedAlert e x reel r.breaks z else z
     ((c.decode = none ∨ (∃ d, c.decode = some (.dock d)) ∨ (∃ p, c.decode = some p ∧ e.img.hasPlace p = false) ∨ ¬ inRange) →
       t = with' .refusedRange z) ∧
     (∀ p, c.decode = some p → (∀ d, p ≠ .dock d) → e.img.hasPlace p = true → inRange →
       ((findSerial z x ≠ none ∨ ∃ o, runningOrder z = some o ∧ orderNames e z o p = true) → t = with' .refusedState z) ∧
       (findSerial z x = none → (∀ o, runningOrder z = some o → orderNames e z o p = false) →
         (∀ r, rollAt z p = some r → r.serial ≠ 0 → t = with' .refusedState z) ∧
         (∀ l q r, p = .lane l q → rollAt z p = some r → r.serial = 0 →
           t = with' .done (told r none (setRoll p
             { r with serial := x, data := some data, state := if laneRole? e l = some .butt then .butt else .stock } z))) ∧
         (∀ l q, p = .lane l q → rollAt z p = none → laneDetector e l q = false → t = with' .refusedState z) ∧
         (∀ l q, p = .lane l q → rollAt z p = none → laneDetector e l q = true →
           t = with' .done (laneEntered e l (setRoll p
             { serial := x, data := some data, state := if laneRole? e l = some .butt then .butt else .stock,
               reservation := none, breaks := 0, waste := 0, defect := false } z))) ∧
         (∀ n a r, p = .arm n a → rollAt z p = some r → r.serial = 0 →
           t = with' .done (told r (some n) (tellIdentified e n a ⟨x, g.toNat, w.toNat, cal.toNat, m.toNat⟩
             (setRoll p { r with serial := x, data := some data } z)))) ∧
         (∀ r, p = .carriage → rollAt z p = some r → r.serial = 0 →
           t = with' .done (told r none (match runningOrder z with
             | some o => if o.serial = 0 then modOrder o.number (fun o => { o with serial := x })
                 (setRoll p { r with serial := x, data := some data } z)
               else setRoll p { r with serial := x, data := some data } z
             | none => setRoll p { r with serial := x, data := some data } z))) ∧
         (p = .carriage → rollAt z p = none → t = with' .refusedState z) ∧
         (∀ n a, p = .arm n a → rollAt z p = none → t = with' .refusedState z) ∧
         (∀ slot v, p = .vehicle slot → vehicle? z slot = some v → mayBeLoaded v = true → rollAt z p = none →
           t = with' .done (setPurpose e slot (.returnTo e.own) (modVehicle slot (fun v => { v with loaded := true })
             (setRoll p { serial := x, data := some data, state := .shipping, reservation := none, breaks := 0, waste := 0,
                          defect := false } z)))) ∧
         (∀ slot, p = .vehicle slot → (∀ v, vehicle? z slot = some v → mayBeLoaded v = false) ∨ rollAt z p ≠ none →
           t = with' .refusedState z)))) ∧
  ((∀ (m : Meas) (c : ReelCfg) (serial : Serial) (caliper metres : Nat),
     let t := m.identified c serial caliper metres
     let L := fun (x : Nat) => if x ≤ c.core then 0 else (x * x - c.core * c.core) * 79577 / (1000 * caliper)
     let taken := m.seed = .unseeded ∧ 0 < metres
     t.serial = serial ∧ t.caliper = caliper ∧ t.spliceLength = L c.splice ∧ t.minLength = L c.margin ∧ t.state = m.state ∧
     t.readings = m.readings ∧ t.average = m.average ∧ t.reference = m.reference ∧ t.rejects = m.rejects ∧
     t.totalRejects = m.totalRejects ∧ t.lastRejected = m.lastRejected ∧
     (taken → t.seed = .fromRecord ∧ t.loadLength = metres * 1000 ∧ t.countLength = metres * 1000 ∧ t.fed = 0) ∧
     (¬ taken → t.seed = m.seed ∧ t.loadLength = m.loadLength ∧ t.countLength = m.countLength ∧ t.fed = m.fed) ∧
     (m.state = .measuring → t.measLength = m.average.map L ∧
       (m.average = none → t.remaining = m.remaining) ∧ (∀ av, m.average = some av → t.remaining = min m.remaining (L av))) ∧
     (m.state ≠ .measuring → t.measLength = m.measLength) ∧
     (m.state = .seeded ∨ m.state = .deadReckoning →
       t.remaining = if t.seed = .fromRecord then min m.remaining t.countLength else m.remaining) ∧
     (m.state = .noRoll → t.remaining = m.remaining)) ∧
   (∀ (w : WebPath) (s : Serial),
     (∀ front m, w.marks = front ++ [m] →
       w.identified s = if m.new = 0 then { w with marks := front ++ [{ m with new := s }] } else w) ∧
     (w.marks = [] → w.identified s = if w.folderRoll = some 0 then { w with folderRoll := some s } else w)) ∧
   (∀ (e : Env) (r : Nat) (x : Arm) (n : Entry) (z : Zone) (y : Reel) (c : ReelCfg) (w : Splice) (k : Roll),
     z.reels.get? r = some y → e.img.reel? r = some c → z.splice.stands.get? r = some w → rollAt z (.arm r x) = some k →
     let new := (y.meas x).identified c n.serial (max 40 (min 150 n.caliper)) n.remaining
     let set : Zone := { z with reels := z.reels.modify r fun y => y.setMeas x new }
     let measured := if y.running = some x then (if new.remaining = (y.meas x).remaining then set else lengthChanged e r x set)
       else z
     (w.running = some x → k.state = .running → tellIdentified e r x n z = { measured with folder :=
       { measured.folder with webs := measured.folder.webs.modify r fun w => w.identified n.serial } }) ∧
     (w.running ≠ some x ∨ k.state ≠ .running → tellIdentified e r x n z = measured)))

/-- ROLL REMOVE: a serial that no place holds gives UNKNOWN_ROLL; serial 0 names the unidentified entry at a place, and
a place outside the zone's table gives REFUSED_RANGE; a running or reserved roll, one that an order names or whose place
an order names, one on the carriage, on an arm in a splice or on a vehicle in PASSING gives REFUSED_STATE; otherwise the
record is deleted, with what follows for its place (R69). The matching of places (orderNames), a dock place as out of
range (tableHas), and the other records of a THROUGH lane left where they stand are the model's choice (log entry 30). -/
def Obligations.RollRemoveDecided : Prop :=
  ∀ (h : Header) (x : Serial) (c : PlaceCode) (s : State), s.takes h .rollRemove = true →
    let e := s.env
    let z := s.heard
    let t := exec (.rollRemove h x c) s
    let with' := fun (r : Result) (z' : Zone) =>
      Host.Outcome.next (s.endFrame h (s.answered h .rollRemove r (refPlace c x) z'))
    let gone := fun (p : Place) => ({ z with stock := { z.stock with rolls := z.stock.rolls.erase p.key } } : Zone)
    (x ≠ 0 → findSerial z x = none → t = with' .unknownRoll z) ∧
    (x = 0 → (c.decode = none ∨ ∃ p, c.decode = some p ∧ tableHas e p = false) → t = with' .refusedRange z) ∧
    (∀ p, x = 0 → c.decode = some p → tableHas e p = true → (∀ r, rollAt z p = some r → r.serial ≠ 0) →
      t = with' .unknownRoll z) ∧
    (∀ p r, removeNamed e z x c = .roll p r →
      ((r.state = .running ∨ r.reservation ≠ none ∨ serialOrdered z r.serial = true ∨
          (∃ o ∈ allOrders z, orderNames e z o p = true) ∨ p = .carriage ∨ armSplicing z p = true ∨
          onPassing z p.key = true) → t = with' .refusedState z) ∧
      (r.state ≠ .running → r.reservation = none → serialOrdered z r.serial = false →
        (∀ o ∈ allOrders z, orderNames e z o p = false) → armSplicing z p = false → onPassing z p.key = false →
        (∀ l q, p = .lane l q → t = with' .done (laneLeft e l (gone p))) ∧
        (∀ n a, p = .arm n a → t = with' .done (recordLeft e n a (gone p))) ∧
        (∀ slot, p = .vehicle slot →
          t = with' .done (setPurpose e slot .home (modVehicle slot (fun v => { v with loaded := false }) (gone p))))))

/-- ORDER REQUEST: a queue or place byte outside its list, equal places, a place that is no lane position or arm (or SCRAP
dock, for a destination) give REFUSED_RANGE; an unknown serial UNKNOWN_ROLL; a serial already ordered REFUSED_STATE with one
more in the queue's overrun count; a full queue REFUSED_FULL; otherwise the order stands READY at the tail of its queue under
the next free number, which the answer names (R77, R73, R74).
A request of a block for an order (R74): one whose serial a pending order names is refused, with one more in the queue's
overrun count; one that finds its queue full is held, oldest first, while 32 at most are held; any other stands at the tail of
its queue under the next free number, READY or waiting for its trigger, and one that waits for a vehicle is made known to the
TC (R75). A BUTT_CLEAR order goes to the loading dock with a vehicle, to a BUTT lane, or to a SCRAP dock, by the make-up
(R76). A freed slot invites the oldest held request, which leaves its list and is requested anew.
The checks of ORDER REQUEST, the first that fails giving the answer (R77): REFUSED_RANGE for a place outside the make-up,
equal places, a source that is no lane position or arm, a destination that is none and no SCRAP dock; UNKNOWN_ROLL for a serial
that no place holds, and with serial 0 for a source that is in no THROUGH lane and holds no unidentified entry; REFUSED_STATE
for a serial that stands elsewhere, a roll reserved or RUNNING, an arm in a splice under way, a lane out of service, and a
serial ordered already; REFUSED_FULL for a full queue. With serial 0 the roll is the entry at the source, and none for a
THROUGH lane (log entry 31, DEDUCED).
A request of a block that is refused as a duplicate or not held (log entry 32, DEDUCED): a SHIP loses its reservation, and the
caller is told GONE; a LOCAL_LOAD loses its reservation, and its load fails with order number 0; a CALL_LOAD or RECEIVE tells the
same of its call, and its vehicle is looked at again 300 ds later (R112, R113). Any other is dropped. -/
def Obligations.OrderRequestsDecided : Prop :=
  (∀ (h : Header) (q : Byte) (x : Serial) (a b : PlaceCode) (s : State), s.takes h .orderRequest = true →
     let e := s.env
     let z := s.heard
     let t := exec (.orderRequest h q x a b) s
     let with' := fun (r : Result) (n : Nat) (z' : Zone) =>
       Host.Outcome.next (s.endFrame h (s.answered h .orderRequest r (refByte n) z'))
     (((q ≠ 1 ∧ q ≠ 2) ∨ a.decode = none ∨ b.decode = none) → t = with' .refusedRange 0 z) ∧
     (∀ k src dst, queueOf q = some k → a.decode = some src → b.decode = some dst →
       (operatorPlaces e src dst = false → t = with' .refusedRange 0 z) ∧
       (operatorPlaces e src dst = true → x ≠ 0 → findSerial z x = none → t = with' .unknownRoll 0 z) ∧
       (operatorPlaces e src dst = true → x ≠ 0 → findSerial z x ≠ none → serialOrdered z x = true →
         t = with' .refusedState 0 (modStat k (fun c => { c with overrun := min 65535 (c.overrun + 1) }) z)) ∧
       (∀ r, operatorRefusal e z k x src dst = some r → r ≠ .refusedState ∨ serialOrdered z x = false → t = with' r 0 z) ∧
       (operatorRefusal e z k x src dst = some .refusedFull → (if k = .p then e.img.queueB else 24 - e.img.queueB) ≤
         (ordersOf z k).length) ∧
       (operatorRefusal e z k x src dst = none →
         let n := nextNumber ((allOrders z).map (·.number)) z.transfer.nextNumber
         let o : Order :=
           { number := n,
             req := { queue := k, origin := .operator, serial := x, source := src, dest := .place dst, dockTrigger := none,
                      armTrigger := none, vehicle := none, callRef := none },
             serial := x, vehicle := none, target := none, state := .ready, step := 0, stepStart := s.time, holding := false,
             overrunRaised := false, accepted := z.transfer.accepted }
         t = with' .done n (setOrders k (ordersOf z k ++ [o]) { z with transfer :=
           { z.transfer with nextNumber := n % 255 + 1, accepted := z.transfer.accepted + 1 } })))) ∧
  (∀ (e : Env) (r : OrderReq) (z : Zone),
     let capacity := if r.queue = .p then e.img.queueB else 24 - e.img.queueB
     let held := heldOf z r.queue
     let ordered := r.serial ≠ 0 ∧ ∃ o ∈ allOrders z, o.serial = r.serial
     let kept := fun (l : List OrderReq) (z : Zone) => ({ z with transfer :=
       if r.queue = .p then { z.transfer with heldP := l } else { z.transfer with heldO := l } } : Zone)
     (ordered → requestOrder e r z =
       requestDropped e r (modStat r.queue (fun c => { c with overrun := min 65535 (c.overrun + 1) }) z)) ∧
     (¬ ordered → capacity ≤ (ordersOf z r.queue).length →
       (held.length < 32 → requestOrder e r z = kept (held ++ [r]) z) ∧
       (32 ≤ held.length → requestOrder e r z = requestDropped e r z)) ∧
     (¬ ordered → (ordersOf z r.queue).length < capacity → ∃ d trigger,
       let n := nextNumber ((allOrders z).map (·.number)) z.transfer.nextNumber
       let o : Order :=
         { number := n, req := { r with dest := d, dockTrigger := trigger }, serial := r.serial, vehicle := r.vehicle,
           target := none, state := .waitingTrigger, step := 0, stepStart := e.now, holding := false, overrunRaised := false,
           accepted := z.transfer.accepted }
       let st : OrderState := if triggerHolds e z o then .ready else .waitingTrigger
       let entered := setOrders r.queue (ordersOf z r.queue ++ [{ o with state := st }])
         { z with transfer := { z.transfer with nextNumber := n % 255 + 1, accepted := z.transfer.accepted + 1 } }
       requestOrder e r z = (if (trigger ≠ none ∧ r.vehicle = none ∧ (r.origin = .ship ∨ r.origin = .buttClear)) then
         { entered with agenda := entered.agenda ++ [.assignVehicle n] } else entered) ∧
       (r.origin ≠ .buttClear → d = r.dest ∧ trigger = r.dockTrigger) ∧
       (r.origin = .buttClear →
         (∀ k, e.img.loadingDock = some k → e.img.buttReturn ≠ 0 → d = .place (.dock k) ∧ trigger = some k) ∧
         (e.img.loadingDock = none ∨ e.img.buttReturn = 0 →
           ((∃ c ∈ e.img.lanes, c.role = .butt) → d = .anyButt ∧ trigger = none) ∧
           ((∀ c ∈ e.img.lanes, c.role ≠ .butt) → ∀ k, e.img.firstDock .scrap = some k → d = .place (.dock k) ∧ trigger = none)))) ∧
     (∀ first rest, held = first :: rest → invite e r.queue z = requestOrder e first (kept rest z)) ∧
     (held = [] → invite e r.queue z = z)) ∧
  (∀ (e : Env) (z : Zone) (q : Queue) (x : Serial) (src dst : Place),
     let lane := fun (p : Place) => ∃ l k, p = .lane l k
     let arm := fun (p : Place) => ∃ r x, p = .arm r x
     let range := e.img.hasPlace src = true ∧ e.img.hasPlace dst = true ∧ src ≠ dst ∧ (lane src ∨ arm src) ∧
       (lane dst ∨ arm dst ∨ ∃ d c, dst = .dock d ∧ e.img.dock? d = some c ∧ c.role = .scrap)
     let through := ∃ l k, src = .lane l k ∧ laneMode? e l = some .through
     let known := (x ≠ 0 ∧ findSerial z x ≠ none) ∨ (x = 0 ∧ (through ∨ ∃ r, rollAt z src = some r ∧ r.serial = 0))
     let here := (through ∧ ∃ l k p r, src = .lane l k ∧ 1 ≤ p ∧ p ≤ lanePositions e l ∧ rollAt z (.lane l p) = some r ∧
       r.serial = x) ∨ (¬ through ∧ ∃ r, rollAt z src = some r ∧ r.serial = x)
     let roll := fun (r : Roll) => (x ≠ 0 ∧ ∃ k, findSerial z x = some (k, r)) ∨ (x = 0 ∧ ¬ through ∧ rollAt z src = some r)
     let out := fun (p : Place) => ∃ l k c, p = .lane l k ∧ laneRec z l = some c ∧ c.inService = false
     let barred := (x ≠ 0 ∧ ¬ here) ∨ (∃ r, roll r ∧ (r.reservation ≠ none ∨ r.state = .running)) ∨
       (∃ r x w, src = .arm r x ∧ z.splice.stands.get? r = some w ∧
         w.state ∈ [.accelerating, .matched, .pasting, .cutting]) ∨
       out src ∨ out dst ∨ (x ≠ 0 ∧ ∃ o ∈ z.transfer.ordersP ++ z.transfer.ordersO, o.serial = x)
     let full := (if q = .p then e.img.queueB else 24 - e.img.queueB) ≤ (ordersOf z q).length
     (operatorPlaces e src dst = true ↔ range) ∧
     (¬ range → operatorRefusal e z q x src dst = some .refusedRange) ∧
     (range → ¬ known → operatorRefusal e z q x src dst = some .unknownRoll) ∧
     (range → known → barred → operatorRefusal e z q x src dst = some .refusedState) ∧
     (range → known → ¬ barred → full → operatorRefusal e z q x src dst = some .refusedFull) ∧
     (range → known → ¬ barred → ¬ full → operatorRefusal e z q x src dst = none)) ∧
  (∀ (e : Env) (r : OrderReq) (z : Zone),
     let again := fun (z : Zone) => match r.vehicle with
       | some v => ({ z with supply := { z.supply with retries := z.supply.retries.set v (e.now + 300) } } : Zone)
       | none => z
     (r.callRef = none → requestDropped e r z = if r.origin = .callLoad ∨ r.origin = .receive then again z else z) ∧
     (r.origin = .buttClear ∨ r.origin = .operator → requestDropped e r z = z) ∧
     (∀ ref, r.callRef = some ref →
       let told := fun (z : Zone) => ({ z with agenda := z.agenda ++ [.loadFailed ref.call 0 r.serial] } : Zone)
       (r.origin = .callLoad ∨ r.origin = .receive → requestDropped e r z = again (told z)) ∧
       (reservationKey z ref.station ref.call = none →
         (r.origin = .ship → requestDropped e r z = z) ∧ (r.origin = .localLoad → requestDropped e r z = told z)) ∧
       (∀ k x, reservationKey z ref.station ref.call = some k → z.stock.rolls.get? k = some x → x.reservation ≠ none →
         let freed : Zone := { z with stock := { z.stock with rolls := z.stock.rolls.set k x.released },
                                      agenda := z.agenda ++ [.restock] }
         (r.origin = .localLoad → requestDropped e r z = told freed) ∧
         (r.origin = .ship → requestDropped e r z =
           offer e ⟨ref.station, .takeAnswer (byte ref.call) x.serial 2⟩ freed))))

/-- LANE SERVICE: out takes an in-service lane out of service with its mismatch flag clear, fails the orders that touch
it and withdraws its RESTOCK call; in clears the overrun and underrun flags, and brings a lane that was out into
service; a lane outside the make-up gives REFUSED_RANGE, and a lane already out answers DONE (R60); the call is
withdrawn by R110. That the orders fail first and the call is withdrawn after is log entry 37 (DEDUCED).
A lane brought into service is in service with its overrun and underrun flags clear, and every position of a PICK lane
holds a record exactly where its detector shows a roll: an unidentified one where the table had none, the old one where both
agreed (R60).
LANE SERVICE(in), the parts beside a PICK lane's agreement (R60 steps 2 to 4): a position that reads empty and holds a
record loses it, with the mismatch fault naming lane, position and serial, and a reservation it carried is released, whose
caller is not told; and in a THROUGH lane the records that remain close up toward position 1 in their order.
LANE SERVICE(out) ends with reason LANE_OUT each order that touches the lane and whose roll the carriage does not grip,
and touches no other order (R60, R92). -/
def Obligations.LaneServiceDecided : Prop :=
  (∀ (h : Header) (b : Byte) (s : State), s.takes h .laneService = true →
     let e := s.env
     let z := s.heard
     let l := b.toNat
     let with' := fun (r : Result) (z' : Zone) => Host.Outcome.next (s.endFrame h (s.answered h .laneService r (refByte l) z'))
     (laneRec z l = none →
       exec (.laneServiceOut h b) s = with' .refusedRange z ∧ exec (.laneServiceIn h b) s = with' .refusedRange z) ∧
     (∀ c, laneRec z l = some c → c.inService = false →
       exec (.laneServiceOut h b) s = with' .done z ∧ exec (.laneServiceIn h b) s = with' .done (laneBroughtIn e l z)) ∧
     (∀ c, laneRec z l = some c → c.inService = true →
       let out := modLane l (fun c => { c with inService := false, mismatch := false }) z
       exec (.laneServiceOut h b) s = with' .done ((cancelForLane e l out).push (.withdrawCall (.restock l))) ∧
       ((∀ o ∈ allOrders z, touchesLane o l = false) →
         exec (.laneServiceOut h b) s = with' .done (out.push (.withdrawCall (.restock l)))) ∧
       exec (.laneServiceIn h b) s =
         with' .done (modLane l (fun c => { c with overrun := false, underrun := false }) z))) ∧
  (∀ (e : Env) (l : Nat) (z : Zone) (c : Lane), e.station = .active → laneRec z l = some c → laneMode? e l = some .pick →
     lanePositions e l ≤ 4 →
     ((laneRec (laneBroughtIn e l z) l).map fun c => (c.inService, c.overrun, c.underrun)) = some (true, false, false) ∧
     (∀ p, 1 ≤ p → p ≤ lanePositions e l → z.stock.rolls.sorted = true →
       (laneDetector e l p = false → rollAt (laneBroughtIn e l z) (.lane l p) = none) ∧
       (laneDetector e l p = true → rollAt z (.lane l p) = none →
         rollAt (laneBroughtIn e l z) (.lane l p) =
           some (unidentified (if laneRole? e l = some .butt then .butt else .stock))) ∧
       (∀ r, laneDetector e l p = true → rollAt z (.lane l p) = some r → r.reservation = none →
         rollAt (laneBroughtIn e l z) (.lane l p) = some r))) ∧
  ((∀ (e : Env) (l p : Nat) (z : Zone) (r : Roll), rollAt z (.lane l p) = some r → laneDetector e l p = false →
     let key := (Place.lane l p).key
     let told := fun (z' : Zone) => raise e .mismatch [.lane l, .position p, .serial r.serial] z'
     (r.reservation = none → comparePosition e l p z =
       told { z with stock := { z.stock with rolls := z.stock.rolls.erase key } }) ∧
     (r.reservation ≠ none → comparePosition e l p z =
       told { z with agenda := z.agenda ++ [.restock]
                     stock := { z.stock with rolls := (z.stock.rolls.set key { r with
                       reservation := none, state := if r.state = .reserved then .stock else r.state }).erase key } })) ∧
   (∀ (e : Env) (l p : Nat) (z : Zone), lanePositions e l ≤ 4 → 1 ≤ p → p ≤ lanePositions e l →
     let records := fun (z' : Zone) => (upTo (lanePositions e l)).filterMap fun q => rollAt z' (.lane l q)
     rollAt (closeUp e l z) (.lane l p) = (records z)[p - 1]? ∧
     (laneMode? e l = some .through → rollAt (laneBroughtIn e l z) (.lane l p) =
       (records ((upTo (lanePositions e l)).foldl (fun z q => comparePosition e l q z)
         (modLane l (fun c => { c with overrun := false, underrun := false }) z)))[p - 1]?))) ∧
  (∀ (e : Env) (l : Nat) (z : Zone),
     ((∀ o ∈ allOrders z, touchesLane o l = false ∨ (z.transfer.carriage = .running o.number ∧ 4 ≤ o.step)) →
       cancelForLane e l z = z) ∧
     (∀ o, (allOrders z).filter (fun o => touchesLane o l && !gripsFor z o) = [o] →
       cancelForLane e l z = failOrder e o .laneOut z) ∧
     (∀ o, touchesLane o l = true ↔
       (∃ p, o.req.source = .lane l p) ∨ (∃ p, o.req.dest = .place (.lane l p)) ∨ o.req.dest = .lane l ∨
         ∃ p, o.target = some (.lane l p)))

/-- QUARANTINE SET: a slot above 4 and a limit below the base, read as lots, give REFUSED_RANGE; slot 0 names the lowest free
slot, or REFUSED_FULL; a slot of origin IMAGE gives REFUSED_LOCKED; otherwise the slot is written with origin TERMINAL, the
answer names it, and a roll that only the old range covered is no longer quarantined (R65). That the slot holds base and
limit as given is the model's choice (log entry 65, DESIGN CHOICE).
QUARANTINE CLEAR: a slot outside 1 to 4 gives REFUSED_RANGE, a slot of origin IMAGE REFUSED_LOCKED; any other is free
after it, DONE; a free slot stays as it is, DONE; no roll's defect flag is touched (R66). -/
def Obligations.QuarantineDecided : Prop :=
  (∀ (h : Header) (k : Byte) (base limit : Serial) (s : State), s.takes h .quarantineSet = true →
     let z := s.heard
     let t := exec (.quarantineSet h k base limit) s
     let with' := fun (r : Result) (j : Nat) (z' : Zone) =>
       Host.Outcome.next (s.endFrame h (s.answered h .quarantineSet r (refByte j) z'))
     let lots := (base &&& 0xFFFFFF00#32).toNat ≤ (limit &&& 0xFFFFFF00#32).toNat
     let written := fun (j : Nat) => ({ z with stock := { z.stock with slots := z.stock.slots.set j ⟨base, limit, .terminal⟩ }
                                               agenda := z.agenda ++ [.restock] } : Zone)
     ((4 < k.toNat ∨ ¬ lots) → t = with' .refusedRange k.toNat z) ∧
     (k = 0 → lots → freeSlot z = none → t = with' .refusedFull 0 z) ∧
     (∀ j, k = 0 → lots → freeSlot z = some j → t = with' .done j (written j)) ∧
     (∀ x, 1 ≤ k.toNat → k.toNat ≤ 4 → lots → z.stock.slots.get? k.toNat = some x → x.origin = .image →
       t = with' .refusedLocked k.toNat z) ∧
     (1 ≤ k.toNat → k.toNat ≤ 4 → lots → (∀ x, z.stock.slots.get? k.toNat = some x → x.origin ≠ .image) →
       t = with' .done k.toNat (written k.toNat)) ∧
     (∀ j x, z.stock.slots.sorted = true → Slot.covers ⟨base, limit, .terminal⟩ x = false →
       (∀ y ∈ z.stock.slots, y.1 ≠ j → y.2.covers x = false) → quarantined (written j) x = false)) ∧
  (∀ (h : Header) (k : Byte) (s : State), s.takes h .quarantineClear = true →
     let z := s.heard
     let t := exec (.quarantineClear h k) s
     let with' := fun (r : Result) (z' : Zone) =>
       Host.Outcome.next (s.endFrame h (s.answered h .quarantineClear r (refByte k.toNat) z'))
     ((k = 0 ∨ 4 < k.toNat) → t = with' .refusedRange z) ∧
     (∀ x, 1 ≤ k.toNat → k.toNat ≤ 4 → z.stock.slots.get? k.toNat = some x → x.origin = .image →
       t = with' .refusedLocked z) ∧
     (1 ≤ k.toNat → k.toNat ≤ 4 → z.stock.slots.get? k.toNat = none → t = with' .done z) ∧
     (∀ x, 1 ≤ k.toNat → k.toNat ≤ 4 → z.stock.slots.get? k.toNat = some x → x.origin ≠ .image →
       t = with' .done { z with stock := { z.stock with slots := z.stock.slots.erase k.toNat }
                                agenda := z.agenda ++ [.restock] }))

/-- SEGMENT RELEASE, by Table 2-4-1: a BLOCKED segment that reads empty becomes FREE and is handed on, or RESERVED again for the
vehicle still to come; one whose tag is a vehicle of the table is taken by that vehicle, a vehicle in PASSING excepted; an
unknown tag is adopted while a slot is free; a stranded vehicle is sent off again; an unconfirmed hand-over that reads empty
ends; any other case gives REFUSED_STATE, and a segment outside the make-up REFUSED_RANGE (R33, R34). That a vehicle trailing
on a freed BLOCKED segment keeps its trailing entry is the model's choice (log entry 62, DESIGN CHOICE), as is the lowest slot
of several unconfirmed hand-overs (log entry 53, DESIGN CHOICE).
What SEGMENT RELEASE does with the vehicle it finds (R33, R34). An INCOMING one arrives here, and another segment that its
record named is released. One that is moved here leaves wait lists, gives up its grant, is HELD here with no hand-over (log entry
14, DESIGN CHOICE), an old segment that still shows occupancy trailing it, the current one before the old trailing one, with its
permit off (log entry 24, DESIGN CHOICE), and computes its route. One that is not in the table is adopted, HELD, empty, with no
purpose, and offered for capture; its other fields and the time of its hand-over status are the model's choice (log entry 47,
DESIGN CHOICE). A stranded one is redirected: loaded to RETURN to the own station, empty to FETCH for the oldest order that
waits, else HOME (log entry 16, DESIGN CHOICE). A change of purpose leads to a new route, from a dock or parking place HELD; that
it drops a hand-over not accepted yet is the model's choice (log entry 52, DESIGN CHOICE). -/
def Obligations.SegmentReleaseDecided : Prop :=
  (∀ (h : Header) (b : Byte) (s : State), s.takes h .segmentRelease = true →
     let e := s.env
     let z := s.heard
     let k := b.toNat
     let t := exec (.segmentRelease h b) s
     let with' := fun (r : Result) (z' : Zone) =>
       Host.Outcome.next (s.endFrame h (s.answered h .segmentRelease r (refByte k) z'))
     let incoming := z.track.vehicles.find? fun v => v.2.state = .incoming && v.2.current = some k
     (segState z k = none → t = with' .refusedRange z) ∧
     (segState z k = some .blocked → occupied e k = false →
       (incoming = none → t = with' .done (freeSegment e k z)) ∧
       (∀ x, incoming = some x → t = with' .done (setSegState k (.reserved x.2.number) z))) ∧
     (segState z k = some .blocked → occupied e k = true →
       (∀ slot v, findVehicle z (presentTag e k) = some (slot, v) →
         (v.state = .incoming → t = with' .done (takeInHere e slot k v z)) ∧
         (v.state = .passing → t = with' .refusedState z) ∧
         (v.state ≠ .incoming → v.state ≠ .passing → t = with' .done (moveHere e slot k v z))) ∧
       (∀ slot, findVehicle z (presentTag e k) = none → freeVehicleSlot z = some slot → 1 ≤ presentTag e k →
         presentTag e k ≤ 63 → t = with' .done (adopt e slot k (presentTag e k) z)) ∧
       (findVehicle z (presentTag e k) = none → (freeVehicleSlot z = none ∨ presentTag e k = 0) →
         t = with' .refusedState z)) ∧
     (∀ n slot v, segState z k = some (.occupied n) → findVehicle z n = some (slot, v) → v.state = .stranded →
       v.handOver = .none → t = with' .done (redirect e slot v z)) ∧
     (∀ st slot v, segState z k = some st → st ≠ .blocked → strandedAt z k = none → unconfirmedAt z k = some (slot, v) →
       (occupied e k = true → t = with' .refusedState z) ∧
       (occupied e k = false → t = with' .done (deletePassed e slot v z))) ∧
     (∀ st, segState z k = some st → st ≠ .blocked → strandedAt z k = none → unconfirmedAt z k = none →
       t = with' .refusedState z)) ∧
  ((∀ (e : Env) (slot k : Nat) (z : Zone) (v : Vehicle) (c : Nat), v.current = some c →
     let t := arriveIncoming e slot k z
     (c = k → takeInHere e slot k v z = t) ∧
     (c ≠ k → segState t c = some (.reserved v.number) ∨ segState t c = some .blocked →
       takeInHere e slot k v z = freeSegment e c t) ∧
     (segState t c ≠ some (.reserved v.number) → segState t c ≠ some .blocked → takeInHere e slot k v z = t)) ∧
   (∀ (e : Env) (slot k : Nat) (z : Zone) (v : Vehicle),
     let left := withdrawGrant e slot (leaveWaits e v.number z)
     let placed := fun (trail : Option Nat) (z' : Zone) =>
       routeAndGo e slot (modVehicle slot (fun x =>
           { (if x.handOver = .none then x else { x with handOver := .none, handOverTime := e.now, offeredTo := none }) with
             current := some k, trailing := trail, state := .held })
         (modSeg k (fun s => { s with state := .occupied v.number }) z'))
     (∀ c, v.current = some c → v.trailing = none → c ≠ k → segState left c = some (.occupied v.number) →
       occupied e c = true →
       moveHere e slot k v z = placed (some c) (modSeg c (fun s => { s with permit := false }) left)) ∧
     ((∀ c, v.current = some c ∨ v.trailing = some c → c = k ∨ segState left c ≠ some (.occupied v.number) ∨
         occupied e c = false) → moveHere e slot k v z = placed none left)) ∧
   (∀ (e : Env) (slot k tag : Nat) (z : Zone),
     adopt e slot k tag z =
       { z with track := { z.track with
                  vehicles := z.track.vehicles.set slot
                    { number := tag, state := .held, current := some k, granted := none, trailing := none, loaded := false,
                      purpose := .none, order := none, home := e.own, route := [], handOver := .none, handOverTime := e.now,
                      offeredTo := none, repeatAt := 0, unconfirmed := false, offeredBy := none, carried := none, claim := 0 }
                  segments := z.track.segments.modify k fun s => { s with state := .occupied tag } }
                agenda := z.agenda ++ [.offerVehicle tag .entered] }) ∧
   (∀ (e : Env) (slot : Nat) (z : Zone) (v : Vehicle),
     let held := modVehicle slot (fun v => { v with state := .held }) z
     let free := modVehicle slot (fun v => { v with home := e.own, order := none }) held
     (v.loaded = true → redirect e slot v z = setPurpose e slot (.returnTo e.own) held) ∧
     (v.loaded = false → v.order = none →
       (oldestWaiting z = none → redirect e slot v z = setPurpose e slot .home free) ∧
       (∀ o d, oldestWaiting z = some o → o.req.dockTrigger = some d → redirect e slot v z =
         setPurpose e slot (.fetch d) (modVehicle slot (fun x => { x with order := some o.number })
           (modOrder o.number (fun o => { o with vehicle := some v.number }) free))))) ∧
   (∀ (e : Env) (slot : Nat) (p : Purpose) (z : Zone) (v : Vehicle), vehicle? z slot = some v →
     inWaitList z v.number = false → setPurpose e slot p z = routeAndGo e slot (modVehicle slot (fun v =>
       { (if v.handOver = .accepted ∨ v.handOver = .none then v
          else { v with handOver := .none, handOverTime := e.now, offeredTo := none }) with
         purpose := p, state := if v.state = .docked ∨ v.state = .parked then .held else v.state }) z)) ∧
   (∀ (e : Env) (slot : Nat) (z : Zone) (v : Vehicle), vehicle? z slot = some v →
     (v.granted = none → withdrawGrant e slot z = z) ∧
     (∀ g c, v.granted = some g → v.current = some c →
       segState z c = some (.occupied v.number) ∨ segState z c = some .blocked →
       withdrawGrant e slot z = handOn e g (modSeg g (fun s => { s with state := .free })
         (modSeg c (fun s => { s with permit := false }) (modVehicle slot (fun v => { v with granted := none }) z)))) ∧
     (inWaitList z v.number = false → leaveWaits e v.number z = z)))

/-- SPLICE NOW: in PREPARED the inhibited flag clears and acceleration starts without its conditions; in ACCELERATING
and MATCHED the manual flag is set, and in MATCHED the paste is armed at once; with the flag already set nothing
changes; any other state gives REFUSED_STATE, a reelstand outside the make-up REFUSED_RANGE (R145); what a start sets is
R140, and speed matched already active passes to MATCHED at once (R141). -/
def Obligations.SpliceNowDecided : Prop :=
  ∀ (h : Header) (b : Byte) (s : State), s.takes h .spliceNow = true →
    let e := s.env
    let z := s.heard
    let r := b.toNat
    let t := exec (.spliceNow h b) s
    let with' := fun (x : Result) (z' : Zone) => Host.Outcome.next (s.endFrame h (s.answered h .spliceNow x (refByte r) z'))
    let changed := fun (f : Splice → Splice) =>
      ({ z with splice := { z.splice with stands := z.splice.stands.modify r f } } : Zone)
    let started := fun (x : Splice) =>
      { x with inhibited := false, accelerateOut := true, pasteFired := false, knifeFired := false, pasteDone := false,
               knifeDone := false, matchTimer := some (s.time + 300), state := .accelerating }
    (splice? z r = none → t = with' .refusedRange z) ∧
    (∀ x, splice? z r = some x →
      (x.state = .prepared → (reelIns e r).speedMatched = false → t = with' .done (changed started)) ∧
      (x.state = .prepared → (reelIns e r).speedMatched = true → t = with' .done (enterMatched r (changed started))) ∧
      (x.state = .accelerating → t = with' .done (changed fun x => { x with manual := true })) ∧
      (x.state = .matched → t = with' .done (changed fun x => { x with manual := true, pasteArmed := true })) ∧
      (x.state ∉ [.prepared, .accelerating, .matched] → t = with' .refusedState z))

/-- FAULT ACK: every entry and the lead context leave the record, the level is the image's again, a halted carriage ends
on an active carriage-done input, and the failed splices and the press stop request end as ackSplices gives; the answer
is DONE. With no halted carriage and no failed splice that leaves the record empty and the press stop request off (R183,
R91, R148).
The end of HALTED (R91, Table 4-5-1; what the table leaves open is log entry 35): with carriage-done inactive the
carriage stays HALTED. With it active the carriage is IDLE, the reservation of the gripped record is released, and the
record goes where the carriage place input says the carriage stands: to a free position of an in-service lane, to a free
arm, onto a docked vehicle without a load, or out of the zone at a SCRAP dock; for no place, a taken place, a lane out of
service or a dock with no such vehicle it is deleted, and the mismatch fault names CARRIAGE and the serial. The caller of
a SHIP order whose reservation ends so is told GONE (R108).
The end of SPLICE_FAILED on FAULT ACK (R149): with the web break input active the reelstand stays as it is. With it
inactive a running arm that holds a record makes it SINGLE, and LOADED with the inhibited flag when the other arm holds a
standby roll, PREPARED when standby ready is active; an empty running arm gives way to the standby roll of the other;
with neither, it is EMPTY with no running arm. A roll on the running arm that was not RUNNING is reported to the web
path (R156). The press stop request goes off unless a reelstand is left in SPLICE_FAILED (R148). That the reelstands are served
in rising number is the model's choice (log entry 67, DESIGN CHOICE). -/
def Obligations.FaultAckDecided : Prop :=
  (∀ (h : Header) (s : State), s.takes h .faultAck = true →
     let e := s.env
     let z : Zone := { s.heard with faults := ⟨[], none, some e.img.level⟩ }
     let t := exec (.faultAck h) s
     t = .next (s.endFrame h (s.answered h .faultAck .done 0 (ackSplices e (endHalted e z)))) ∧
     ((∀ o, z.transfer.carriage ≠ .halted o) → (∀ x ∈ z.splice.stands, x.2.state ≠ .spliceFailed) →
       z.splice.stands.sorted = true →
       t = .next (s.endFrame h (s.answered h .faultAck .done 0 { z with splice := { z.splice with pressStop := false } })))) ∧
  ((∀ (e : Env) (z : Zone), (∀ o, z.transfer.carriage ≠ .halted o) → endHalted e z = z) ∧
   (∀ (e : Env) (z : Zone) (o : Order), z.transfer.carriage = .halted o → z.transfer.doneInput = false → endHalted e z = z) ∧
   (∀ (e : Env) (z : Zone) (o : Order) (r : Roll), z.transfer.carriage = .halted o → z.transfer.doneInput = true →
      rollAt z .carriage = some r →
      let free : Zone :=
        if r.reservation = none then z
        else
          let y : Roll := { r with reservation := none, state := if r.state = .reserved then .stock else r.state }
          { z with stock := { z.stock with rolls := z.stock.rolls.set 1024 y }, agenda := z.agenda ++ [.restock] }
      let empty := eraseRoll .carriage free
      let put := fun (p : Place) (st : RollState) => setRoll p { r with reservation := none, state := st } empty
      let ended := fun (z' : Zone) =>
        let idle : Zone := { z' with transfer := { z'.transfer with carriage := .idle } }
        match o.req.origin, r.reservation with
        | .ship, some ref => offer e ⟨ref.station, .takeAnswer (byte ref.call) r.serial 2⟩ idle
        | _, _ => idle
      let lost := raise e .mismatch [.place .carriage, .serial r.serial] empty
      (z.transfer.placeInput = none → endHalted e z = ended lost) ∧
      (∀ l p c, z.transfer.placeInput = some (.lane l p) → laneRec z l = some c →
        (c.inService = true → 1 ≤ p → p ≤ lanePositions e l → rollAt z (.lane l p) = none →
          endHalted e z = ended (laneEntered e l (put (.lane l p) (if laneRole? e l = some .butt then .butt else .stock)))) ∧
        (c.inService = false ∨ p = 0 ∨ lanePositions e l < p ∨ rollAt z (.lane l p) ≠ none → endHalted e z = ended lost)) ∧
      (∀ n x, z.transfer.placeInput = some (.arm n x) →
        (z.splice.stands.get? n ≠ none → rollAt z (.arm n x) = none →
          endHalted e z = ended (rollSet e n x false (put (.arm n x) .standby))) ∧
        (z.splice.stands.get? n = none ∨ rollAt z (.arm n x) ≠ none → endHalted e z = ended lost)) ∧
      (∀ d c, z.transfer.placeInput = some (.dock d) → e.img.dock? d = some c → c.role = .scrap →
        endHalted e z = ended empty) ∧
      (∀ d c, z.transfer.placeInput = some (.dock d) → e.img.dock? d = some c → c.role ≠ .scrap →
        ((∀ v ∈ z.track.vehicles, dockedAt e z v.2.number d = false ∨ v.2.loaded = true) → endHalted e z = ended lost) ∧
        (∀ slot v, z.track.vehicles.find? (fun v => dockedAt e z v.2.number d && !v.2.loaded) = some (slot, v) →
          rollAt z (.vehicle slot) = none → v.order = none →
          endHalted e z = ended (setPurpose e slot (.returnTo e.own)
            (modVehicle slot (fun v => { v with loaded := true, order := none }) (put (.vehicle slot) .shipping))))))) ∧
  ((∀ (e : Env) (r : Nat) (z : Zone) (w : Splice), z.splice.stands.get? r = some w →
      (w.state ≠ .spliceFailed ∨ (reelIns e r).webBreak = true → leaveFailed e r z = z) ∧
      (w.state = .spliceFailed → (reelIns e r).webBreak = false →
        let cleared := modSplice r (fun w =>
          { w with manual := false, pasteArmed := false, knifeArmed := none, pasteFired := false, knifeFired := false,
                   pasteDone := false, knifeDone := false, inhibited := false }) z
        let standby := fun (x : Arm) => ∃ y, rollAt z (.arm r x) = some y ∧ y.state = .standby
        (∀ x y, w.running = some x → rollAt z (.arm r x) = some y →
          let single := reportRunningArm e r (some x) (modSplice r (fun w => { w with state := .single })
            (setRoll (.arm r x) { y with state := .running } cleared))
          let told := if y.state = .running then single else reportRunningRoll e r y.serial single
          let loaded := modSplice r (fun w => { w with state := .loaded })
            (modSplice r (fun w => { w with inhibited := true }) told)
          (¬ standby x.other → leaveFailed e r z = told) ∧
          (standby x.other → (splice? told r).map (·.state) = some .single ∧
            leaveFailed e r z = if (reelIns e r).standbyReady then enterPrepared e r loaded else loaded)) ∧
        (∀ x, w.running = some x → rollAt z (.arm r x) = none → standby x.other →
          leaveFailed e r z = threadRunning e r x.other cleared) ∧
        (w.running = none ∨ (∃ x, w.running = some x ∧ rollAt z (.arm r x) = none ∧ ¬ standby x.other) →
          leaveFailed e r z = reportRunningArm e r none
            (modSplice r (fun w => { w with running := none, runoutRaised := false, lateRaised := false })
              (modSplice r (fun w => { w with state := .empty }) cleared))))) ∧
   (∀ (e : Env) (z : Zone),
      let t := (upTo e.img.reels.length).foldl (fun z r => leaveFailed e r z) z
      ((∃ x ∈ t.splice.stands, x.2.state = .spliceFailed) → ackSplices e z = t) ∧
      ((∀ x ∈ t.splice.stands, x.2.state ≠ .spliceFailed) →
        ackSplices e z = { t with splice := { t.splice with pressStop := false } })))

/-- LOG CLEAR: the log bits become those of the causes present, the overrun and underrun flags of every lane clear, the answer
is DONE, and no count, record, window or fault entry changes; in JOINING it is not taken (R173). -/
def Obligations.LogClearDecided : Prop :=
  (∀ (h : Header) (s : State), s.takes h .logClear = true →
    exec (.logClear h) s =
      .next (({ s with spoilage := { s.spoilage with log := s.spoilage.status } } : State).endFrame h
        (s.answered h .logClear .done 0 { s.heard with stock := { s.zone.stock with
          lanes := s.zone.stock.lanes.map fun x => (x.1, { x.2 with overrun := false, underrun := false }) } }))) ∧
  (∀ (h : Header) (s t : State), s.loader.station = .joining → exec (.logClear h) s = .next t →
    t.spoilage = s.spoilage ∧ t.zone.stock = s.zone.stock)

/-- REPORT REQUEST: the page part asked for is offered to the terminal as a ZONE REPORT; a page, an index or a part
outside its range gives REFUSED_RANGE; nothing else changes (R185, R192). The reference 0 of a refusal, and page values
that Chapter 11 does not give, are the model's choice (log entry 43).
The parts of a page make up the page: each holds at most 20 bytes, every part but the last 20, and their bytes in order
are the page's data (R192); and the data of pages 1, 2, 6 and 7 have the sizes of Table 11-3-1.
The data of pages 3, 4 and 5 have the sizes of Table 11-3-1: 152 bytes for a reelstand, 48 for a lane, 40 for the
quarantine slots, 134 for the transfer status, 52 for a vehicle slot, free or not, and 10 for a segment.
The pages of a ZONE REPORT (Table 10-4-1): page 1 the edition record and the causes, page 2 run, last run and rate window,
page 3 the reelstands, page 4 the lanes, the quarantine slots and the transfer status, page 5 the vehicle slots and the segments,
page 6 the fault record, page 7 the line; every other page or index gives none. The bytes of each are the fields of Table
11-3-1 in order (R192), a number held at the greatest value of its field (log entry 43). -/
def Obligations.ReportRequestAnswered : Prop :=
  (∀ (h : Header) (page index part : Byte) (s : State), s.takes h .reportRequest = true →
     let e := s.env
     let z := s.heard
     let t := exec (.reportRequest h page index part) s
     (∀ d, pageData e s.spoilage z page.toNat index.toNat = some d → 1 ≤ part.toNat → part.toNat ≤ (d.length + 19) / 20 →
       t = .next (s.endFrame h (offer e ⟨h.sender.toNat,
         .zoneReport page index part (BitVec.ofNat 8 ((d.length + 19) / 20)) ((d.drop (20 * (part.toNat - 1))).take 20)⟩ z))) ∧
     ((pageData e s.spoilage z page.toNat index.toNat = none ∨
         ∃ d, pageData e s.spoilage z page.toNat index.toNat = some d ∧
           (part = 0 ∨ (d.length + 19) / 20 < part.toNat)) →
       t = .next (s.endFrame h (s.answered h .reportRequest .refusedRange 0 z)))) ∧
  ((∀ d : List Byte, (upTo (partCount d)).flatMap (partData d) = d ∧
     (∀ p, (partData d p).length ≤ 20) ∧ (∀ p, 1 ≤ p → p < partCount d → (partData d p).length = 20)) ∧
   (∀ s : Spoilage, (editionPage s).length = 64 ∧ (causePage s).length = 3 ∧ (runPage s.run).length = 68 ∧
     (windowPage s).length = 6) ∧
   (∀ (e : Env) (f : FaultRecord) (l : Line) (k : Nat), (leadPage e f).length = 16 ∧ (classPage f k).length = 15 ∧
     (linePage l).length = 10)) ∧
  (∀ (e : Env) (z : Zone),
     (∀ r, (reelPage e z r).length = 152) ∧ (∀ l, 1 ≤ l → l ≤ e.img.lanes.length → (lanePage e z l).length = 48) ∧
     (slotPage z).length = 40 ∧ (transferPage z).length = 134 ∧ (∀ k, (vehiclePage z k).length = 52) ∧
     (∀ k, z.track.segments.get? k ≠ none → (segmentPage z k).length = 10)) ∧
  ((∀ (e : Env) (sp : Spoilage) (z : Zone),
     let page := fun (p i : Nat) => pageData e sp z p i
     let lanes := e.img.lanes.length
     page 1 1 = some (editionPage sp) ∧ page 1 2 = some (causePage sp) ∧ page 2 1 = some (runPage sp.run) ∧
     page 2 2 = some (runPage sp.lastRun) ∧ page 2 3 = some (windowPage sp) ∧
     (∀ r, 1 ≤ r → r ≤ e.img.reels.length → page 3 r = some (reelPage e z r)) ∧
     (∀ l, 1 ≤ l → l ≤ lanes → page 4 l = some (lanePage e z l)) ∧
     page 4 (lanes + 1) = some (slotPage z) ∧ page 4 (lanes + 2) = some (transferPage z) ∧
     (∀ k, 1 ≤ k → k ≤ 8 → page 5 k = some (vehiclePage z k)) ∧
     (∀ k, 1 ≤ k → k ≤ e.img.segments.length → page 5 (8 + k) = some (segmentPage z k)) ∧
     page 6 0 = some (leadPage e z.faults) ∧ (∀ k, 1 ≤ k → k ≤ 7 → page 6 k = some (classPage z.faults k)) ∧
     page 7 1 = some (linePage z.line) ∧
     (∀ p i, page p i = none ↔
       ¬ ((p = 1 ∧ 1 ≤ i ∧ i ≤ 2) ∨ (p = 2 ∧ 1 ≤ i ∧ i ≤ 3) ∨ (p = 3 ∧ 1 ≤ i ∧ i ≤ e.img.reels.length) ∨
         (p = 4 ∧ 1 ≤ i ∧ i ≤ lanes + 2) ∨ (p = 5 ∧ 1 ≤ i ∧ i ≤ 8 + e.img.segments.length) ∨ (p = 6 ∧ i ≤ 7) ∨
         (p = 7 ∧ i = 1)))) ∧
   (∀ (e : Env) (sp : Spoilage) (z : Zone) (run : RunRecord) (k : Nat),
     let n := fun (w v : Nat) => toBytes w (min v (256 ^ w - 1))
     let b := fun (v : Nat) => [BitVec.ofNat 8 v]
     let serial := fun (s : Serial) => toBytes 4 s.toNat
     let length := fun (x : Metres) => n 4 x.m ++ n 2 x.rest
     let web := fun (c : Counts) (r : Nat) => length ((c.webWaste.get? r).getD ⟨0, 0⟩)
     let record := fun (c : Counts) => n 4 c.good ++ n 4 c.makeready ++ n 4 c.splice ++ n 4 c.breaks ++ n 4 c.changeover ++
       n 4 c.running ++ n 4 c.overlap ++ length c.sheet ++ web c 1 ++ web c 2 ++ web c 3 ++ web c 4
     let bits := fun (c : Causes) => [c.makeready, c.splice, c.breaks, c.changeover, c.running, c.rateHigh]
     let flags := fun (l : List Bool) => b ((l.zipIdx.map fun x => if x.1 then 2 ^ x.2 else 0).sum)
     let roll := fun (p : Place) => match rollAt z p with
       | some r => serial r.serial ++ b r.state.code
       | none => List.replicate 5 0#8
     let call := fun (c : Option Call) => match c with
       | some c => b c.number ++ b c.state.code ++ n 2 c.deadline ++ b (if c.late then 1 else 0) ++ b c.offers.length ++
           (match c.chosen with
            | some o => b o.station ++ serial o.serial
            | none => List.replicate 5 0#8)
       | none => List.replicate 11 0#8
     let notice := fun (p : Place) =>
       (match (z.transfer.notices.get? p.key).bind Notice.hold with
        | some h => b h.order ++ b h.step ++ serial h.time
        | none => List.replicate 6 0#8) ++
       (match (z.transfer.notices.get? p.key).bind Notice.completion with
        | some d => b d.order ++ b d.origin.code ++ b (match d.failed with
           | some r => r.code + 1
           | none => 1)
        | none => List.replicate 3 0#8)
     editionPage sp = n 2 sp.edition.number ++ record sp.edition.counts ++ n 4 sp.idleCopies ∧
     causePage sp = b sp.condition.code ++ flags (bits sp.status) ++ flags (bits sp.log) ∧
     runPage run = n 2 run.number ++ n 4 run.editions ++ record run.counts ++ n 4 run.overWindow ∧
     windowPage sp = n 2 sp.windowCopies ++ n 2 sp.windowWaste ++ n 2 sp.lastWindowWaste ∧
     (∀ c m, e.img.lane? k = some c → laneRec z k = some m → lanePage e z k =
       b c.mode.code ++ b c.positions ++ b c.role.code ++
       (if c.role = .staging then b c.grade ++ n 2 c.width ++ b c.low else List.replicate 4 0#8) ++
       flags [m.inService, m.overrun, m.underrun, m.mismatch, m.full, m.empty] ++
       roll (.lane k 1) ++ roll (.lane k 2) ++ roll (.lane k 3) ++ roll (.lane k 4) ++
       call (z.supply.calls.get? (Need.restock k).key) ++ notice (.lane k 0)) ∧
     (let slot := fun (j : Nat) => match z.stock.slots.get? j with
        | some x => serial x.base ++ serial x.limit ++ b x.origin.code ++ b (match x.origin with
           | .alert st => st
           | _ => 0)
        | none => List.replicate 10 0#8
      slotPage z = slot 1 ++ slot 2 ++ slot 3 ++ slot 4) ∧
     (∀ x, z.track.segments.get? k = some x →
       segmentPage z k = b x.state.code ++ b x.state.vehicle ++ b x.wait.length ++
         ((List.range 7).map fun i => BitVec.ofNat 8 (x.wait.getD i 0))) ∧
     (∀ w p y, z.splice.stands.get? k = some w → z.folder.webs.get? k = some p → z.reels.get? k = some y →
       let mark := fun (i : Nat) => match p.marks[i]? with
         | some m => n 5 m.position.toNat ++ serial m.old ++ serial m.new
         | none => List.replicate 13 0#8
       reelPage e z k =
         b w.state.code ++ b (match w.running with | none => 0 | some .a => 1 | some .b => 2) ++
         flags [w.inhibited, w.manual, w.runoutRaised, w.lateRaised, z.splice.pressStop, p.markLost] ++ b w.deferred.length ++
         roll (.arm k .a) ++ roll (.arm k .b) ++
         (match y.running with
          | some x => let m := y.meas x
            b m.state.code ++ b m.seed.code ++ n 2 (m.average.getD 0) ++ b m.rejects ++ n 2 m.totalRejects ++ n 4 m.remaining ++
              n 4 m.spliceLength ++ n 4 m.minLength
          | none => List.replicate 19 0#8) ++
         n 5 (((e.webs.get? k).map Web.counter).getD 0).toNat ++ n 2 (((e.webs.get? k).map Web.speed).getD 0) ++
         n 2 y.timeToSplice ++ b p.marks.length ++ mark 0 ++ mark 1 ++ mark 2 ++ mark 3 ++ serial (p.folderRoll.getD 0) ++
         n 4 p.wasteLength ++ n 4 p.wasteCopies ++ b p.window ++
         (match p.lastClosed with
          | some a => serial a.serial ++ n 2 a.metres ++ n 4 a.copies ++ b a.disposal.code
          | none => List.replicate 11 0#8) ++
         n 4 p.unattributed ++ call (z.supply.calls.get? (Need.runout k).key) ++ notice (.arm k .a) ++ notice (.arm k .b)) ∧
     (∀ v, z.track.vehicles.get? k = some v →
       vehiclePage z k =
         b v.number ++ b v.state.code ++ b (v.current.getD 0) ++ b (v.granted.getD 0) ++ b (v.trailing.getD 0) ++
         b v.purpose.code ++
         (match v.purpose with
          | .ship st c to' d => b st ++ b c ++ b to' ++ b d
          | .returnTo st => b st ++ List.replicate 3 0#8
          | .fetch d => b d ++ List.replicate 3 0#8
          | _ => List.replicate 4 0#8) ++
         b (v.order.getD 0) ++ b v.home ++ b v.handOver.code ++ serial v.handOverTime ++ b (v.offeredBy.getD 0) ++
         b v.route.length ++ ((List.range 16).map fun i => BitVec.ofNat 8 (v.route.getD i 0)) ++
         bytesPassRoll (passRoll (if v.state = .incoming then v.carried else rollAt z (.vehicle k)))) ∧
     (z.track.vehicles.get? k = none → vehiclePage z k = List.replicate 52 0#8) ∧
     (let queue := fun (orders : List Order) (s : QueueStat) => b orders.length ++ n 2 s.done ++ n 2 s.failed ++ n 2 s.overrun
      transferPage z =
        b z.transfer.carriage.code ++
        (match z.transfer.carriage with
         | .running m => (match (allOrders z).find? fun o => o.number = m with
            | some o => b m ++ b o.req.origin.code ++ b o.step ++ serial o.serial
            | none => List.replicate 7 0#8)
         | .halted o => b o.number ++ List.replicate 2 0#8 ++ serial o.serial
         | .idle => List.replicate 7 0#8) ++
        (match z.transfer.ordersO.find? fun o => o.state = .suspended with
         | some o => b o.number ++ b o.step
         | none => List.replicate 2 0#8) ++
        b z.transfer.statP.last ++ b z.transfer.statO.last ++ queue z.transfer.ordersP z.transfer.statP ++
        queue z.transfer.ordersO z.transfer.statO ++
        notice (.dock 1) ++ notice (.dock 2) ++ notice (.dock 3) ++ notice (.dock 4) ++ notice (.dock 5) ++ notice (.dock 6) ++
        notice (.dock 7) ++ notice (.dock 8) ++ notice (.dock 9) ++ notice (.dock 10) ++ notice (.dock 11) ++
        notice (.dock 12)) ∧
     (let f := z.faults
      (∀ o, f.lead = some o → leadPage e f =
        b (o.code.cls.index * 16 + o.code.severity.code) ++ serial o.time ++ contextBytes o ++ b (f.level.getD 0) ++
          b e.img.level) ∧
      (∀ c, f.entries.get? k = some c → classPage f k =
        b (c.latest.code.cls.index * 16 + c.highest.code) ++ b c.count ++ serial c.latest.time ++ contextBytes c.latest)) ∧
     linePage z.line = n 2 z.line.dropped ++ n 2 z.line.lineErrors ++ n 2 z.line.unknown ++ n 2 z.line.malformed ++
       n 2 z.line.refused))

/-- ZONE RESTART: refused with REFUSED_STATE while a splice is under way or the carriage grips a roll; otherwise JOINING
is entered at once, the transmit queue, the waiting list and the held frames are emptied, orders and held requests are
cleared, permits and outputs go off, and number, image, zone time and the line's counts are kept; the DONE answer waits
for ACTIVE (R19, R5, R47, R95, R115). A captured vehicle loses its order, takes purpose HOME, leaves its wait list and is
HELD unless STRANDED; another that was MOVING is HELD, and every record and grant stands (R47). The lanes' overrun, underrun
and mismatch flags clear, the watches of lanes and arms begin anew (R71, R153); calls and the order and call counters stand
(R93, R115), hold notices clear. Roll table, quarantine slots, measurement records, reelstands, web path, folder, faults and
counters stand as 3-6, 6-7, 7-8, 8-4, 9-7 and 10-5 have it. -/
def Obligations.ZoneRestartDecided : Prop :=
  ∀ (h : Header) (s : State), s.takes h .zoneRestart = true →
    let z := s.heard
    let busy := (∃ x ∈ z.splice.stands, x.2.state ∈ [.accelerating, .matched, .pasting, .cutting]) ∨
      (∃ o, z.transfer.carriage = .halted o) ∨ ∃ o, runningOrder z = some o ∧ 4 ≤ o.step
    (busy → exec (.zoneRestart h) s = .next (s.endFrame h (s.answered h .zoneRestart .refusedState 0 z))) ∧
    (¬ busy → ∃ t, exec (.zoneRestart h) s = .next t ∧
      t.loader = { s.loader with station := .joining, joinedAt := s.time, warm := true,
                                 restartAnswer := some h.sender.toNat } ∧
      t.time = s.time ∧ t.inputs = s.inputs ∧ t.webs = s.webs ∧ t.spoilage = s.spoilage ∧
      t.zone.line = { z.line with queue := [], waiting := [], heldFrames := [],
                                  sending := z.line.sending.map fun x => { x with queued := false } } ∧
      t.zone.transfer.ordersP = [] ∧ t.zone.transfer.ordersO = [] ∧ t.zone.transfer.heldP = [] ∧
      t.zone.transfer.heldO = [] ∧ t.zone.transfer.carriage = .idle ∧ t.zone.transfer.command = none ∧
      t.zone.track.deferred = [] ∧ t.zone.track.points = z.track.points ∧ t.zone.track.claims = z.track.claims ∧
      t.zone.track.segments = z.track.segments.map (fun x => (x.1, { x.2 with permit := false, wait := x.2.wait.filter (fun n =>
        !z.track.vehicles.any (fun v => v.2.order.isSome && v.2.number = n)) })) ∧
      t.zone.track.vehicles = z.track.vehicles.map (fun x => (x.1,
        if x.2.order = none then (if x.2.state = .moving then { x.2 with state := .held } else x.2)
        else { x.2 with order := none, purpose := .home, state :=
          if x.2.state = .moving ∨ x.2.state = .docked ∨ x.2.state = .parked then .held else x.2.state })) ∧
      t.zone.supply.calls = z.supply.calls ∧ t.zone.supply.nextCall = z.supply.nextCall ∧ t.zone.supply.asked = [] ∧
      t.zone.supply.retries = z.supply.retries ∧
      t.zone.stock.lanes = z.stock.lanes.map (fun x => (x.1,
        { x.2 with overrun := false, underrun := false, mismatch := false })) ∧
      t.zone.stock.watch = [] ∧ t.zone.stock.disagreeing = [] ∧ t.zone.splice.watch = [] ∧
      t.zone.transfer.notices = z.transfer.notices.map (fun x => (x.1, { x.2 with hold := none })) ∧
      t.zone.transfer.nextNumber = z.transfer.nextNumber ∧ t.zone.transfer.statP = z.transfer.statP ∧
      t.zone.transfer.statO = z.transfer.statO ∧ t.zone.stock.rolls = z.stock.rolls ∧ t.zone.stock.slots = z.stock.slots ∧
      t.zone.reels = z.reels ∧ t.zone.splice.stands = z.splice.stands ∧
      t.zone.splice.pressStop = z.splice.pressStop ∧ t.zone.folder = z.folder ∧ t.zone.faults = z.faults)

/-! ### The press console -/

/-- PRESS STATE. RUN START opens a run and its first edition with every count 0, after closing a run that is open, and
enters MAKEREADY; EDITION CHANGE opens an edition in a run, entering CHANGEOVER but for BROKEN, and is ignored in IDLE;
RUN END closes the run into the last-run record, enters IDLE and withdraws every RUNOUT call, and is ignored in IDLE. A
run opened or closed discards the partial rate window (R167, R171, R110). The status bits: MAKEREADY set and BREAK,
CHANGEOVER and RATE_HIGH clear at RUN START, CHANGEOVER set and MAKEREADY and BREAK clear as CHANGEOVER is entered, all clear
at RUN END; the log bit of every status bit that is set stands, and no log bit clears (R172). The idle count, the last
window's waste and the alerts held stay. The order of the withdrawn calls is log entry 67 (DESIGN CHOICE). -/
def Obligations.PressStateTaken : Prop :=
  ∀ (h : Header) (run edition : BitVec 16) (s : State), s.takes h .pressState = true →
    let sp := s.spoilage
    let ended := (s.heard.supply.calls.filter fun x => x.2.need = .runout x.1).map fun x => Task.withdrawCall x.2.need
    (exec (.runStart h run edition) s = .next (({ s with spoilage := { sp with
        condition := .makeready, run := ⟨run.toNat, 1, Counts.zero, 0⟩, edition := ⟨edition.toNat, Counts.zero⟩
        lastRun := if sp.condition = .idle then sp.lastRun else sp.run, windowCopies := 0, windowWaste := 0
        status := { sp.status with makeready := true, breaks := false, changeover := false, rateHigh := false }
        log := sp.log.union { sp.status with makeready := true, rateHigh := false } } } : State).endFrame h s.heard)) ∧
    (sp.condition = .idle → exec (.editionChange h edition) s = .next (s.endFrame h s.heard) ∧
      exec (.runEnd h) s = .next (s.endFrame h s.heard)) ∧
    (sp.condition ≠ .idle →
      let opened : Spoilage :=
        { sp with edition := ⟨edition.toNat, Counts.zero⟩
                  run := { sp.run with editions := min 4294967295 (sp.run.editions + 1) } }
      let bits : Causes := { sp.status with makeready := false, breaks := false, changeover := true }
      (sp.condition = .broken → exec (.editionChange h edition) s =
        .next (({ s with spoilage := opened } : State).endFrame h s.heard)) ∧
      (sp.condition ≠ .broken → exec (.editionChange h edition) s =
        .next (({ s with spoilage := { opened with condition := .changeover, status := bits, log := sp.log.union bits } } :
          State).endFrame h s.heard)) ∧
      exec (.runEnd h) s = .next (({ s with spoilage := { sp with
        condition := .idle, lastRun := sp.run, windowCopies := 0, windowWaste := 0, status := Causes.clear
        log := sp.log.union { sp.status with rateHigh := false } } } : State).endFrame h
          { s.heard with agenda := s.heard.agenda ++ ended }))

/-! ### Events of the track (Chapter 2) -/

/-- TAG_READ, when a segment's occupancy input goes active in ACTIVE. The tag of the vehicle that the segment is GRANTED
to is its entry: the segment is OCCUPIED by it, the permit it came by goes off, and while the old segment shows
occupancy that one trails (R28). The tag of the vehicle that it is RESERVED for is its arrival (R41). Any other tag, and
any tag on a segment in another state, blocks the segment with its fault (R31). A line that was active already, and the
other station states, only follow the level. That the vehicle put at the head of a wait list pushes the last of 7 out is
the model's choice (log entry 15), as is that a repeat of an active level is no event (log entry 2) and that an
intrusion names no vehicle (log entry 56).
The arrival of an incoming vehicle (R41): its segment is OCCUPIED, its record HELD there with no carried roll any more;
the carried roll enters the roll table at the vehicle's place in state SHIPPING, or as an unidentified entry with the
mismatch fault when the table already holds its serial (what the entry keeps is log entry 26); PASS DONE names vehicle and
reserved segment (log entry 14) to the offering station; the route is computed and the first grant asked; an empty vehicle
is offered for capture.
The route and the next grant (R24 to R27): no route strands the vehicle with its fault; in a home zone without a PARKING
dock a MOVING or HELD HOME vehicle is PARKED where it is, its grant withdrawn (log entry 54); any other takes the route. A
vehicle that is free to go asks for the first segment of its route: a FREE one is granted to it, a taken one puts it in the
wait list, HELD, below 7 vehicles (the request's place in time is log entry 18). A grant makes the segment GRANTED and the
vehicle MOVING, sets the points of its segment and turns the permit on; that it does so also where that segment is no longer
the vehicle's own is the model's choice (log entry 70, DESIGN CHOICE). -/
def Obligations.TagReadTaken : Prop :=
  (∀ (k : Nat) (tag : BitVec 6) (s : State),
     let s' : State := { s with inputs := { s.inputs with occupancy := s.inputs.occupancy.set k tag.toNat } }
     let e := s'.env
     let z := s.zone
     let t := exec (.tagRead k tag) s
     (s.inputs.occupancy.has k = true ∨ s.isActive = false → t = .next s') ∧
     (s.inputs.occupancy.has k = false → s.isActive = true →
       (segState z k = none → t = .next (s'.endEvent z)) ∧
       (∀ slot v, segState z k = some (.granted tag.toNat) → findVehicle z tag.toNat = some (slot, v) →
         t = .next (s'.endEvent (enterSegment e slot k z))) ∧
       (∀ slot v, segState z k = some (.reserved tag.toNat) → findVehicle z tag.toNat = some (slot, v) →
         t = .next (s'.endEvent (arriveIncoming e slot k z))) ∧
       (segState z k = some .free ∨ segState z k = some .blocked ∨ (∃ n, segState z k = some (.occupied n)) →
         t = .next (s'.endEvent (raise e .intrusion [.segment k, .number tag.toNat] (setSegState k .blocked z)))) ∧
       (∀ n, segState z k = some (.reserved n) → n ≠ tag.toNat →
         t = .next (s'.endEvent (raise e .tagMismatch [.segment k, .vehicle n, .number tag.toNat]
           (setSegState k .blocked z)))) ∧
       (∀ n slot v c, segState z k = some (.granted n) → n ≠ tag.toNat → findVehicle z n = some (slot, v) →
         v.current = some c → segState z c = some (.occupied n) →
         t = .next (s'.endEvent (raise e .tagMismatch [.segment k, .vehicle n, .number tag.toNat]
           (setSegState k .blocked
             (modSeg k (fun x => { x with wait := (n :: x.wait).take 7 })
               (modVehicle slot (fun x => { x with granted := none, state := .held, route := k :: x.route })
                 (setPermit c false z)))))))) ∧
     (∀ slot v c, vehicle? z slot = some v → v.current = some c → c ≠ k → segState z c = some (.occupied v.number) →
       occupied e c = true →
       enterSegment e slot k z =
         modVehicle slot (fun v => { v with current := some k, granted := none, trailing := some c, state := .held })
           (setPermit c false (setSegState k (.occupied v.number) z)))) ∧
  (∀ (e : Env) (slot k : Nat) (z : Zone) (v : Vehicle) (b : Nat), vehicle? z slot = some v → v.offeredBy = some b →
     let here := modVehicle slot (fun v => { v with state := .held, current := some k, carried := none, offeredBy := none })
       (modSeg k (fun s => { s with state := .occupied v.number }) z)
     let on := fun (z' : Zone) =>
       routeAndGo e slot (offer e ⟨b, .passDone (byte v.number) (byte (v.current.getD k))⟩ z')
     (v.carried = none → v.loaded = false →
       arriveIncoming e slot k z = { on here with agenda := (on here).agenda ++ [.offerVehicle v.number .entered] }) ∧
     (∀ r, v.carried = some r → v.loaded = true →
       (r.serial = 0 ∨ findSerial z r.serial = none →
         arriveIncoming e slot k z =
           on (setRoll (.vehicle slot) { r with state := .shipping, reservation := none } here)) ∧
       (r.serial ≠ 0 → findSerial z r.serial ≠ none →
         arriveIncoming e slot k z = on (raise e .mismatch [.place (.vehicle slot), .serial r.serial]
           (setRoll (.vehicle slot) { unidentified .shipping with breaks := r.breaks, waste := r.waste, defect := r.defect }
             here))))) ∧
  (∀ (e : Env) (slot : Nat) (z : Zone) (v : Vehicle), vehicle? z slot = some v →
     (∀ start, (v.granted = some start ∨ (v.granted = none ∧ v.current = some start)) →
       let g := goalOf e v
       let parks := g = .nearestPark ∧ parkingDocks e.img = [] ∧ (v.state = .moving ∨ v.state = .held)
       (routeFor e g start = none → computeRoute e slot z =
         raise e .stranded (.vehicle v.number :: (v.current.map CtxElem.segment).toList) (strand e slot z)) ∧
       (∀ route, routeFor e g start = some route →
         let led := modVehicle slot (fun v => { v with route := route }) z
         (¬ parks → computeRoute e slot z = led) ∧
         (parks → computeRoute e slot z = parkVehicle slot (withdrawGrant e slot led)))) ∧
     (v.state ≠ .moving → v.state ≠ .held → proceed e slot z = z) ∧
     (v.state = .moving ∨ v.state = .held →
       (v.granted ≠ none → proceed e slot z = z) ∧
       (v.granted = none → v.trailing ≠ none → proceed e slot z = modVehicle slot (fun v => { v with state := .held }) z) ∧
       (v.granted = none → v.trailing = none → v.route = [] → proceed e slot z = arrive e slot v z) ∧
       (∀ k rest x, v.granted = none → v.trailing = none → v.route = k :: rest → inWaitList z v.number = false →
         z.track.segments.get? k = some x →
         let n := z.track.claims + 1
         (x.state = .free → proceed e slot z = grant e slot k { z with track := { z.track with
             claims := n, vehicles := z.track.vehicles.modify slot fun v => { v with claim := n } } }) ∧
         (x.state ≠ .free → x.wait.length < 7 → proceed e slot z = { z with track := { z.track with
             claims := n
             vehicles := z.track.vehicles.modify slot fun v => { v with state := .held, claim := n }
             segments := z.track.segments.modify k fun x => { x with wait := x.wait ++ [v.number] } } }) ∧
         (x.state ≠ .free → 7 ≤ x.wait.length →
           proceed e slot z = modVehicle slot (fun v => { v with state := .held }) z))) ∧
     (∀ k rest c cfg, v.route = k :: rest → v.current = some c → e.img.segment? c = some cfg →
       grant e slot k z = modSeg c (fun x => { x with permit := true })
         (setPoints e c (if cfg.succ1.station = 0 ∧ cfg.succ1.segment = k then 1 else 2)
           (modVehicle slot (fun v => { v with granted := some k, state := .moving, route := rest })
             (modSeg k (fun x => { x with state := .granted v.number }) z)))))

/-- OCCUPANCY_CLEAR, when a segment's occupancy input goes inactive in ACTIVE: a trailing segment is freed and its
vehicle goes on; the current segment of a vehicle with a permit from it, a grant or a hand-over is freed (R29), and
without one of them has lost its vehicle (R32); a segment in any other state stays as it is. That a grant or PASSING
counts as leaving without a permit is log entry 22 (DEDUCED); the context of R32's fault, segment and vehicle, is log
entry 13 (DESIGN CHOICE). That a BLOCKED segment which a vehicle trails on stays its trailing segment as it clears is the model's
choice (log entry 62, DESIGN CHOICE).
Who gets a segment that becomes FREE (R29): the first vehicle of its wait list is granted it when no deferred offer names
the segment, when the vehicle's request is older than the oldest such offer, or when that offer cannot be accepted, with no
free slot or its vehicle number in the table; the oldest such offer is accepted otherwise (R40).
A vehicle made STRANDED gives up its route, its grant and its place in a wait list (R25, R32). A segment given up is handed on as
one that became FREE (R29), and a vehicle outside a full wait list asks again (R27; several in slot order: log entry 15, DESIGN
CHOICE). -/
def Obligations.OccupancyClears : Prop :=
  (∀ (k : Nat) (s : State),
     let s' : State := { s with inputs := { s.inputs with occupancy := s.inputs.occupancy.erase k } }
     let e := s'.env
     let z := s.zone
     let t := exec (.occupancyClear k) s
     (s.inputs.occupancy.has k = false ∨ s.isActive = false → t = .next s') ∧
     (s.inputs.occupancy.has k = true → s.isActive = true →
       ((∀ n, segState z k ≠ some (.occupied n)) → t = .next (s'.endEvent z)) ∧
       (∀ n, segState z k = some (.occupied n) →
         (findVehicle z n = none → t = .next (s'.endEvent (freeSegment e k z))) ∧
         (∀ slot v, findVehicle z n = some (slot, v) →
           (v.trailing = some k → t = .next (s'.endEvent (proceed e slot
             (modVehicle slot (fun v => { v with trailing := none }) (freeSegment e k z))))) ∧
           (v.trailing ≠ some k → v.current ≠ some k → t = .next (s'.endEvent (freeSegment e k z))) ∧
           (v.trailing ≠ some k → v.current = some k →
             ((∃ x, z.track.segments.get? k = some x ∧ x.permit = true) ∨ v.granted ≠ none ∨ v.state = .passing →
               t = .next (s'.endEvent (freeSegment e k z))) ∧
             ((∀ x, z.track.segments.get? k = some x → x.permit = false) → v.granted = none → v.state ≠ .passing →
               t = .next (s'.endEvent (raise e .intrusion [.segment k, .vehicle n]
                 (modVehicle slot (fun v => { v with current := none })
                   (strand e slot (modSeg k (fun x => { x with state := .blocked, permit := false }) z)))))))))) ∧
     (deferredFor z k = none → (∀ x, z.track.segments.get? k = some x → x.wait = []) →
       freeSegment e k z = modSeg k (fun x => { x with state := .free, permit := false }) z)) ∧
  (∀ (e : Env) (k : Nat) (z : Zone) (x : Segment), z.track.segments.get? k = some x →
     let free := modSeg k (fun x => { x with state := .free, permit := false }) z
     let claimOf := fun (c : Nat) => ∃ n slot v, x.wait.head? = some n ∧ findVehicle z n = some (slot, v) ∧ v.claim = c
     (∀ n rest slot v, x.wait = n :: rest → findVehicle z n = some (slot, v) →
       (deferredFor z k = none ∨ (∃ o, deferredFor z k = some o ∧ v.claim < o.claim) ∨ freeVehicleSlot z = none ∨
           (∃ o, deferredFor z k = some o ∧ findVehicle z o.number ≠ none)) →
       freeSegment e k z = askAgain e k (grant e slot k (modSeg k (fun x => { x with wait := rest }) free))) ∧
     (∀ o slot, deferredFor z k = some o → (∀ c, claimOf c → o.claim ≤ c) → freeVehicleSlot z = some slot →
       findVehicle z o.number = none →
       freeSegment e k z = acceptOffer e slot o { free with track := { free.track with
         deferred := z.track.deferred.erase o } })) ∧
  ((∀ (e : Env) (slot : Nat) (z : Zone) (v : Vehicle), vehicle? z slot = some v →
     let stranded := modVehicle slot (fun v => { v with state := .stranded, route := [] }) z
     strand e slot z = leaveWaits e v.number (withdrawGrant e slot stranded) ∧
     (v.granted = none → (∀ x ∈ z.track.segments, v.number ∉ x.2.wait) → strand e slot z = stranded)) ∧
   (∀ (e : Env) (k : Nat) (z : Zone),
     (freeSegment e k z = handOn e k (modSeg k (fun x => { x with state := .free, permit := false }) z)) ∧
     ((∀ x ∈ z.track.vehicles, ∀ v, vehicle? z x.1 = some v → v.route.head? ≠ some k) → askAgain e k z = z) ∧
     askAgain e k z = (z.track.vehicles.map (·.1)).foldl (fun z slot =>
       if (vehicle? z slot).any fun v => v.route.head? = some k && (v.state = .moving || v.state = .held) && v.granted.isNone &&
         v.trailing.isNone then proceed e slot z else z) z))

/-- AT_DOCK_RISE and AT_DOCK_FALL: a vehicle standing on the dock's segment with an empty route and no trailing segment, with
the dock as its destination, becomes DOCKED as the input rises; the vehicle DOCKED there becomes HELD as it falls; an input
that rises at no vehicle's destination is ignored (R30).
DOCKED and PARKED (R30): the vehicle is DOCKED, and a SHIP or RETURN vehicle at the receiving dock is reported for its
unloading order (R112); the dock trigger of the order that has the vehicle then holds (R78). A vehicle that parks is PARKED
and is offered for capture (R42).
The segment of a dock (R22): the one that its own entry names, the dock that a segment names being used by nothing (log
entry 55, DESIGN CHOICE); a SCRAP dock has none whatever its entry names, and segment 0 is none (log entry 12). No route leads to a
dock without a segment, and no vehicle docks there.
How an empty vehicle is captured (R42, R43). A vehicle offered for capture that is loaded or has an order is left alone; else the
oldest order that waits for a vehicle, across both queues, takes it, whatever its state (log entry 16, DESIGN CHOICE): the order has
the vehicle, the vehicle the order, and its purpose is FETCH of the dock that the order's trigger names. With none waiting a vehicle
just emptied or released gets HOME, and any other keeps its purpose. An order that begins to wait takes the candidate with the lowest
number: empty, without an order, with hand-over status NONE, MOVING, HELD, DOCKED or PARKED, with purpose HOME, NONE or FETCH; with
none it waits. An order that ends without loading its vehicle releases it and it is offered at once. -/
def Obligations.DockInputsTaken : Prop :=
  (∀ (d : Nat) (s : State),
     let up : State := { s with inputs := { s.inputs with atDock := s.inputs.atDock.set d true } }
     let down : State := { s with inputs := { s.inputs with atDock := s.inputs.atDock.erase d } }
     let z := s.zone
     (s.inputs.atDock.pin d = true ∨ s.isActive = false → exec (.atDockRise d) s = .next up) ∧
     (s.inputs.atDock.pin d = false → s.isActive = true →
       (∀ slot v, z.track.vehicles.sorted = true → atDockSlots up.env z d = [slot] → vehicle? z slot = some v →
         v.state = .held → v.granted = none → v.trailing = none → goalOf up.env v = .dock d →
         exec (.atDockRise d) s = .next (up.endEvent (dockVehicle up.env slot d
           (modVehicle slot (fun v => { v with state := .held }) z)))) ∧
       (exec (.atDockRise d) s = .next (up.endEvent ((atDockSlots up.env z d).foldl (fun z slot => proceed up.env slot z) z))) ∧
       (atDockSlots up.env z d = [] → exec (.atDockRise d) s = .next (up.endEvent z))) ∧
     (s.inputs.atDock.pin d = false ∨ s.isActive = false → exec (.atDockFall d) s = .next down) ∧
     (s.inputs.atDock.pin d = true → s.isActive = true →
       exec (.atDockFall d) s = .next (down.endEvent { z with track := { z.track with
         vehicles := z.track.vehicles.map fun x =>
           (x.1, if x.2.state = .docked ∧ goalOf down.env x.2 = .dock d then { x.2 with state := .held } else x.2) } }))) ∧
  (∀ (e : Env) (slot d : Nat) (z : Zone) (v : Vehicle), vehicle? z slot = some v →
     let become := fun (st : VehState) => modVehicle slot (fun v => { v with state := st }) z
     let loaded := (∃ a b c n, v.purpose = .ship a b c n) ∨ ∃ a, v.purpose = .returnTo a
     (loaded → e.img.receivingDock = some d →
       dockVehicle e slot d z = { become .docked with agenda := z.agenda ++ [.unload v.number] }) ∧
     (¬ loaded ∨ e.img.receivingDock ≠ some d → dockVehicle e slot d z = become .docked) ∧
     (∀ o : Order, o.req.dockTrigger = some d → o.req.armTrigger = none → o.vehicle = some v.number →
       findVehicle z v.number = some (slot, v) → v.current ≠ none → v.current = dockSegment e.img d →
       triggerHolds e (dockVehicle e slot d z) o = true) ∧
     parkVehicle slot z = { become .parked with agenda := z.agenda ++ [.offerVehicle v.number .parked] }) ∧
  (∀ (e : Env) (d : Nat),
     (∀ c, e.img.dock? d = some c →
       (c.role ≠ .scrap → c.segment ≠ 0 → dockSegment e.img d = some c.segment) ∧
       (c.role = .scrap ∨ c.segment = 0 → dockSegment e.img d = none)) ∧
     (e.img.dock? d = none → dockSegment e.img d = none) ∧
     (∀ start, dockSegment e.img d = none → routeFor e (.dock d) start = none) ∧
     (∀ slot v z, goalOf e v = .dock d → dockSegment e.img d = none →
       arrive e slot v z = modVehicle slot (fun v => { v with state := .held }) z)) ∧
  (∀ (e : Env) (z : Zone),
     let waits := fun (o : Order) => o ∈ allOrders z ∧ o.req.dockTrigger ≠ none ∧ o.vehicle = none ∧
       (o.req.origin = .ship ∨ o.req.origin = .buttClear)
     let captured := fun (slot : Nat) (v : Vehicle) (o : Order) (d : Nat) =>
       setPurpose e slot (.fetch d) (modVehicle slot (fun x => { x with order := some o.number })
         (modOrder o.number (fun o => { o with vehicle := some v.number }) z))
     let candidate := fun (x : Nat × Vehicle) => x ∈ z.track.vehicles ∧ x.2.loaded = false ∧ x.2.order = none ∧
       x.2.handOver = .none ∧ x.2.state ∈ [.moving, .held, .docked, .parked] ∧
       (x.2.purpose = .home ∨ x.2.purpose = .none ∨ ∃ d, x.2.purpose = .fetch d)
     (∀ n why, findVehicle z n = none → offerVehicle e n why z = z) ∧
     (∀ n slot v why, findVehicle z n = some (slot, v) →
       (v.loaded = true ∨ v.order ≠ none → offerVehicle e n why z = z) ∧
       (v.loaded = false → v.order = none →
         (∀ o d, waits o → (∀ p, waits p → p ≠ o → o.accepted < p.accepted) → o.req.dockTrigger = some d →
           offerVehicle e n why z = captured slot v o d) ∧
         ((∀ o, ¬ waits o) → (why = .emptied ∨ why = .released → offerVehicle e n why z = setPurpose e slot .home z) ∧
           (why ≠ .emptied → why ≠ .released → offerVehicle e n why z = z)))) ∧
     (∀ o d, waits o → (∀ p, waits p → p.number = o.number → p = o) → o.req.dockTrigger = some d →
       (∀ slot v, candidate (slot, v) → (∀ y, candidate y → y ≠ (slot, v) → v.number < y.2.number) →
         assignVehicle e o.number z = captured slot v o d) ∧
       ((∀ y, ¬ candidate y) → assignVehicle e o.number z = z)) ∧
     (∀ n, (∀ o, waits o → o.number ≠ n) → assignVehicle e n z = z) ∧
     (∀ n m, findVehicle z n = none → releaseVehicle n m z = z) ∧
     (∀ n m slot v, findVehicle z n = some (slot, v) →
       (v.order ≠ some m → releaseVehicle n m z = z) ∧
       (v.order = some m → releaseVehicle n m z =
         { z with track := { z.track with vehicles := z.track.vehicles.modify slot fun v => { v with order := none } },
                  agenda := z.agenda ++ [.offerVehicle n .released] })))

/-- PASS_ANSWER_TIMEOUT, PASS_OFFER_REPEAT and PASS_UNCONFIRMED: 20 ds after an offer still OFFERED the vehicle is
STRANDED, its status TIMED_OUT, and the fault is raised (R37); a deferred offer is repeated every 300 ds (R36); 100 ds
after the permit of a vehicle still PASSING the pass unconfirmed fault is raised, once (R38). Before those times, in
another status and for a vehicle not in the table nothing happens. The context of the pass unconfirmed fault, vehicle
and segment, is log entry 13 (DESIGN CHOICE).
A frame from a station that is alive sends the offers that it left unanswered once more (R37): a vehicle whose offer to
that station is TIMED_OUT becomes OFFERED at this zone time, STRANDED as it was, and its PASS OFFER goes out again, with
several in rising slot (log entries 8 and 67); with none, nothing happens. -/
def Obligations.HandOverTimes : Prop :=
  (∀ (n : Nat) (s : State), s.isActive = true →
     let e := s.env
     let z := s.zone
     (findVehicle z n = none → exec (.passAnswerTimeout n) s = .next (s.endEvent z) ∧
       exec (.passOfferRepeat n) s = .next (s.endEvent z) ∧ exec (.passUnconfirmed n) s = .next (s.endEvent z)) ∧
     (∀ slot v, findVehicle z n = some (slot, v) →
       (v.handOver = .offered → liesAfter (v.handOverTime + 20) s.time = false →
         exec (.passAnswerTimeout n) s = .next (s.endEvent (raise e .stranded
           (.vehicle n :: (v.current.map CtxElem.segment).toList ++ (v.offeredTo.map fun o => CtxElem.station o.1).toList)
           (modVehicle slot (fun v => { v with handOver := .timedOut, handOverTime := s.time }) (strand e slot z))))) ∧
       (v.handOver ≠ .offered ∨ liesAfter (v.handOverTime + 20) s.time = true →
         exec (.passAnswerTimeout n) s = .next (s.endEvent z)) ∧
       (v.handOver = .deferred → liesAfter v.repeatAt s.time = false →
         exec (.passOfferRepeat n) s = .next (s.endEvent (sendPassOffer e slot
           (modVehicle slot (fun v => { v with repeatAt := v.repeatAt + 300 }) z)))) ∧
       (v.handOver ≠ .deferred ∨ liesAfter v.repeatAt s.time = true →
         exec (.passOfferRepeat n) s = .next (s.endEvent z)) ∧
       (v.handOver = .accepted → v.state = .passing → v.unconfirmed = false →
         liesAfter (v.handOverTime + 100) s.time = false →
         exec (.passUnconfirmed n) s = .next (s.endEvent (raise e .passUnconfirmed
           (.vehicle n :: (v.current.map CtxElem.segment).toList)
           (modVehicle slot (fun v => { v with unconfirmed := true }) z)))) ∧
       (v.handOver ≠ .accepted ∨ v.state ≠ .passing ∨ v.unconfirmed = true ∨
           liesAfter (v.handOverTime + 100) s.time = true →
         exec (.passUnconfirmed n) s = .next (s.endEvent z)))) ∧
  (∀ (e : Env) (station : Nat) (z : Zone), z.track.vehicles.sorted = true →
     let waits := fun (v : Vehicle) => v.handOver = .timedOut ∧ ∃ k, v.offeredTo = some (station, k)
     let again := fun (v : Vehicle) => { v with handOver := .offered, handOverTime := e.now }
     let t := senderAlive e station z
     (∀ slot v, z.track.vehicles.get? slot = some v →
       (waits v → t.track.vehicles.get? slot = some (again v)) ∧ (¬ waits v → t.track.vehicles.get? slot = some v)) ∧
     (∀ slot, z.track.vehicles.get? slot = none → t.track.vehicles.get? slot = none) ∧
     ((∀ slot v, z.track.vehicles.get? slot = some v → ¬ waits v) → t = z) ∧
     (∀ slot v k, z.track.vehicles.get? slot = some v → v.handOver = .timedOut → v.offeredTo = some (station, k) →
       (∀ j u, z.track.vehicles.get? j = some u → waits u → j = slot) →
       let load := if v.state = .incoming then v.carried else rollAt z (.vehicle slot)
       t = offer e ⟨station, .passOffer (passVehicle v k) (passRoll load)⟩
         { z with track := { z.track with vehicles := z.track.vehicles.modify slot again } }))

/-! ### Events of lanes, carriage and calls (Chapters 3 to 5) -/

/-- LANE_DETECTOR_CHANGE, LANE_DISAGREE_TIMEOUT and RESTOCK_PERIOD: a detector takes its level; a position that has disagreed for
50 ds and is not yet a disagreeing one sets the lane's mismatch flag with one mismatch fault naming lane, position and the
table's serial (R59); every 600 ds the restock check runs (R63).
The restock check and the watch of the lanes. A RESTOCK call is asked for every STAGING lane in service and without
mismatch whose rolls in STOCK, identified and not quarantined, are fewer than its low mark, and which has no call in the table
(R63; the rising order of the lanes is log entry 67). A position of a lane in service, not under the carriage, where a THROUGH
lane counts as one, is watched: while detector and table disagree the time it began stands, and it goes as they agree or the
watch is off; a lane with no disagreeing position left loses its mismatch flag (R59; log entry 28). -/
def Obligations.LaneEvents : Prop :=
  (∀ (l p : Nat) (on : Bool) (s : State),
     let e := s.env
     let z := s.zone
     let k := (Place.lane l p).key
     let s' : State := { s with inputs := { s.inputs with lanes := s.inputs.lanes.set k on } }
     (s.isActive = true → exec (.laneDetectorChange l p on) s = .next (s'.endEvent z)) ∧
     (s.isActive = false → exec (.laneDetectorChange l p on) s = .next s') ∧
     (∀ t, s.isActive = true → z.stock.watch.get? k = some t → liesAfter (t + 50) s.time = false →
       z.stock.disagreeing.has k = false →
       exec (.laneDisagreeTimeout l p) s = .next (s.endEvent (raise e .mismatch
         [.lane l, .position p, .serial (((rollAt z (.lane l p)).map (·.serial)).getD 0)]
         { z with stock := { z.stock with disagreeing := z.stock.disagreeing.set k ()
                                          lanes := z.stock.lanes.modify l fun c => { c with mismatch := true } } }))) ∧
     (s.isActive = true → (z.stock.watch.get? k = none ∨ z.stock.disagreeing.has k = true ∨
         ∃ t, z.stock.watch.get? k = some t ∧ liesAfter (t + 50) s.time = true) →
       exec (.laneDisagreeTimeout l p) s = .next (s.endEvent z)) ∧
     (s.isActive = true → liesAfter z.stock.restockAt s.time = false →
       exec .restockPeriod s = .next (s.endEvent (restockCheck e
         { z with stock := { z.stock with restockAt := z.stock.restockAt + 600 } }))) ∧
     (s.isActive = true → liesAfter z.stock.restockAt s.time = true → exec .restockPeriod s = .next (s.endEvent z)) ∧
     (s.isActive = false → exec (.laneDisagreeTimeout l p) s = .next s ∧ exec .restockPeriod s = .next s)) ∧
  ((∀ (e : Env) (z : Zone),
     let short := fun (l : Nat) => ∃ c k, e.img.lane? l = some c ∧ c.role = .staging ∧ laneRec z l = some k ∧
       k.inService = true ∧ k.mismatch = false ∧ z.supply.calls.get? (Need.restock l).key = none ∧
       (upTo c.positions).countP (fun p => (rollAt z (.lane l p)).any fun r =>
         r.state = .stock && r.serial ≠ 0 && !quarantined z r.serial) < c.low
     ∃ lanes : List Nat, lanes.Pairwise (· < ·) ∧ (∀ l, l ∈ lanes ↔ short l) ∧
       restockCheck e z = { z with agenda := z.agenda ++ lanes.map fun l => .askCall (.restock l) }) ∧
   (∀ (e : Env) (z : Zone),
     let t := refreshLaneWatch e z
     let under := fun (l p : Nat) => ∃ o q, runningOrder z = some o ∧
       ((o.step = 3 ∧ o.req.source = .lane l q) ∨ (o.step = 6 ∧ o.target = some (.lane l q))) ∧
       (q = p ∨ laneMode? e l ≠ some .pick)
     let bad := fun (l p : Nat) => (∃ k, laneRec z l = some k ∧ k.inService = true) ∧ ¬ under l p ∧
       (laneDetector e l p = true ↔ rollAt z (.lane l p) = none)
     (∀ l c p, (∀ m d, e.img.lane? m = some d → d.positions ≤ 4) → e.img.lane? l = some c → 1 ≤ p → p ≤ c.positions →
       (bad l p → t.stock.watch.get? (Place.lane l p).key = some ((z.stock.watch.get? (Place.lane l p).key).getD e.now)) ∧
       (¬ bad l p → t.stock.watch.get? (Place.lane l p).key = none)) ∧
     (∀ k u, t.stock.disagreeing.get? k = some u ↔
       z.stock.disagreeing.get? k = some u ∧ ∃ l p, laneOfKey k = some (l, p) ∧ bad l p) ∧
     (∀ l k, z.stock.lanes.get? l = some k →
       ((∃ j p, t.stock.disagreeing.has j = true ∧ laneOfKey j = some (l, p)) → t.stock.lanes.get? l = some k) ∧
       ((∀ j p, t.stock.disagreeing.has j = true → laneOfKey j ≠ some (l, p)) →
         t.stock.lanes.get? l = some { k with mismatch := false })) ∧
     { t with stock := { t.stock with watch := z.stock.watch, disagreeing := z.stock.disagreeing,
                                      lanes := z.stock.lanes } } = z))

/-- TRAVEL_COMPLETE, PICK_COMPLETE and SET_COMPLETE: as carriage-done goes active the step in progress ends: TRAVEL
passes to its WAIT, PICK moves the record from the source to CARRIAGE in state IN_TRANSFER and begins the second TRAVEL,
SET moves it from CARRIAGE to the destination and ends the order DONE with the carriage IDLE (R72, R79, R82, R85). An
input that was active already, a carriage with no running order and a WAIT step change nothing. One input stands for all
three commands (log entry 27, DEDUCED); that the command outputs go inactive as a motion step completes is the model's
choice (log entry 34).
What a PICK and a SET move (R82, R85). The PICK is made at the source place, position 1 of a THROUGH lane, and for a dock at
the order's vehicle. The record there goes to CARRIAGE, IN_TRANSFER, and the order takes its serial; another serial gives the
mismatch fault, and fails the other pending orders that named it; with no record a roll seen by the detector becomes an
unidentified entry, and nothing seen, or no vehicle, fails the order (R51, R82). Then a THROUGH lane shifts toward position 1
(R54), the lane's notices follow (R58), an arm is reported empty (R137; cases with no row: log entry 74, DESIGN CHOICE), a
vehicle is empty and offered for capture (R42), and step 4 travels to the destination, or step 5 follows with no place found
(R76, R83; a full THROUGH lane: log entry 72, DESIGN CHOICE). The SET puts the record into a lane in the lane's state (R50), on an
arm as STANDBY (R136), on a docked vehicle as SHIPPING, which starts with the purpose of R44, or out of the zone at a SCRAP
dock; a reservation goes, but into a lane for OPERATOR and BUTT_CLEAR. A taken place fails the order (context: log entry 71, DESIGN
CHOICE), and a vehicle that has gone takes the record with it (log entry 46, DESIGN CHOICE). -/
def Obligations.CarriageDoneTaken : Prop :=
  (∀ (c : Instr) (place : Option Place) (s : State),
     c = .travelComplete place ∨ c = .pickComplete place ∨ c = .setComplete place →
     let z : Zone := { s.zone with transfer := { s.zone.transfer with doneInput := true, placeInput := place } }
     let off : Zone := { z with transfer := { z.transfer with command := none } }
     let e := s.env
     (s.zone.transfer.doneInput = true ∨ s.isActive = false → exec c s = .next { s with zone := z }) ∧
     (s.zone.transfer.doneInput = false → s.isActive = true →
       (runningOrder z = none → exec c s = .next (s.endEvent z)) ∧
       (∀ o, runningOrder z = some o →
         (o.step = 1 ∨ o.step = 4 → exec c s = .next (s.endEvent
           (modOrder o.number (fun x => { x with step := o.step + 1, stepStart := s.time, holding := false, overrunRaised := false })
             off))) ∧
         (o.step = 3 → exec c s = .next (s.endEvent (pickCompleted e o off))) ∧
         (o.step = 6 → exec c s = .next (s.endEvent (setCompleted e o off))) ∧
         (o.step = 3 → ∀ l p r, sourcePlace e o = .lane l p → laneMode? e l = some .pick → rollAt off .carriage = none →
           rollAt off (.lane l p) = some r → r.serial = o.serial →
           exec c s = .next (s.endEvent (beginLeg2 e o.number o.req.dest (laneLeft e l
             (modOrder o.number (fun x => { x with serial := r.serial })
               (setRoll .carriage { r with state := .inTransfer } (eraseRoll (.lane l p) off))))))) ∧
         (o.step = 6 → ∀ l p r, o.target = some (.lane l p) → o.req.origin = .operator → rollAt off (.lane l p) = none →
           rollAt off .carriage = some r → r.serial = o.serial →
           exec c s = .next (s.endEvent
             (endDone o (laneEntered e l (setRoll (.lane l p) { r with state := laneState e l r } (eraseRoll .carriage off)))))) ∧
         (o.step = 2 ∨ o.step = 5 → exec c s = .next (s.endEvent off))))) ∧
  ((∀ (e : Env) (o : Order) (z : Zone),
     let place := sourcePlace e o
     let at' := match place with
       | .dock _ => (o.vehicle.bind (findVehicle z)).map fun x => Place.vehicle x.1
       | p => some p
     let shown := match place with
       | .lane l p => laneDetector e l p
       | .arm r x => rollPresent e r x
       | _ => false
     let t := pickCompleted e o z
     let picked := fun (src : Place) (r : Roll) (z : Zone) => modOrder o.number (fun o => { o with serial := r.serial })
       (setRoll .carriage { r with state := .inTransfer } (eraseRoll src z))
     let onward := fun (z : Zone) => beginLeg2 e o.number o.req.dest (sourceLeft e o z)
     (∀ l p, o.req.source = .lane l p → place = .lane l (if laneMode? e l = some .through then 1 else p)) ∧
     (at' = none → t = failUnderrun e o z) ∧
     (∀ src d, at' = some src → rollAt z .carriage = some d →
       t = failUnderrun e o (raise e .mismatch [.place .carriage, .serial o.serial, .serial d.serial] z)) ∧
     (∀ src, at' = some src → rollAt z .carriage = none →
       (∀ r, rollAt z src = some r → r.serial = o.serial → t = onward (picked src r z)) ∧
       (∀ r, rollAt z src = some r → r.serial ≠ o.serial →
         let m := picked src r (raiseMismatch e src [.place src, .serial o.serial, .serial r.serial] z)
         (r.serial = 0 ∨ (∀ x ∈ allOrders m, x.number = o.number ∨ x.serial ≠ r.serial) → t = onward m) ∧
         (∀ x, r.serial ≠ 0 → (allOrders m).filter (fun x => x.number ≠ o.number ∧ x.serial = r.serial) = [x] →
           t = onward (failUnderrun e x m))) ∧
       (rollAt z src = none →
         let m := raiseMismatch e src [.place src, .serial o.serial, .serial 0] z
         (shown = false → t = failUnderrun e o m) ∧
         (shown = true → t = onward (modOrder o.number (fun o => { o with serial := 0 })
             (setRoll .carriage (unidentified .inTransfer) m)))))) ∧
   (∀ (e : Env) (o : Order) (z : Zone),
     (∀ l p, sourcePlace e o = .lane l p →
       sourceLeft e o z = laneLeft e l (if laneMode? e l = some .through then shiftLane e l z else z)) ∧
     (∀ r x w, sourcePlace e o = .arm r x → z.splice.stands.get? r = some w →
       let kept : Zone := { z with transfer := { z.transfer with
         heldP := z.transfer.heldP.filter fun q => !(q.origin = .buttClear && q.source = .arm r x) } }
       sourceLeft e o z = if (w.state = .loaded ∨ w.state = .prepared) ∧ w.running ≠ some x then
         modSplice r (fun w => { w with inhibited := false, state := .single }) kept else kept) ∧
     (∀ d slot v, sourcePlace e o = .dock d → o.vehicle.bind (findVehicle z) = some (slot, v) →
       let empty := modVehicle slot (fun v => { v with loaded := false }) z
       sourceLeft e o z = { empty with agenda := z.agenda ++ [.offerVehicle v.number .emptied] })) ∧
   (∀ (e : Env) (l : Nat) (z : Zone), lanePositions e l ≤ 4 →
     let n := lanePositions e l
     (rollAt z (.lane l 1) = none →
       (∀ p, 1 ≤ p → p < n → rollAt (shiftLane e l z) (.lane l p) = rollAt z (.lane l (p + 1))) ∧
       (1 ≤ n → rollAt (shiftLane e l z) (.lane l n) = none) ∧
       (∀ k, (∀ p, 1 ≤ p → p ≤ n → k ≠ (Place.lane l p).key) →
         (shiftLane e l z).stock.rolls.get? k = z.stock.rolls.get? k)) ∧
     (let some' := ∃ p, 1 ≤ p ∧ p ≤ n ∧ rollAt z (.lane l p) ≠ none
      let all := ∀ p, 1 ≤ p → p ≤ n → rollAt z (.lane l p) ≠ none
      let lane := fun (f : Lane → Lane) => ({ z with stock := { z.stock with lanes := z.stock.lanes.modify l f } } : Zone)
      (some' → laneLeft e l z = lane fun c => { c with full := false }) ∧
      (¬ some' → laneLeft e l z =
        { lane (fun c => { c with full := false, empty := true }) with agenda := z.agenda ++ [.restock] }) ∧
      (¬ all → laneEntered e l z = lane fun c => { c with empty := false }) ∧
      (all → laneEntered e l z =
        { lane (fun c => { c with empty := false, full := true }) with agenda := z.agenda ++ [.restock] }))) ∧
   (∀ (e : Env) (n : Nat) (d : Dest) (z : Zone),
     let leg := fun (step : Nat) (p : Option Place) (c : Option (Motion × Place)) (done : Bool) =>
       let y := modOrder n (fun o =>
         { o with target := p, step := step, stepStart := e.now, holding := false, overrunRaised := false }) z
       ({ y with transfer := { y.transfer with command := c, doneInput := done } } : Zone)
     let found := match d with
       | .place (.lane l p) =>
         if laneMode? e l = some .through then
           some (Place.lane l (((upTo (lanePositions e l)).find? fun q => (rollAt z (.lane l q)).isNone).getD 1))
         else some (.lane l p)
       | .place p => some p
       | .lane l => storageIn e z l
       | .anyStock => storageChoice e z .stock
       | .anyButt => storageChoice e z .butt
       | .anyStockOrButt => match storageChoice e z .stock with
         | some q => some q
         | none => storageChoice e z .butt
     (∀ p, found = some p → beginLeg2 e n d z = leg 4 (some p) (some (.travel, p)) false) ∧
     (found = none → beginLeg2 e n d z = leg 5 none none z.transfer.doneInput)) ∧
   (∀ (e : Env) (o : Order) (z : Zone) (p : Place) (r : Roll), o.target = some p → rollAt z .carriage = some r →
     let t := setCompleted e o z
     let told := if r.serial = o.serial then z
       else raise e .mismatch [.place .carriage, .serial o.serial, .serial r.serial] z
     let bare : Roll := { r with reservation := none }
     let put := fun (q : Place) (y : Roll) => setRoll q y (eraseRoll .carriage told)
     let free := fun (z' : Zone) =>
       if r.reservation = none then z' else ({ z' with agenda := z'.agenda ++ [.restock] } : Zone)
     let gone := fun (z' : Zone) => eraseRoll .carriage (releaseCarried z')
     let taken := fun (q : Place) => ∀ y, rollAt z q = some y → t =
       gone (failOrder e o .underrun (raiseMismatch e q [.place q, .serial o.serial, .serial y.serial] z))
     (∀ l q, p = .lane l q → taken p ∧ (rollAt z p = none →
       (o.req.origin = .operator ∨ o.req.origin = .buttClear → t = endDone o (laneEntered e l
         (put p { r with state := if laneRole? e l = some .butt then .butt
                                  else if r.reservation = none then .stock else .reserved }))) ∧
       (o.req.origin ≠ .operator → o.req.origin ≠ .buttClear → t = endDone o (laneEntered e l
         (free (put p { bare with state := if laneRole? e l = some .butt then .butt else .stock })))))) ∧
     (∀ n x, p = .arm n x → taken p ∧ (rollAt z p = none →
       t = endDone o (rollSet e n x (ownLoad e z o n) (free (put p { bare with state := .standby }))))) ∧
     (∀ d c, p = .dock d → e.img.dock? d = some c →
       (c.role = .scrap → t = endDone o (gone z)) ∧
       (c.role ≠ .scrap → o.vehicle.bind (findVehicle z) = none → t = endDone o (gone z)) ∧
       (∀ slot v, c.role ≠ .scrap → o.vehicle.bind (findVehicle z) = some (slot, v) → taken (.vehicle slot) ∧
         (rollAt z (.vehicle slot) = none →
           let purpose := match o.req.origin, o.req.callRef with
             | .ship, some ref => Purpose.ship ref.station ref.call ref.station ref.dock
             | .buttClear, _ => .returnTo e.img.buttReturn
             | _, _ => .returnTo e.own
           t = endDone o (setPurpose e slot purpose (modVehicle slot (fun v => { v with loaded := true, order := none })
             (free (put (.vehicle slot) { bare with state := .shipping }))))))) ∧
     (∀ n, ownLoad e z o n = true ↔ (o.req.origin = .callLoad ∨ o.req.origin = .localLoad) ∧
       ∃ ref c, o.req.callRef = some ref ∧ ref.station = e.own ∧
         z.supply.calls.get? (Need.runout n).key = some c ∧ c.number = ref.call)) ∧
   (∀ (e : Env) (r : Nat) (x : Arm) (own : Bool) (z : Zone) (w : Splice) (k : Roll),
     z.splice.stands.get? r = some w → rollAt z (.arm r x) = some k → k.state = .standby →
     z.stock.rolls.sorted = true →
     let withdrawn := fun (z' : Zone) =>
       if own then z' else ({ z' with agenda := z'.agenda ++ [.withdrawCall (.runout r)] } : Zone)
     let loaded := fun (st : SpliceState) => modSplice r (fun w => { w with inhibited := false, state := st }) z
     let t := rollSet e r x own z
     (w.state = .empty → t = withdrawn (threadRunning e r x z)) ∧
     (w.state = .single → w.running ≠ some x →
       ((reelIns e r).standbyReady = false → t = withdrawn (loaded .loaded)) ∧
       ((reelIns e r).standbyReady = true → t = withdrawn (evalSplice e r (loaded .prepared)))) ∧
     (w.state ≠ .empty → w.state ≠ .single ∨ w.running = some x → t = withdrawn z)))

/-- STEP_LIMIT_EXPIRY and HOLD_LIMIT_EXPIRY: 600 ds after the command of a TRAVEL, PICK or SET, and 1,200 ds after the
beginning of a WAIT, the running order fails: in leg 1 with its fault and an IDLE carriage (R89), in leg 2 with the
carriage HALTED, its command off, and the halted gripping fault (R90). Before those times and in the other kind of step
nothing happens. That the context gives the limit as 600 or 1200 is log entry 13 (DESIGN CHOICE).
The end of an order (R85, R92, R93). DONE: the order leaves its queue, that queue's done count rises and its last
completed number is the order's, the carriage is IDLE with no command, and the block of a load is told. FAILED: the order
leaves its queue, that queue's failed count rises, a reservation it served is released and a vehicle it had captured is
free of it; a RUNNING one that fails in leg 1 leaves the carriage IDLE with no command (R89). Either way no hold notice
names the order any longer, the completion notice of its source names it with its result, the freed slot invites a held
request (R74), and the other queue keeps its orders and counts. That the reservation is released also where the roll is on the
carriage for another order is the model's choice (log entry 33, DESIGN CHOICE). -/
def Obligations.LimitsExpire : Prop :=
  (∀ (s : State), s.isActive = true →
     let e := s.env
     let z := s.zone
     let halted := fun (o : Order) => ({ z with transfer := { z.transfer with command := none, carriage := .halted o } } : Zone)
     let named := fun (o : Order) => [CtxElem.order o.number, .step o.step]
     (runningOrder z = none → exec .stepLimitExpiry s = .next (s.endEvent z) ∧
       exec .holdLimitExpiry s = .next (s.endEvent z)) ∧
     (∀ o, runningOrder z = some o →
       let source := named o ++ [.place (sourcePlace e o), .serial o.serial]
       let target := named o ++ (o.target.map CtxElem.place).toList ++ [.serial o.serial]
       (o.step = 1 ∨ o.step = 3 → liesAfter (o.stepStart + 600) s.time = false →
         exec .stepLimitExpiry s = .next (s.endEvent (failOrder e o .stepLimit (raise e .stepLimit source z)))) ∧
       (o.step = 2 → liesAfter (o.stepStart + 1200) s.time = false →
         exec .holdLimitExpiry s = .next (s.endEvent (failOrder e o .holdLimit (raise e .holdLimit source z)))) ∧
       (o.step = 4 ∨ o.step = 6 → liesAfter (o.stepStart + 600) s.time = false →
         exec .stepLimitExpiry s = .next (s.endEvent (endFailed e o .stepLimit true
           (raise e .haltedGripping (target ++ [.number 600]) (halted o))))) ∧
       (o.step = 5 → liesAfter (o.stepStart + 1200) s.time = false →
         exec .holdLimitExpiry s = .next (s.endEvent (endFailed e o .holdLimit true
           (raise e .haltedGripping (target ++ [.number 1200]) (halted o))))) ∧
       (o.step ∉ [1, 3, 4, 6] ∨ liesAfter (o.stepStart + 600) s.time = true →
         exec .stepLimitExpiry s = .next (s.endEvent z)) ∧
       (o.step ∉ [2, 5] ∨ liesAfter (o.stepStart + 1200) s.time = true →
         exec .holdLimitExpiry s = .next (s.endEvent z)))) ∧
  ((∀ (o : Order) (z : Zone),
      let t := endDone o z
      let q := o.req.queue
      let other := if q = .p then Queue.o else Queue.p
      ordersOf t q = (ordersOf z q).filter (fun x => x.number ≠ o.number) ∧ ordersOf t other = ordersOf z other ∧
      statOf t q = { statOf z q with done := min 65535 ((statOf z q).done + 1), last := o.number } ∧
      statOf t other = statOf z other ∧ t.transfer.carriage = .idle ∧ t.transfer.command = none ∧
      t.stock = z.stock ∧ t.track = z.track ∧ t.supply = z.supply ∧ t.faults = z.faults ∧
      (∃ told, t.agenda = z.agenda ++ .invite q :: told ∧
        (∀ ref, o.req.origin = .callLoad ∨ o.req.origin = .localLoad ∨ o.req.origin = .receive → o.req.callRef = some ref →
          told = [.loadDone ref.call])) ∧
      (∀ k n h, t.transfer.notices.get? k = some n → n.hold = some h → h.order ≠ o.number) ∧
      (∀ k, noticeKey o.req.source = some k →
        (t.transfer.notices.get? k).bind (·.completion) = some ⟨o.number, o.req.origin, none⟩)) ∧
   (∀ (e : Env) (o : Order) (why : Reason) (gripping : Bool) (z : Zone),
      let t := endFailed e o why gripping z
      let q := o.req.queue
      let other := if q = .p then Queue.o else Queue.p
      ordersOf t q = (ordersOf z q).filter (fun x => x.number ≠ o.number) ∧ ordersOf t other = ordersOf z other ∧
      statOf t q = { statOf z q with failed := min 65535 ((statOf z q).failed + 1) } ∧ statOf t other = statOf z other ∧
      t.transfer.carriage = z.transfer.carriage ∧ t.transfer.command = z.transfer.command ∧ t.faults = z.faults ∧
      .invite q ∈ t.agenda ∧
      (∀ k n h, t.transfer.notices.get? k = some n → n.hold = some h → h.order ≠ o.number) ∧
      (∀ k, noticeKey o.req.source = some k →
        (t.transfer.notices.get? k).bind (·.completion) = some ⟨o.number, o.req.origin, some why⟩) ∧
      (∀ ref k r, o.req.callRef = some ref → reservationKey z ref.station ref.call = some k →
        z.stock.rolls.get? k = some r → r.reservation ≠ none →
        (gripping = false ∨ k ≠ 1024 → t.stock.rolls = z.stock.rolls.set k
          { r with reservation := none, state := if r.state = .reserved then .stock else r.state }) ∧
        (gripping = true → k = 1024 → t.stock.rolls = z.stock.rolls)) ∧
      (∀ v slot veh, o.vehicle = some v → findVehicle z v = some (slot, veh) → veh.order = some o.number →
        t.track.vehicles = z.track.vehicles.modify slot (fun v => { v with order := none }) ∧
        .offerVehicle v .released ∈ t.agenda) ∧
      (∀ ref, o.req.origin = .callLoad ∨ o.req.origin = .localLoad ∨ o.req.origin = .receive → o.req.callRef = some ref →
        why ≠ .withdrawn → .loadFailed ref.call o.number o.serial ∈ t.agenda)) ∧
   (∀ (e : Env) (o : Order) (why : Reason) (z : Zone),
      let idle : Zone := { z with transfer := { z.transfer with carriage := .idle, command := none } }
      failOrder e o why z = endFailed e o why false (if z.transfer.carriage = .running o.number then idle else z)))

/-- OFFER_WINDOW_END, 15 ds after the window start, and TAKE_ANSWER_TIMEOUT, 10 ds after the take time: a COLLECTING call with offers becomes TAKING of
the first, whose station gets a ROLL TAKE, and is late when the estimate exceeds the deadline; a TAKING call drops its chosen
offer and takes the next in the same way; with no offer left the call enters NO_STOCK with its fault, due again in 300 ds
(R102, R103, R105).
REISSUE_TIME: 300 ds after NO_STOCK a call whose need stands is issued again under a new number with the deadline of
its need, and one whose need no longer stands frees its entry (R105); the new number and deadline are those of R97 and
R98, and that it keeps grade and width and takes the minimum length of the image is log entry 36 (DEDUCED).
UNLOAD_RETRY: a docked vehicle's unloading order is asked for again when its time has come (R112).
What a docked loaded vehicle leads to, and how a load ends (R112, R113). A loaded vehicle DOCKED at the receiving dock, named by
no pending order and no held request (log entry 32, DEDUCED), gets its unloading order, and a retry due for it goes. With purpose SHIP
to the own station for a call in CONFIRMED the call is DELIVERED: CALL_LOAD in P to the empty standby arm with both triggers, RECEIVE
in O to ANY STOCK when that arm holds a record, RECEIVE in O into the lane for RESTOCK, each with the call reference; any other
vehicle has no known call and gets RECEIVE in O to ANY STOCK with none. A load completed frees the call's entry; a failed one raises
load failed with call, order and serial, and a redirected one raises nothing; of both the call is issued again with a new number and
its need's deadline if its need stands, else its entry is freed (what a call issued again keeps: log entry 36, DEDUCED). A RUNOUT
need stands with a record on the running arm and none on the standby arm, a RESTOCK need while its STAGING lane is short (R63). -/
def Obligations.CallTimes : Prop :=
  (∀ (s : State) (c : Call), s.isActive = true → callNumbered s.zone c.number = some c →
     let e := s.env
     let z := s.zone
     let taken := fun (c : Call) (o : Offer) =>
       offer e ⟨o.station, .rollTake (byte c.number) o.serial (byte c.urgency.code) (byte (e.img.receivingDock.getD 0))⟩
         (setCall { c with state := .taking, chosen := some o, takeTime := none, late := decide (c.deadline < o.estimate) } z)
     let noStock := fun (c : Call) =>
       raise e .noStock [.call c.number, (match c.need with | .runout r => .reelstand r | .restock l => .lane l),
           .number c.grade, .number c.width]
         (setCall { c with state := .noStock, offers := [], chosen := none, takeTime := none, windowStart := none,
                           reissueAt := some (s.time + 300) } z)
     let left := c.offers.filter fun o => c.chosen ≠ some o
     (∀ t, c.state = .collecting → c.windowStart = some t → liesAfter (t + 15) s.time = false →
       (c.offers = [] → exec (.offerWindowEnd c.number) s = .next (s.endEvent (noStock c))) ∧
       (∀ o rest, c.offers = o :: rest → exec (.offerWindowEnd c.number) s = .next (s.endEvent (taken c o)))) ∧
     (c.state ≠ .collecting ∨ c.windowStart = none ∨ (∃ t, c.windowStart = some t ∧ liesAfter (t + 15) s.time = true) →
       exec (.offerWindowEnd c.number) s = .next (s.endEvent z)) ∧
     (∀ t, c.state = .taking → c.takeTime = some t → liesAfter (t + 10) s.time = false →
       (left = [] → exec (.takeAnswerTimeout c.number) s =
         .next (s.endEvent (noStock { c with offers := [], chosen := none, takeTime := none }))) ∧
       (∀ o rest, left = o :: rest → exec (.takeAnswerTimeout c.number) s =
         .next (s.endEvent (taken { c with offers := left, chosen := none, takeTime := none } o)))) ∧
     (c.state ≠ .taking ∨ c.takeTime = none ∨ (∃ t, c.takeTime = some t ∧ liesAfter (t + 10) s.time = true) →
       exec (.takeAnswerTimeout c.number) s = .next (s.endEvent z))) ∧
  (∀ (s : State), s.isActive = true →
     let e := s.env
     let z := s.zone
     (∀ c t, callNumbered z c.number = some c → c.state = .noStock → c.reissueAt = some t → liesAfter t s.time = false →
       (needStands e z c.need = false → exec (.reissueTime c.number) s = .next (s.endEvent
         { z with supply := { z.supply with calls := z.supply.calls.erase c.need.key } })) ∧
       (needStands e z c.need = true →
         let n := newCallNumber z
         let fresh : Call :=
           { number := n, need := c.need, urgency := needUrgency c.need, grade := c.grade, width := c.width,
             minLength := e.img.minLength, deadline := needDeadline z c.need, state := .collecting, offers := [],
             chosen := none, takeTime := none, windowStart := none, reissueAt := none, late := false }
         exec (.reissueTime c.number) s = .next (s.endEvent (issue e fresh
           (setCall fresh { z with supply := { z.supply with nextCall := n % 255 + 1 } }))))) ∧
     (∀ n, callNumbered z n = none → exec (.reissueTime n) s = .next (s.endEvent z) ∧
       exec (.offerWindowEnd n) s = .next (s.endEvent z) ∧ exec (.takeAnswerTimeout n) s = .next (s.endEvent z)) ∧
     (∀ c, callNumbered z c.number = some c → (c.state ≠ .noStock ∨ c.reissueAt = none ∨
         ∃ t, c.reissueAt = some t ∧ liesAfter t s.time = true) →
       exec (.reissueTime c.number) s = .next (s.endEvent z)) ∧
     (∀ n t, z.supply.retries.get? n = some t → liesAfter t s.time = false →
       exec (.unloadRetry n) s = .next (s.endEvent
         { z with supply := { z.supply with retries := z.supply.retries.erase n }, agenda := z.agenda ++ [.unload n] })) ∧
     (∀ n, (z.supply.retries.get? n = none ∨ ∃ t, z.supply.retries.get? n = some t ∧ liesAfter t s.time = true) →
       exec (.unloadRetry n) s = .next (s.endEvent z))) ∧
  ((∀ (e : Env) (n slot d : Nat) (v : Vehicle) (z : Zone), findVehicle z n = some (slot, v) → e.img.receivingDock = some d →
     let docked := v.state = .docked ∧ ∃ k, dockSegment e.img d = some k ∧ v.current = some k
     let named := (∃ o ∈ allOrders z, o.vehicle = some n) ∨ ∃ q ∈ z.transfer.heldP ++ z.transfer.heldO, q.vehicle = some n
     let serial := ((rollAt z (.vehicle slot)).map Roll.serial).getD 0
     let order := fun (queue : Queue) (origin : Origin) (dest : Dest) (arm : Option (Nat × Arm)) (ref : Option CallRef) =>
       Task.requestOrder { queue := queue, origin := origin, serial := serial, source := .dock d, dest := dest, dockTrigger := some d,
                           armTrigger := arm, vehicle := some n, callRef := ref }
     let asked := fun (calls : Tbl Call) (t : Task) =>
       ({ z with supply := { z.supply with calls := calls, retries := z.supply.retries.erase n }, agenda := z.agenda ++ [t] } : Zone)
     let unknown := asked z.supply.calls (order .o .receive .anyStock none none)
     (¬ docked ∨ v.loaded = false ∨ named → unload e n z = z) ∧
     (docked → v.loaded = true → ¬ named →
       (∀ m dest dock c, v.purpose = .ship e.own m dest dock → callNumbered z m = some c → c.state = .confirmed →
         let known := fun (queue : Queue) (origin : Origin) (to' : Dest) (arm : Option (Nat × Arm)) =>
           asked (z.supply.calls.set c.need.key { c with state := .delivered })
             (order queue origin to' arm (some ⟨e.own, c.number, 0⟩))
         (∀ r, c.need = .runout r →
           let x := standbyArm z r
           (rollAt z (.arm r x) = none → unload e n z = known .p .callLoad (.place (.arm r x)) (some (r, x))) ∧
           (rollAt z (.arm r x) ≠ none → unload e n z = known .o .receive .anyStock none)) ∧
         (∀ l, c.need = .restock l → unload e n z =
           known .o .receive (if laneMode? e l = some .through then .place (.lane l 1) else .lane l) none)) ∧
       (∀ m dest dock, v.purpose = .ship e.own m dest dock → (∀ c, callNumbered z m = some c → c.state ≠ .confirmed) →
         unload e n z = unknown) ∧
       ((∀ m dest dock, v.purpose ≠ .ship e.own m dest dock) → unload e n z = unknown))) ∧
   (∀ (e : Env) (n : Nat) (z : Zone), findVehicle z n = none ∨ e.img.receivingDock = none → unload e n z = z) ∧
   (∀ (e : Env) (c : Call) (order : Nat) (serial : Serial) (z : Zone), callNumbered z c.number = some c →
     let again := fun (z' : Zone) =>
       if needStands e z' c.need then
         let n := newCallNumber z'
         let fresh : Call :=
           { number := n, need := c.need, urgency := needUrgency c.need, grade := c.grade, width := c.width,
             minLength := e.img.minLength, deadline := needDeadline z' c.need, state := .collecting, offers := [],
             chosen := none, takeTime := none, windowStart := none, reissueAt := none, late := false }
         issue e fresh (setCall fresh { z' with supply := { z'.supply with nextCall := n % 255 + 1 } })
       else { z' with supply := { z'.supply with calls := z'.supply.calls.erase c.need.key } }
     loadDone c.number z = { z with supply := { z.supply with calls := z.supply.calls.erase c.need.key } } ∧
     loadFailed e c.number order serial z =
       again (raise e .loadFailed [.call c.number, .order order, .serial serial] z) ∧
     loadRedirected e c.number z = again z) ∧
   (∀ (e : Env) (n order : Nat) (serial : Serial) (z : Zone), callNumbered z n = none →
     loadDone n z = z ∧ loadFailed e n order serial z = z ∧ loadRedirected e n z = z) ∧
   (∀ (e : Env) (z : Zone) (k : Nat),
     (needStands e z (.runout k) = true ↔ rollAt z (.arm k (standbyArm z k)) = none ∧
       ∃ w x, z.splice.stands.get? k = some w ∧ w.running = some x ∧ rollAt z (.arm k x) ≠ none) ∧
     (needStands e z (.restock k) = true ↔ ∃ c m, e.img.lane? k = some c ∧ laneRec z k = some m ∧ c.role = .staging ∧
       m.inService = true ∧ m.mismatch = false ∧
       ((List.range c.positions).filter fun i => (rollAt z (.lane k (i + 1))).any fun r =>
         r.state = .stock && r.serial ≠ 0 && !quarantined z r.serial).length < c.low)))

/-! ### Events of the reelstands (Chapters 6 and 7) -/

/-- ARM_OPEN_CHANGE, ROLL_PRESENT_CHANGE and ARM_DISAGREE_TIMEOUT: the inputs take their levels; an arm that has
disagreed with the table for 50 ds is brought into line with its detector: a roll found on an arm without a record gets
an unidentified entry, RUNNING on an EMPTY reelstand, and a record on an arm that reads empty is deleted with the
mismatch fault (R138), and a BUTT_CLEAR request still held for it (R74, R144) with it, which no rule says (log entry 39,
DEDUCED).
What a roll lost or found on an arm does (R138, Table 7-2-1). Lost: the mismatch fault first, held while the reelstand is
splicing (R150), then the record goes, its reservation released. The running arm in SINGLE leaves the reelstand EMPTY, no running
arm, no record in use; in LOADED to MATCHED acceleration ends and the standby roll becomes RUNNING, its record seeded, the
reelstand SINGLE, the roll reported to the web (R156). The standby arm in those states leaves it SINGLE, acceleration ended, not
inhibited, the deferred set released. PASTING fails as missed paste, CUTTING as missed knife (R146); a butt and SPLICE_FAILED
keep the state. Found: RUNNING on EMPTY; in SINGLE on the second arm STANDBY, LOADED, or PREPARED with standby ready, and the
call withdrawn; else STANDBY or, not on the standby arm, BUTT. The order inside these events is log entries 38 and 39. -/
def Obligations.ArmEvents : Prop :=
  (∀ (r : Nat) (x : Arm) (on : Bool) (s : State),
     let e := s.env
     let z := s.zone
     let k := (Place.arm r x).key
     let old := (s.inputs.reels.get? r).getD ReelIns.idle
     let with' := fun (i : ReelIns) => ({ s with inputs := { s.inputs with reels := s.inputs.reels.set r i } } : State)
     let opened := with' (match x with | .a => { old with openA := on } | .b => { old with openB := on })
     let present := with' (match x with | .a => { old with presentA := on } | .b => { old with presentB := on })
     let seen : Zone := { z with splice := { z.splice with watch := z.splice.watch.erase k } }
     (s.isActive = true → exec (.armOpenChange r x on) s = .next (opened.endEvent z) ∧
       exec (.rollPresentChange r x on) s = .next (present.endEvent z)) ∧
     (s.isActive = false → exec (.armOpenChange r x on) s = .next opened ∧ exec (.rollPresentChange r x on) s = .next present ∧
       exec (.armDisagreeTimeout r x) s = .next s) ∧
     (∀ t, s.isActive = true → z.splice.watch.get? k = some t → liesAfter (t + 50) s.time = false →
       (∀ y, rollPresent e r x = true → rollAt z (.arm r x) = none → z.splice.stands.get? r = some y → y.state = .empty →
         exec (.armDisagreeTimeout r x) s = .next (s.endEvent (threadRunning e r x
           (setRoll (.arm r x) (unidentified .running) seen)))) ∧
       (∀ y w, rollPresent e r x = false → rollAt z (.arm r x) = some w → z.splice.stands.get? r = some y →
         y.state = .single → y.running ≠ some x → w.reservation = none →
         let lost := eraseRoll (.arm r x) (raise e .mismatch [.place (.arm r x), .serial w.serial] seen)
         exec (.armDisagreeTimeout r x) s = .next (s.endEvent { lost with transfer := { lost.transfer with
           heldP := lost.transfer.heldP.filter fun q => ¬ (q.origin = .buttClear ∧ q.source = .arm r x) } })) ∧
       (rollPresent e r x = true → rollAt z (.arm r x) = none →
         exec (.armDisagreeTimeout r x) s = .next (s.endEvent (armFound e r x seen))) ∧
       (rollPresent e r x = false → rollAt z (.arm r x) ≠ none →
         exec (.armDisagreeTimeout r x) s = .next (s.endEvent (armLost e r x seen))) ∧
       (rollPresent e r x = (rollAt z (.arm r x)).isSome →
         exec (.armDisagreeTimeout r x) s = .next (s.endEvent seen))) ∧
     (s.isActive = true → (z.splice.watch.get? k = none ∨
         ∃ t, z.splice.watch.get? k = some t ∧ liesAfter (t + 50) s.time = true) →
       exec (.armDisagreeTimeout r x) s = .next (s.endEvent z))) ∧
  ((∀ (e : Env) (r : Nat) (x : Arm) (z : Zone) (w : Splice) (k : Roll),
     z.splice.stands.get? r = some w → rollAt z (.arm r x) = some k →
     let context := [CtxElem.place (.arm r x), .serial k.serial]
     let told := raiseForReel e r .mismatch context z
     let gone := eraseRoll (.arm r x) (release (Place.arm r x).key told)
     let cleared : Zone := { gone with transfer := { gone.transfer with
       heldP := gone.transfer.heldP.filter fun q => ¬ (q.origin = .buttClear ∧ q.source = .arm r x) } }
     let changed := fun (f : Splice → Splice) =>
       ({ cleared with splice := { cleared.splice with stands := cleared.splice.stands.modify r f } } : Zone)
     let splicing := w.state ∈ [.accelerating, .matched, .pasting, .cutting]
     let standing := w.state ∈ [.loaded, .prepared, .accelerating, .matched]
     let t := armLost e r x z
     let single := changed fun w =>
       { w with accelerateOut := false, matchTimer := none, pasteArmed := false, manual := false, inhibited := false,
                state := .single }
     (¬ splicing → told = raise e .mismatch context z) ∧
     (splicing → w.deferred = [] → told = { z with splice := { z.splice with
       stands := z.splice.stands.modify r fun w => { w with deferred := [⟨1, ⟨.mismatch, e.now, context⟩⟩] } } }) ∧
     (w.state = .empty ∨ w.state = .spliceFailed ∨ (w.state = .single ∧ w.running ≠ some x) → t = cleared) ∧
     (w.state = .single → w.running = some x →
       let left := changed fun w => { w with state := .empty, running := none }
       t = { left with reels := left.reels.modify r fun y =>
         { measA := { y.measA with state := .noRoll }, measB := { y.measB with state := .noRoll }, timeToSplice := 65535 } }) ∧
     (standing → w.running = some x → t = threadRunning e r x.other (changed fun w =>
       { w with accelerateOut := false, matchTimer := none, pasteArmed := false, manual := false })) ∧
     (standing → w.running ≠ some x → (¬ splicing → t = single) ∧ (splicing → t = releaseDeferred e r single)) ∧
     (w.state = .pasting → t = enterFailed e r .missedPaste (.rollPresent x) cleared) ∧
     (w.state = .cutting → t = enterFailed e r .missedKnife (.rollPresent x) cleared)) ∧
   (∀ (e : Env) (r : Nat) (x : Arm) (z : Zone) (w : Splice) (y : Reel) (c : ReelCfg) (k : Roll) (v : WebPath),
     z.splice.stands.get? r = some w → z.reels.get? r = some y → (y.meas x).state = .noRoll → e.img.reel? r = some c →
     rollAt z (.arm r x) = some k → z.folder.webs.get? r = some v →
     let t := threadRunning e r x z
     rollAt t (.arm r x) = some { k with state := .running } ∧
     (∀ j, j ≠ (Place.arm r x).key → t.stock.rolls.get? j = z.stock.rolls.get? j) ∧
     (t.splice.stands.get? r).map (fun w => (w.state, w.running, w.accelerateOut, w.inhibited)) =
       some (.single, some x, w.accelerateOut, false) ∧
     (t.reels.get? r).map (fun y => (y.meas x, (y.meas x.other).state)) =
       some ((y.meas x).seeded c (some { k with state := .running }), .noRoll) ∧
     t.folder.webs.get? r = (reportRunningRoll e r k.serial z).folder.webs.get? r) ∧
   (∀ (e : Env) (r : Nat) (x : Arm) (z : Zone) (w : Splice),
     z.splice.stands.get? r = some w → rollAt z (.arm r x) = none →
     let placed := fun (st : RollState) => setRoll (.arm r x) (unidentified st) z
     let loaded := fun (st : SpliceState) => ({ placed .standby with splice := { z.splice with
       stands := z.splice.stands.modify r fun w => { w with inhibited := false, state := st } } } : Zone)
     let withdrawn := fun (z' : Zone) => ({ z' with agenda := z'.agenda ++ [.withdrawCall (.runout r)] } : Zone)
     let t := armFound e r x z
     let standby := w.running = some x.other ∨ (w.running = none ∧ x = .a)
     (w.state = .empty → t = threadRunning e r x (placed .running)) ∧
     (w.state = .single → w.running ≠ some x →
       ((reelIns e r).standbyReady = false → t = withdrawn (loaded .loaded)) ∧
       ((reelIns e r).standbyReady = true → t = withdrawn (evalSplice e r (loaded .prepared)))) ∧
     (w.state ≠ .empty → w.state ≠ .single ∨ w.running = some x →
       (standby → t = placed .standby) ∧ (¬ standby → t = placed .butt))))

/-- ENCODER_PULSE and SPEED_GATE_END, in JOINING as in ACTIVE: a pulse adds 1 to the 40-bit web counter, which wraps, to the
pulses of the gate and to the fed length of the running arm's record (R117, R127); a gate of 1 ds ends with the speed at ten
times its pulses, at most 20,000 mm/s, and T is recomputed (R118, R130). In START and INERT nothing is counted.
T recomputed (R130): the new T is stored, one that changed is given to the splice sequencer, and then the runout call
conditions are looked at (the order is log entry 40, DEDUCED). They hold (R131) with the web in use, a roll on the running
arm and none on the standby arm, T at the call horizon or below, v at least 100 mm/s, and no RUNOUT call of the reelstand in
the table: in ACTIVE the call is asked for, in JOINING it is held once, to be presented on entering ACTIVE. -/
def Obligations.EncoderCounts : Prop :=
  (∀ (r : Nat) (s : State), s.loader.held = false →
     (s.loader.station = .start ∨ s.loader.station = .inert →
       exec (.encoderPulse r) s = .next s ∧ exec (.speedGateEnd r) s = .next s ∧
       exec (.missingIndexPoint r) s = .next s ∧ ∀ x, exec (.revolutionIndex r x) s = .next s) ∧
     (s.loader.station = .joining ∨ s.loader.station = .active → missingIndexDue s.env s.zone r = false →
       exec (.encoderPulse r) s =
         .next (({ s.endEvent s.zone with webs := s.webs.modify r fun w =>
             { w with counter := w.counter + 1, gatePulses := w.gatePulses + 1 } } : State).endEvent
           (modReel r (fun y => match y.running with
             | some x => y.setMeas x { y.meas x with fed := min 4294967295 ((y.meas x).fed + 1) }
             | none => y) (s.endEvent s.zone).zone))) ∧
     (∀ w, s.loader.station = .joining ∨ s.loader.station = .active → s.webs.get? r = some w →
       (liesAfter (w.gateStart + 1) s.time = false →
         let s' : State := { s with webs := s.webs.modify r fun w =>
           { w with speed := min 20000 (w.gatePulses * 10), gatePulses := 0, gateStart := w.gateStart + 1 } }
         exec (.speedGateEnd r) s = .next (s'.endEvent (recomputeTime s'.env r false s.zone))) ∧
       (liesAfter (w.gateStart + 1) s.time = true → exec (.speedGateEnd r) s = .next s))) ∧
  ((∀ (e : Env) (r : Nat) (z : Zone) (y : Reel), z.reels.get? r = some y →
     let t := y.estimate (((e.webs.get? r).map Web.speed).getD 0)
     let set : Zone := { z with reels := z.reels.modify r fun y => { y with timeToSplice := t } }
     (t = y.timeToSplice → recomputeTime e r false z = evalRunoutCall e r set) ∧
     (t ≠ y.timeToSplice → recomputeTime e r false z = evalRunoutCall e r (evalSplice e r set)) ∧
     recomputeTime e r true z = evalRunoutCall e r (evalSplice e r set)) ∧
   (∀ (e : Env) (r : Nat) (z : Zone) (w : Splice) (c : ReelCfg), z.splice.stands.get? r = some w → e.img.reel? r = some c →
     let T := ((z.reels.get? r).map Reel.timeToSplice).getD 65535
     let v := ((e.webs.get? r).map Web.speed).getD 0
     let holds := c.webInUse = true ∧ (∃ x, w.running = some x ∧ rollAt z (.arm r x) ≠ none ∧ rollAt z (.arm r x.other) = none) ∧
       T ≤ c.horizon ∧ 100 ≤ v ∧ z.supply.calls.get? (Need.runout r).key = none
     (¬ holds → evalRunoutCall e r z = z) ∧
     (holds → e.station = .active → evalRunoutCall e r z = { z with agenda := z.agenda ++ [.askCall (.runout r)] }) ∧
     (holds → e.station = .joining → Need.runout r ∈ z.supply.asked → evalRunoutCall e r z = z) ∧
     (holds → e.station = .joining → Need.runout r ∉ z.supply.asked →
       evalRunoutCall e r z = { z with supply := { z.supply with asked := z.supply.asked ++ [.runout r] } })))

/-- T by the first case of Table 6-5-1 that holds (R130).
Revolution points (R121 to R128): a point sets the reference to the web counter; a reading outside the range, or in MEASURING
outside the band about the average, is a reject and the third in a row makes the record DEAD_RECKONING; the fourth accepted
reading in SEEDED forms the average; and no point raises L_rem. That L_count stays as the point found it at the fourth accepted
reading of an UNSEEDED record is the model's choice (log entry 60, DESIGN CHOICE).
A seeding (R120): from an identified roll with a length the record counts from that length with the roll's caliper, from
any other it starts at 71,619,300 mm, not yet known, with the reelstand's caliper; readings, average, measured length and
reference are gone, fed length and rejects in a row 0, and the total of rejects is kept (R119; what else is kept, and an
arm with no roll record, is log entry 41, DEDUCED). Runout (R147): L_rem at or below L_min of a running roll, not raised yet, turns the press stop request on and
raises the fault, except in PASTING and CUTTING.
The lengths at a revolution point. L_rem (R128) falls to the value of its source and never rises: to L_count (R127) in
SEEDED and in DEAD_RECKONING with seed SEEDED_FROM_RECORD, a rejected reading of SEEDED and a third reject among them; to
L_meas at an accepted reading of MEASURING and at the fourth of SEEDED; with seed UNSEEDED, at a reject of MEASURING and
in NO_ROLL it stays. L_meas is L of the average (R123, R124), the fourth accepted reading of an UNSEEDED record makes it
L_load with the fed length 0, and L is the formula of R126. -/
def Obligations.EstimatesAndMeasurements : Prop :=
  (∀ (y : Reel) (v : Nat),
     (y.running = none → y.estimate v = 65535) ∧
     (∀ x, y.running = some x →
       let m := y.meas x
       (v < 100 → y.estimate v = 65535) ∧
       (100 ≤ v → m.seed = .unseeded → m.state = .seeded ∨ m.state = .deadReckoning → y.estimate v = 65535) ∧
       (100 ≤ v → m.seed ≠ .unseeded ∨ (m.state ≠ .seeded ∧ m.state ≠ .deadReckoning) →
         (m.remaining ≤ m.spliceLength → y.estimate v = 0) ∧
         (m.spliceLength < m.remaining →
           y.estimate v = min 65534 ((m.remaining - m.spliceLength) * 10 / v)))) ∧
     (y.estimate v ≤ 65535)) ∧
  (∀ (m : Meas) (core : Nat) (counter : WebPos) (missing : Bool),
     let p := m.point core counter missing
     p.remaining ≤ m.remaining ∧ p.reference = some counter ∧
     (m.seed = .fromRecord → p.seed = .fromRecord ∧ p.fed = m.fed ∧ p.loadLength = m.loadLength) ∧
     p.countLength = m.loadLength - m.fed ∧ p.caliper = m.caliper ∧ p.spliceLength = m.spliceLength ∧ p.minLength = m.minLength ∧
     (m.reference = none → p.readings = m.readings ∧ p.rejects = m.rejects ∧ p.state = m.state) ∧
     (∀ ref, m.reference = some ref → m.state = .seeded ∨ m.state = .measuring →
       let x := if missing then 6001 else (counter - ref).toNat
       let bad := 6000 < x ∨ x ≤ core ∨
         (m.state = .measuring ∧ ∀ c, m.average = some c → ¬ (c - c / 16 ≤ x ∧ x ≤ c + c / 64))
       (bad → p.rejects = m.rejects + 1 ∧ p.totalRejects = min 65535 (m.totalRejects + 1) ∧ p.lastRejected = some x ∧
         p.readings = m.readings ∧ p.average = m.average ∧
         p.state = (if m.rejects + 1 = 3 then .deadReckoning else m.state)) ∧
       (¬ bad → p.rejects = 0 ∧ p.totalRejects = m.totalRejects ∧
         (m.state = .measuring → p.readings = m.readings.tail ++ [x] ∧ p.average = some ((m.readings.tail ++ [x]).sum / 4) ∧
           p.state = .measuring) ∧
         (m.state = .seeded → p.readings = m.readings ++ [x] ∧
           (m.readings.length ≠ 3 → p.state = .seeded ∧ p.average = m.average) ∧
           (m.readings.length = 3 → p.state = .measuring ∧ p.average = some ((m.readings ++ [x]).sum / 4) ∧
             p.seed = .fromRecord)))) ∧
     (m.state = .noRoll ∨ m.state = .deadReckoning → p.readings = m.readings ∧ p.state = m.state ∧ p.rejects = m.rejects)) ∧
  ((∀ (m : Meas) (c : ReelCfg) (roll : Option Roll),
     let t := m.seeded c roll
     let caliper := match roll.bind Roll.data with
       | some d => if 0 < d.remaining then d.caliper else c.caliper
       | none => c.caliper
     t.state = .seeded ∧ t.readings = [] ∧ t.average = none ∧ t.measLength = none ∧ t.reference = none ∧ t.rejects = 0 ∧
     t.totalRejects = m.totalRejects ∧ t.fed = 0 ∧ t.countLength = t.loadLength ∧ t.caliper = caliper ∧
     t.spliceLength = lengthAt c.core caliper c.splice ∧ t.minLength = lengthAt c.core caliper c.margin ∧
     (∀ d, roll.bind Roll.data = some d → 0 < d.remaining →
       t.seed = .fromRecord ∧ t.loadLength = d.remaining * 1000 ∧ t.remaining = min (d.remaining * 1000) 71619300) ∧
     ((roll.bind Roll.data = none ∨ ∃ d, roll.bind Roll.data = some d ∧ d.remaining = 0) →
       t.seed = .unseeded ∧ t.loadLength = 0 ∧ t.remaining = 71619300)) ∧
   (∀ (e : Env) (r : Nat) (z : Zone) (y : Reel) (w : Splice) (x : Arm), z.reels.get? r = some y →
     z.splice.stands.get? r = some w → y.running = some x →
     let m := y.meas x
     let due := m.remaining ≤ m.minLength ∧ w.runoutRaised = false ∧ w.state ≠ .pasting ∧ w.state ≠ .cutting
     let stop := fun (f : Splice → Splice) =>
       ({ z with splice := { z.splice with stands := z.splice.stands.modify r f, pressStop := true } } : Zone)
     let fault := fun (z' : Zone) => raise e .runout
       [.reelstand r, .arm (w.running.getD .a), .serial (runningSerial z r)] z'
     (¬ due → evalRunout e r z = z) ∧
     (due → w.state ∉ [.accelerating, .matched] →
       evalRunout e r z = fault (stop fun w => { w with runoutRaised := true })) ∧
     (due → w.state ∈ [.accelerating, .matched] → w.deferred = [] →
       evalRunout e r z = fault (stop fun w =>
         { w with runoutRaised := true, accelerateOut := false, matchTimer := none, pasteArmed := false, manual := false,
                  inhibited := true, state := .prepared })))) ∧
  ((∀ (m : Meas) (core : Nat) (counter : WebPos) (missing : Bool),
     let p := m.point core counter missing
     let count := m.loadLength - m.fed
     let counted := p.remaining = if m.seed = .fromRecord then min m.remaining count else m.remaining
     (m.state = .noRoll → p.remaining = m.remaining) ∧
     (m.state = .deadReckoning → counted ∧ p.measLength = m.measLength) ∧
     (m.reference = none → p.measLength = m.measLength ∧ (m.state = .seeded → counted) ∧
       (m.state = .measuring → p.remaining = m.remaining)) ∧
     (∀ ref, m.reference = some ref →
       let x := if missing then 6001 else (counter - ref).toNat
       let L := fun (c : Nat) => if c ≤ core then 0 else (c * c - core * core) * 79577 / (1000 * m.caliper)
       let bad := 6000 < x ∨ x ≤ core ∨
         (m.state = .measuring ∧ ∀ c, m.average = some c → ¬ (c - c / 16 ≤ x ∧ x ≤ c + c / 64))
       let fourth := (m.readings ++ [x]).sum / 4
       let next := (m.readings.tail ++ [x]).sum / 4
       (m.state = .seeded → bad ∨ m.readings.length ≠ 3 → counted ∧ p.measLength = m.measLength) ∧
       (m.state = .seeded → ¬ bad → m.readings.length = 3 →
         p.measLength = some (L fourth) ∧ p.remaining = min m.remaining (L fourth) ∧
         (m.seed = .unseeded → p.loadLength = L fourth ∧ p.fed = 0)) ∧
       (m.state = .measuring → bad → p.measLength = m.measLength ∧
         p.remaining = if m.rejects + 1 = 3 ∧ m.seed = .fromRecord then min m.remaining count else m.remaining) ∧
       (m.state = .measuring → ¬ bad →
         p.measLength = some (L next) ∧ p.remaining = min m.remaining (L next)))) ∧
   (∀ core caliper x : Nat, (x ≤ core → lengthAt core caliper x = 0) ∧
     (core < x → lengthAt core caliper x = (x * x - core * core) * 79577 / (1000 * caliper))))

/-- REVOLUTION_INDEX and MISSING_INDEX_POINT, in JOINING as in ACTIVE. An index that finds a missing-index point due, the web
counter 6,001 mm or more past the reference, is taken after that point (R121; when a point is served is log entry 20). An
index of the running arm is a revolution point of its record, and in CUTTING with the knife armed fires the knife (R143); an
index of the standby arm in MATCHED with the paste armed, and L_rem still not above L_splice or a manual splice pending,
fires the paste (R142), and in any other case does nothing. A point writes the record; the third reject in a row raises the
dead reckoning fault, held while the reelstand is splicing (R125, R150), before the change of L_rem is served and under the
serial that stands on the arm, which is the model's choice (log entry 66, DESIGN CHOICE); a point that moves L_rem is followed by what R128
lists: the roll record on the arm takes floor(L_rem / 1000) m when it is the roll that was seeded (log entry 61), T is
recomputed, L_rem and T are given, and the runout call conditions are looked at (R131). -/
def Obligations.RevolutionIndexTaken : Prop :=
  (∀ (r : Nat) (x : Arm) (s : State), s.measures = true →
    exec (.revolutionIndex r x) s = .next (s.endEvent (revolutionIndexed s.env r x s.zone)) ∧
    exec (.missingIndexPoint r) s = .next (s.endEvent (serveMissingIndex s.env r s.zone))) ∧
  (∀ (e : Env) (r : Nat) (x : Arm) (z : Zone) (y : Reel) (c : ReelCfg) (w : Splice), z.reels.get? r = some y →
    e.img.reel? r = some c → z.splice.stands.get? r = some w →
    let counter := ((e.webs.get? r).map Web.counter).getD 0
    let due := ∃ a ref, y.running = some a ∧ (y.meas a).reference = some ref ∧ 6001 ≤ (counter - ref).toNat
    let point := fun (missing : Bool) => revolutionPoint e r missing z
    let fires := w.state = .matched ∧ w.pasteArmed = true ∧ w.running = some x.other ∧
      (w.manual = true ∨ ∃ a, y.running = some a ∧ (y.meas a).remaining ≤ (y.meas a).spliceLength)
    (due → serveMissingIndex e r z = point true ∧ revolutionIndexed e r x z = revolutionIndexed e r x (point true)) ∧
    (¬ due → serveMissingIndex e r z = z ∧
      (y.running = some x →
        (w.state ≠ .cutting ∨ w.knifeArmed = none → revolutionIndexed e r x z = point false) ∧
        (w.state = .cutting → w.knifeArmed ≠ none → revolutionIndexed e r x z = modSplice r (fun w =>
          { w with knifeOut := true, knifeFired := true, knifeArmed := none, knifeTimer := some (e.now + 20) })
            (point false))) ∧
      (y.running ≠ some x →
        (fires → revolutionIndexed e r x z = modSplice r (fun w =>
          { w with pasteOut := true, pasteFired := true, pasteArmed := false, manual := false,
                   pasteTimer := some (e.now + 20), state := .pasting }) z) ∧
        (¬ fires → revolutionIndexed e r x z = z))) ∧
    (∀ a missing, y.running = some a →
      let old := y.meas a
      let new := old.point c.core counter missing
      let written := modReel r (fun y => y.setMeas a new) z
      let context := [CtxElem.reelstand r, .arm a, .serial (armSerial z r a)] ++ (new.average.map CtxElem.number).toList ++
        (new.lastRejected.map CtxElem.number).toList
      let told :=
        if old.state ≠ .deadReckoning ∧ new.state = .deadReckoning then
          (if w.state ∈ [.accelerating, .matched, .pasting, .cutting] then
             modSplice r (fun w => { w with deferred := holdFault ⟨.deadReckoning, e.now, context⟩ w.deferred }) written
           else raise e .deadReckoning context written)
        else written
      point missing = if new.remaining ≠ old.remaining then lengthChanged e r a told else told)) ∧
  (∀ (e : Env) (r : Nat) (a : Arm) (z : Zone) (y : Reel), z.reels.get? r = some y →
    let m := y.meas a
    let t := y.estimate (webSpeed e r)
    let given := fun (z' : Zone) =>
      let z1 := evalRunout e r (evalPaste (modReel r (fun y => { y with timeToSplice := t }) z') r)
      evalRunoutCall e r (if t ≠ y.timeToSplice then evalSplice e r z1 else z1)
    (m.serial = 0 → lengthChanged e r a z = given z) ∧
    (∀ k, m.serial ≠ 0 → rollAt z (.arm r a) = some k → k.serial = m.serial → lengthChanged e r a z =
      given (setRoll (.arm r a) { k with data := k.data.map fun d => { d with remaining := m.remaining / 1000 } } z)) ∧
    (m.serial ≠ 0 → rollAt z (.arm r a) = none → (∀ w, z.splice.stands.get? r = some w →
        w.state ∉ [.accelerating, .matched, .pasting, .cutting]) →
      lengthChanged e r a z =
        given (raise e .mismatch [.place (.arm r a), .serial m.serial, .serial 0] z)))

/-- STANDBY_READY_CHANGE (R139), SPEED_MATCHED_CHANGE and MATCH_TIMEOUT (R141): each change of level acts by the
splice state; the match timer that expires in ACCELERATING makes the reelstand PREPARED and inhibited, with its fault.
The start of an acceleration (R140), looked at on entering PREPARED, at a change of T and as a web break ends: in PREPARED
with T at the lead A or below, v at least 100 mm/s, not inhibited and no web break, and in ACTIVE only (log entry 40, DEDUCED),
the output turns on, the four flags of the splice clear, the match timer starts for 300 ds and the state is ACCELERATING, or
MATCHED at once with speed matched active (R141). In SINGLE with T at A or below and not raised yet, the late roll fault is
raised once, with reelstand, running serial and T, and number, state and late flag of the RUNOUT call that stands. In MATCHED
the paste is armed with L_rem not above L_splice or a manual splice pending (R142). -/
def Obligations.AccelerationInputs : Prop :=
  (∀ (r : Nat) (on : Bool) (s : State) (w : Splice), s.isActive = true → s.zone.splice.stands.get? r = some w →
     let z := s.zone
     let old := (s.inputs.reels.get? r).getD ReelIns.idle
     let ready : State := { s with inputs := { s.inputs with reels := s.inputs.reels.set r { old with standbyReady := on } } }
     let matched : State := { s with inputs := { s.inputs with reels := s.inputs.reels.set r { old with speedMatched := on } } }
     let t := exec (.standbyReadyChange r on) s
     let u := exec (.speedMatchedChange r on) s
     (old.standbyReady = on → t = .next ready) ∧ (old.speedMatched = on → u = .next matched) ∧
     (old.standbyReady ≠ on →
       (w.state = .loaded → on = true → t = .next (ready.endEvent (enterPrepared ready.env r z))) ∧
       (w.state = .prepared → on = false →
         t = .next (ready.endEvent (modSplice r (fun w => { w with state := .loaded }) z))) ∧
       (w.state = .accelerating ∨ w.state = .matched → on = false →
         t = .next (ready.endEvent (setSpliceState ready.env r .loaded (modSplice r (fun w =>
           { w with accelerateOut := false, matchTimer := none, pasteArmed := false, manual := false }) z)))) ∧
       (w.state ∉ [.loaded, .prepared, .accelerating, .matched] ∨ (w.state = .loaded ∧ on = false) ∨
           (w.state ∈ [.prepared, .accelerating, .matched] ∧ on = true) → t = .next (ready.endEvent z))) ∧
     (old.speedMatched ≠ on →
       (w.state = .accelerating → on = true → u = .next (matched.endEvent (enterMatched r z))) ∧
       (w.state = .matched → on = false → u = .next (matched.endEvent (modSplice r (fun w =>
         { w with state := .accelerating, matchTimer := some (s.time + 300), pasteArmed := false }) z))) ∧
       (w.state ∉ [.accelerating, .matched] ∨ (w.state = .accelerating ∧ on = false) ∨ (w.state = .matched ∧ on = true) →
         u = .next (matched.endEvent z))) ∧
     (∀ at', w.state = .accelerating → w.matchTimer = some at' → liesAfter at' s.time = false → w.deferred = [] →
       exec (.matchTimeout r) s = .next (s.endEvent (raise s.env .matchTimeout
         [.reelstand r, .serial (armSerial z r (standbyArm z r))] (modSplice r (fun w =>
           { w with accelerateOut := false, matchTimer := none, pasteArmed := false, manual := false, inhibited := true,
                    state := .prepared }) z)))) ∧
     (w.state ≠ .accelerating ∨ w.matchTimer = none ∨ (∃ at', w.matchTimer = some at' ∧ liesAfter at' s.time = true) →
       exec (.matchTimeout r) s = .next (s.endEvent z))) ∧
  (∀ (e : Env) (r : Nat) (z : Zone) (w : Splice), z.splice.stands.get? r = some w →
     let T := ((z.reels.get? r).map Reel.timeToSplice).getD 65535
     let A := ((e.img.reel? r).map ReelCfg.lead).getD 0
     let v := ((e.webs.get? r).map Web.speed).getD 0
     let i := reelIns e r
     let changed := fun (f : Splice → Splice) =>
       ({ z with splice := { z.splice with stands := z.splice.stands.modify r f } } : Zone)
     let starts := w.state = .prepared ∧ T ≤ A ∧ 100 ≤ v ∧ w.inhibited = false ∧ i.webBreak = false ∧ e.station = .active
     let late := w.state = .single ∧ T ≤ A ∧ w.lateRaised = false
     let wanted := w.manual = true ∨ ∃ y x, z.reels.get? r = some y ∧ y.running = some x ∧
       (y.meas x).remaining ≤ (y.meas x).spliceLength
     (starts → i.speedMatched = false → evalSplice e r z = changed fun w =>
       { w with accelerateOut := true, pasteFired := false, knifeFired := false, pasteDone := false, knifeDone := false,
                matchTimer := some (e.now + 300), state := .accelerating }) ∧
     (∀ armed : Bool, starts → i.speedMatched = true → (armed = true ↔ w.pasteArmed = true ∨ wanted) →
       evalSplice e r z = changed fun w =>
         { w with accelerateOut := true, pasteFired := false, knifeFired := false, pasteDone := false, knifeDone := false,
                  matchTimer := none, state := .matched, pasteArmed := armed }) ∧
     (late → evalSplice e r z =
       let told := raise e .lateRoll
         ([.reelstand r, .serial ((w.running.map fun x => armSerial z r x).getD 0), .number T] ++
           (match z.supply.calls.get? (Need.runout r).key with
            | some c => [.call c.number, .number c.state.code, .number (if c.late then 1 else 0)]
            | none => [])) z
       { told with splice := { told.splice with stands := told.splice.stands.modify r fun w => { w with lateRaised := true } } }) ∧
     (¬ starts → ¬ late → evalSplice e r z = z) ∧
     (w.state = .matched → wanted → evalPaste z r = changed fun w => { w with pasteArmed := true }) ∧
     (w.state ≠ .matched ∨ ¬ wanted → evalPaste z r = z))

/-- PASTE_DONE, PASTE_TIMEOUT, KNIFE_FALLBACK, KNIFE_DONE and KNIFE_TIMEOUT (R142, R143, R144, R146): paste done in
PASTING gives the splice mark, arms the knife and enters CUTTING; 10 ds later the knife fires without an index; knife
done after the firing swaps the arms, and a second knife done in SPLICE_FAILED is without effect (one swap a splice: log
entry 38, DESIGN CHOICE); a timer that expires first fails the splice.
The arm swap at knife done (R144): the roll of the new running arm is RUNNING, that of the old one a BUTT, and no other
record changes; from CUTTING the reelstand is SINGLE with the accelerate output off and the inhibited flag clear; the new
running arm's record is seeded from its roll and the old one is in NO_ROLL (R119, R120); and a BUTT_CLEAR order for the butt
is asked for in P (R75). The splice fails the same way whatever its cause: outputs off, timers stopped, press stop on, and
the fault of its code with reelstand, running arm, both serials and the cause (R146). -/
def Obligations.PasteAndKnife : Prop :=
  (∀ (r : Nat) (s : State) (w : Splice), s.isActive = true → s.zone.splice.stands.get? r = some w →
     let e := s.env
     let z := s.zone
     let marked := giveSpliceMark e r (armSerial z r ((runningArm z r).getD .a))
       (armSerial z r ((runningArm z r).getD .a).other) z
     let knifeOff := modSplice r (fun w => { w with knifeOut := false, knifeTimer := none, knifeDone := true }) z
     (w.state = .pasting → exec (.pasteDone r) s = .next (s.endEvent (modSplice r (fun w =>
       { w with pasteOut := false, pasteTimer := none, pasteDone := true, knifeArmed := some s.time, state := .cutting })
         marked))) ∧
     (w.state = .spliceFailed → w.pasteFired = true → w.pasteDone = false → exec (.pasteDone r) s =
       .next (s.endEvent (modSplice r (fun w => { w with pasteDone := true }) marked))) ∧
     (w.state ≠ .pasting → (w.state ≠ .spliceFailed ∨ w.pasteFired = false ∨ w.pasteDone = true) →
       exec (.pasteDone r) s = .next (s.endEvent z)) ∧
     (∀ t, w.state = .pasting → w.pasteTimer = some t → liesAfter t s.time = false →
       exec (.pasteTimeout r) s = .next (s.endEvent (enterFailed e r .missedPaste .pasteTimer z))) ∧
     (w.state ≠ .pasting ∨ w.pasteTimer = none ∨ (∃ t, w.pasteTimer = some t ∧ liesAfter t s.time = true) →
       exec (.pasteTimeout r) s = .next (s.endEvent z)) ∧
     (∀ t, w.state = .cutting → w.knifeArmed = some t → liesAfter (t + 10) s.time = false →
       exec (.knifeFallback r) s = .next (s.endEvent (modSplice r (fun w =>
         { w with knifeOut := true, knifeFired := true, knifeArmed := none, knifeTimer := some (s.time + 20) }) z))) ∧
     (w.state ≠ .cutting ∨ w.knifeArmed = none ∨ (∃ t, w.knifeArmed = some t ∧ liesAfter (t + 10) s.time = true) →
       exec (.knifeFallback r) s = .next (s.endEvent z)) ∧
     (w.state = .cutting ∨ w.state = .spliceFailed → w.knifeFired = true → w.knifeDone = false →
       exec (.knifeDone r) s = .next (s.endEvent (swapArms e r knifeOff))) ∧
     (w.state ∉ [.cutting, .spliceFailed] ∨ w.knifeFired = false ∨ w.knifeDone = true →
       exec (.knifeDone r) s = .next (s.endEvent z)) ∧
     (∀ t, w.state = .cutting → w.knifeTimer = some t → liesAfter t s.time = false →
       exec (.knifeTimeout r) s = .next (s.endEvent (enterFailed e r .missedKnife .knifeTimer z))) ∧
     (w.state ≠ .cutting ∨ w.knifeTimer = none ∨ (∃ t, w.knifeTimer = some t ∧ liesAfter t s.time = true) →
       exec (.knifeTimeout r) s = .next (s.endEvent z)) ∧
     (∀ x, w.running = some x → w.state = .spliceFailed →
       ((swapArms e r z).splice.stands.get? r).map (fun w =>
           (w.running, w.state, w.accelerateOut, w.lateRaised, w.inhibited)) =
         some (some x.other, .spliceFailed, false, false, false)) ∧
     (let off := modSplice r (fun w =>
         { w with accelerateOut := false, pasteOut := false, knifeOut := false, matchTimer := none, pasteTimer := none,
                  knifeTimer := none, state := .spliceFailed }) z
       let stop : Zone := { off with splice := { off.splice with pressStop := true } }
       let x := w.running.getD .a
       w.deferred = [] → enterFailed e r .missedPaste .pasteTimer z =
         raise e .missedPaste
           [.reelstand r, .arm x, .serial (armSerial z r x), .serial (armSerial z r x.other), .cause .pasteTimer] stop)) ∧
  ((∀ (e : Env) (r : Nat) (z : Zone) (w : Splice) (x : Arm) (y : Reel) (c : ReelCfg) (a b : Roll),
     z.splice.stands.get? r = some w → w.state = .cutting → w.running = some x → z.reels.get? r = some y →
     (y.meas x.other).state = .noRoll → e.img.reel? r = some c → rollAt z (.arm r x) = some a →
     rollAt z (.arm r x.other) = some b →
     let t := swapArms e r z
     let butt : OrderReq :=
       { queue := .p, origin := .buttClear, serial := a.serial, source := .arm r x, dest := .anyButt, dockTrigger := none,
         armTrigger := none, vehicle := none, callRef := none }
     rollAt t (.arm r x) = some { a with state := .butt } ∧ rollAt t (.arm r x.other) = some { b with state := .running } ∧
     (∀ k, k ≠ (Place.arm r x).key → k ≠ (Place.arm r x.other).key → t.stock.rolls.get? k = z.stock.rolls.get? k) ∧
     (t.splice.stands.get? r).map (fun w => (w.state, w.running, w.accelerateOut, w.inhibited)) =
       some (.single, some x.other, false, false) ∧
     (t.reels.get? r).map (fun y => (y.meas x.other, (y.meas x).state)) =
       some ((y.meas x.other).seeded c (some { b with state := .running }), .noRoll) ∧
     ∃ l, t.agenda = l ++ [.requestOrder butt]) ∧
   (∀ (e : Env) (r : Nat) (z : Zone) (w : Splice) (code : FaultCode) (cause : SpliceCause),
     z.splice.stands.get? r = some w → w.deferred = [] →
     let off := modSplice r (fun w =>
       { w with accelerateOut := false, pasteOut := false, knifeOut := false, matchTimer := none, pasteTimer := none,
                knifeTimer := none, state := .spliceFailed }) z
     let stop : Zone := { off with splice := { off.splice with pressStop := true } }
     let x := w.running.getD .a
     enterFailed e r code cause z =
       raise e code [.reelstand r, .arm x, .serial (armSerial z r x), .serial (armSerial z r x.other), .cause cause] stop))

/-! ### Events of the press (Chapters 7, 8 and 9) -/

/-- WEB_BREAK and WEB_BREAK_CLEAR, in JOINING as in ACTIVE: a break of a web in use puts a run in BREAK (R168); the
record on the running arm counts it, to 7 at most, and is defective from the image's threshold on (R175, R176); an
identified one that was not defective alerts, and in JOINING the alert frame is held (R176); a running arm with no
record gives the mismatch fault of R51 (log entry 61, DEDUCED). Then the splice acts by its state, in ACTIVE (R146). A break that ends lets a run in BREAK go on when the gate shows good and no other break is
active (R168), and the acceleration conditions are looked at (R140), in ACTIVE only (log entry 40, DEDUCED). An input
that was so already, a reelstand outside the make-up, START and INERT change only the level.
A web break in the splice states (R146, Table 7-6-1): in ACCELERATING and MATCHED the reelstand falls to PREPARED with the
accelerate output off, the match timer stopped and neither an armed paste nor a manual splice pending; in PASTING the splice
fails as a missed paste, in CUTTING as a missed knife; in any other state the splice stays as it is. A reelstand that leaves
the splicing states releases its deferred set, into the fault record with its counts, the older occurrence first (R151). -/
def Obligations.WebBreaksTaken : Prop :=
  (∀ (r : Nat) (s : State),
     let old := (s.inputs.reels.get? r).getD ReelIns.idle
     let broken : State := { s with inputs := { s.inputs with reels := s.inputs.reels.set r { old with webBreak := true } } }
     let whole : State := { s with inputs := { s.inputs with reels := s.inputs.reels.set r { old with webBreak := false } } }
     let z := s.zone
     let inUse : Bool := (s.env.img.reel? r).any (·.webInUse)
     let stop := inUse = true ∧ s.spoilage.condition ≠ .idle
     let goOn := inUse = true ∧ s.spoilage.condition = .broken ∧ s.inputs.wasteGate = false ∧ breakActive whole.env = false
     let spStop := if stop then s.spoilage.setCondition .broken else s.spoilage
     let spGoOn := if goOn then s.spoilage.setCondition .production else s.spoilage
     let stopped : State := { broken with spoilage := spStop }
     let freed : State := { whole with spoilage := spGoOn }
     (old.webBreak = true ∨ s.measures = false ∨ s.loader.image = none ∨ s.env.img.reel? r = none →
       exec (.webBreak r) s = .next broken) ∧
     (old.webBreak = false ∨ s.measures = false ∨ s.loader.image = none ∨ s.env.img.reel? r = none →
       exec (.webBreakClear r) s = .next whole) ∧
     (s.measures = true → s.loader.image ≠ none → s.env.img.reel? r ≠ none →
       (old.webBreak = false → runningArm z r = none →
         (s.isActive = true → exec (.webBreak r) s = .next (stopped.endEvent (webBroken broken.env r z))) ∧
         (s.isActive = false → exec (.webBreak r) s = .next stopped)) ∧
       (∀ x w, old.webBreak = false → runningArm z r = some x → rollAt z (.arm r x) = some w →
         let n := min 7 (w.breaks + 1)
         let alerts := 0 < s.env.img.lotThreshold ∧ s.env.img.lotThreshold ≤ n
         let counted := setRoll (.arm r x) { w with breaks := n, defect := w.defect || decide alerts } z
         let lot := w.serial &&& 0xFFFFFF00#32
         (¬ alerts ∨ w.defect = true ∨ w.serial = 0 →
           (s.isActive = true → exec (.webBreak r) s = .next (stopped.endEvent (webBroken broken.env r counted))) ∧
           (s.isActive = false → exec (.webBreak r) s = .next { stopped with zone := counted })) ∧
         (alerts → w.defect = false → w.serial ≠ 0 → s.isActive = true →
           exec (.webBreak r) s = .next (stopped.endEvent (webBroken broken.env r
             (raise broken.env .lotAlertIssued [.serial w.serial, .serial lot, .reelstand r, .number n]
               (offer broken.env ⟨0, .lotAlert lot w.serial⟩ (addAlert broken.env w.serial s.loader.number counted)))))) ∧
         (alerts → w.defect = false → w.serial ≠ 0 → s.isActive = false →
           exec (.webBreak r) s = .next { stopped with
             spoilage := { spStop with heldAlerts := spStop.heldAlerts ++ [⟨w.serial⟩] }
             zone := raise broken.env .lotAlertIssued [.serial w.serial, .serial lot, .reelstand r, .number n] counted })) ∧
       (∀ x, old.webBreak = false → runningArm z r = some x → rollAt z (.arm r x) = none →
         let named := raiseForReel broken.env r .mismatch [.place (.arm r x), .serial 0, .serial 0] z
         (s.isActive = true → exec (.webBreak r) s = .next (stopped.endEvent (webBroken broken.env r named))) ∧
         (s.isActive = false → exec (.webBreak r) s = .next { stopped with zone := named })) ∧
       (old.webBreak = true →
         (s.isActive = true → exec (.webBreakClear r) s = .next (freed.endEvent (evalSplice whole.env r z))) ∧
         (s.isActive = false → exec (.webBreakClear r) s = .next freed)))) ∧
  (∀ (e : Env) (r : Nat) (z : Zone) (w : Splice), z.splice.stands.get? r = some w →
     let fallen := modSplice r (fun w =>
       { w with accelerateOut := false, matchTimer := none, pasteArmed := false, manual := false, state := .prepared }) z
     let empty := modSplice r (fun w =>
       { w with accelerateOut := false, matchTimer := none, pasteArmed := false, manual := false, state := .prepared,
                deferred := [] }) z
     let told := fun (h : HeldFault) (z' : Zone) => recordAndReport e h.latest h.count z'
     (w.state = .accelerating ∨ w.state = .matched → (reelIns e r).webBreak = true →
       (w.deferred = [] → webBroken e r z = fallen) ∧
       (∀ h, w.deferred = [h] → webBroken e r z = told h empty) ∧
       (∀ h k, w.deferred = [h, k] → webBroken e r z =
         if liesAfter h.latest.time k.latest.time then told h (told k empty) else told k (told h empty))) ∧
     (w.state = .pasting → webBroken e r z = enterFailed e r .missedPaste .webBreak z) ∧
     (w.state = .cutting → webBroken e r z = enterFailed e r .missedKnife .webBreak z) ∧
     (w.state ∉ [.accelerating, .matched, .pasting, .cutting] → webBroken e r z = z))

/-- WASTE_GATE_CHANGE: a gate that changes to showing good puts MAKEREADY, CHANGEOVER, and BREAK with no active break of
a web in use, in PRODUCTION; every other change, and every change outside JOINING and ACTIVE or in a zone without
reelstands, is only the level's. With the condition its status bit is set and that of the condition left clears; log
bits only rise (R168, R172). That the gate is without effect in a zone without reelstands is drawn from R13 and the end
of 9-2 (log entry 42, DEDUCED). -/
def Obligations.WasteGateTaken : Prop :=
  ∀ (waste : Bool) (s : State),
    let s' : State := { s with inputs := { s.inputs with wasteGate := waste } }
    let c := s.spoilage.condition
    let opens := s.inputs.wasteGate = true ∧ waste = false ∧ s.measures = true ∧ s.env.img.reels ≠ [] ∧
      (c = .makeready ∨ c = .changeover ∨ (c = .broken ∧ breakActive s'.env = false))
    (opens → exec (.wasteGateChange waste) s = .next { s' with spoilage := s.spoilage.setCondition .production }) ∧
    (¬ opens → exec (.wasteGateChange waste) s = .next s') ∧
    (∀ (sp : Spoilage) (k : PressCondition),
      (sp.setCondition k).condition = k ∧
      (sp.setCondition k).status = { sp.status with makeready := decide (k = .makeready), breaks := decide (k = .broken),
                                                    changeover := decide (k = .changeover),
                                                    splice := sp.status.splice && decide (k ≠ .idle),
                                                    running := sp.status.running && decide (k ≠ .idle) } ∧
      (sp.setCondition k).log = sp.log.union (sp.setCondition k).status ∧
      { sp.setCondition k with condition := sp.condition, status := sp.status, log := sp.log } = sp)

/-- FOLDER_COPY_PULSE, in JOINING as in ACTIVE: arrivals, classification, charge of a waste copy to the active webs, and
the eject windows, in this order; with the copy that fills the rate window the window is decided between the
classification and the charge (R158, R161, R174). RATE_WINDOW_END finds a full window only where a copy has not ended
it, and is otherwise without effect: the model's choice (log entry 29).
What the charge and the rate window do (R160, R174). A web is active with its web in use, its reelstand not EMPTY and a
folder roll; a waste copy adds the cutoff to the waste length and 1 to the waste copies of each active web, both saturating,
and leaves every other web and the rest of the zone alone. A window that ends with more than M waste copies adds 1 to the
run's over-window count and sets RATE_HIGH, with its log bit, and raises the rate high fault, with W, M, the waste copies and
the edition, only where RATE_HIGH was clear; any other end clears it. The window's waste becomes the last window's, and the
counts 0. -/
def Obligations.CopyPulseTaken : Prop :=
  (∀ (s : State), s.measures = true → s.env.img.reels ≠ [] → s.loader.image ≠ none →
     let e := s.env
     let arrived := copyArrivals e s.zone
     let k := category s.spoilage.condition (arrived.folder.webs.any fun w => decide (0 < w.2.window)) s.inputs.wasteGate
     let webs := (reelNumbers e).filter (webActive e arrived)
     let sp := s.spoilage.countCopy k (decide (2 ≤ (arrived.folder.webs.filter fun w => 0 < w.2.window).length)) e.img.cutoff webs
     let full := k ≠ .idle ∧ (4 + e.img.rateX) * 2 ^ e.img.rateY / 4 ≤ sp.windowCopies
     let charged := fun (z : Zone) => if k = .idle ∨ k = .good then z else copyCharge e z
     let windows := fun (z : Zone) => ({ z with folder :=
       { eject := z.folder.webs.any fun w => decide (0 < w.2.window)
         webs := z.folder.webs.map fun w => (w.1, { w.2 with window := w.2.window - 1 }) } } : Zone)
     (¬ full → exec .folderCopyPulse s =
       .next (({ s with spoilage := sp } : State).endEvent (windows (charged arrived)))) ∧
     (full → exec .folderCopyPulse s =
       .next (({ s with spoilage := sp.endWindow e.img } : State).endEvent (windows (charged (raiseRateHigh e sp arrived))))) ∧
     ((4 + e.img.rateX) * 2 ^ e.img.rateY / 4 ≤ s.spoilage.windowCopies → exec .rateWindowEnd s =
       .next (({ s with spoilage := s.spoilage.endWindow e.img } : State).endEvent (raiseRateHigh e s.spoilage s.zone))) ∧
     (s.spoilage.windowCopies < (4 + e.img.rateX) * 2 ^ e.img.rateY / 4 → exec .rateWindowEnd s = .next s) ∧
     (∀ s' : State, s'.measures = false → exec .folderCopyPulse s' = .next s' ∧ exec .rateWindowEnd s' = .next s')) ∧
  ((∀ (e : Env) (z : Zone),
     let active := fun (r : Nat) => (∃ c, e.img.reel? r = some c ∧ c.webInUse = true) ∧
       (∃ w, z.splice.stands.get? r = some w ∧ w.state ≠ .empty) ∧ ∃ w, z.folder.webs.get? r = some w ∧ w.folderRoll ≠ none
     let t := copyCharge e z
     (∀ r, webActive e z r = true ↔ active r) ∧
     (∀ r w, z.folder.webs.get? r = some w →
       (active r → t.folder.webs.get? r = some { w with
         wasteLength := min 4294967295 (w.wasteLength + e.img.cutoff), wasteCopies := min 4294967295 (w.wasteCopies + 1) }) ∧
       (¬ active r → t.folder.webs.get? r = some w)) ∧
     (∀ r, z.folder.webs.get? r = none → t.folder.webs.get? r = none) ∧
     { t with folder := { t.folder with webs := z.folder.webs } } = z) ∧
   (∀ (s : Spoilage) (i : Image),
     let ended := fun (on : Bool) (count : Nat) => ({ s with
       status := { s.status with rateHigh := on }, log := s.log.union { s.status with rateHigh := on },
       run := { s.run with overWindow := count },
       lastWindowWaste := s.windowWaste, windowCopies := 0, windowWaste := 0 } : Spoilage)
     (i.rateM < s.windowWaste → s.endWindow i = ended true (min 4294967295 (s.run.overWindow + 1))) ∧
     (s.windowWaste ≤ i.rateM → s.endWindow i = ended false s.run.overWindow)) ∧
   (∀ (e : Env) (s : Spoilage) (z : Zone),
     (e.img.rateM < s.windowWaste → s.status.rateHigh = false → raiseRateHigh e s z =
       raise e .rateHigh [.number ((4 + e.img.rateX) * 2 ^ e.img.rateY / 4), .number e.img.rateM, .number s.windowWaste,
                          .number s.edition.number] z) ∧
     (s.windowWaste ≤ e.img.rateM ∨ s.status.rateHigh = true → raiseRateHigh e s z = z)))

/-- The first line of Table 9-2-1 that holds gives a copy its category (R169).
A copy in IDLE adds 1 to the idle count and nothing else; a copy in a run category adds 1 to its category's count of the
edition and of the run, 1 to the overlap count with two windows open, the cutoff for each active web to the sheet length,
and for a waste copy the cutoff to the waste of each active web; metres carry at 1,000 mm. The rate window counts run copies
only, and the SPLICE and RUNNING bits follow the category (R170, R172, R174). -/
def Obligations.CopiesCounted : Prop :=
  (∀ (c : PressCondition) (window waste : Bool),
     (c = .idle → category c window waste = .idle) ∧ (c = .broken → category c window waste = .broken) ∧
     (c = .changeover → category c window waste = .changeover) ∧ (c = .makeready → category c window waste = .makeready) ∧
     (c = .production → window = true → category c window waste = .splice) ∧
     (c = .production → window = false → waste = true → category c window waste = .running) ∧
     (c = .production → window = false → waste = false → category c window waste = .good)) ∧
  ((∀ (s : Spoilage) (overlap : Bool) (cutoff : Nat) (webs : List Nat),
     s.countCopy .idle overlap cutoff webs =
       { s with idleCopies := min 4294967295 (s.idleCopies + 1),
                status := { s.status with splice := false, running := false },
                log := s.log.union { s.status with splice := false, running := false } }) ∧
   (∀ (s : Spoilage) (k : Category) (overlap : Bool) (cutoff : Nat) (webs : List Nat), k ≠ .idle →
     let t := s.countCopy k overlap cutoff webs
     let waste := k ≠ .good
     t.idleCopies = s.idleCopies ∧ t.condition = s.condition ∧ t.lastRun = s.lastRun ∧
     t.lastWindowWaste = s.lastWindowWaste ∧ t.edition.number = s.edition.number ∧ t.run.number = s.run.number ∧
     t.run.editions = s.run.editions ∧ t.run.overWindow = s.run.overWindow ∧
     t.windowCopies = s.windowCopies + 1 ∧ t.windowWaste = s.windowWaste + (if k = .good then 0 else 1) ∧
     t.status = { s.status with splice := decide (k = .splice), running := decide (k = .running) } ∧
     (∀ old new, (old = s.edition.counts ∧ new = t.edition.counts) ∨ (old = s.run.counts ∧ new = t.run.counts) →
       new.good = (if k = .good then min 4294967295 (old.good + 1) else old.good) ∧
       new.makeready = (if k = .makeready then min 4294967295 (old.makeready + 1) else old.makeready) ∧
       new.splice = (if k = .splice then min 4294967295 (old.splice + 1) else old.splice) ∧
       new.breaks = (if k = .broken then min 4294967295 (old.breaks + 1) else old.breaks) ∧
       new.changeover = (if k = .changeover then min 4294967295 (old.changeover + 1) else old.changeover) ∧
       new.running = (if k = .running then min 4294967295 (old.running + 1) else old.running) ∧
       new.overlap = (if overlap then min 4294967295 (old.overlap + 1) else old.overlap) ∧
       (old.sheet.rest < 1000 → old.sheet.m + (old.sheet.rest + cutoff * webs.length) / 1000 ≤ 4294967295 →
         new.sheet.rest < 1000 ∧
         new.sheet.m * 1000 + new.sheet.rest = old.sheet.m * 1000 + old.sheet.rest + cutoff * webs.length) ∧
       (¬ waste → new.webWaste = old.webWaste) ∧
       (waste → webs.Nodup → ∀ r, new.webWaste.get? r =
         if r ∈ webs then some (((old.webWaste.get? r).getD ⟨0, 0⟩).add cutoff) else old.webWaste.get? r))))

/-- A mark arrives at the folder at a copy pulse when the web has gone on by the path length since its position, modulo 2^40:
it leaves the queue, the folder roll's account is closed, the new serial is the folder roll with an empty account, its eject
window is N copies, and the mark-lost flag clears; a web whose head mark is nearer stays as it is (R159).
The account of a folder roll that closes at less than 1 m is dropped; one of serial 0 adds to the web's unattributed waste;
one whose record stands in the own table, but not on a vehicle in PASSING, is charged there; any other goes out as a ROLL
WASTE to all. The last closed account shows the disposal (R162).
How a mark is stored and a new running roll reported (R155, R156). A mark joins the tail of the path queue with fewer than 4
marks there and its position after the tail's, and is lost otherwise, the mark-lost flag set. A roll reported on a web without
a folder roll becomes it, with an empty account; with a folder roll it gives a thread mark at the web counter, from the web's
latest serial, the tail mark's new serial or with no mark the folder roll, to the reported one.
The disposal of a closed account (Table 8-3-1): NONE below 1 m first, UNATTRIBUTED for the folder roll 0, OWN for a roll whose
record stands in the zone, but not on a vehicle in PASSING, LINE for any other. -/
def Obligations.MarkArrivesAndAccountCloses : Prop :=
  (∀ (e : Env) (r : Nat) (z : Zone) (w : WebPath) (c : ReelCfg), z.folder.webs.get? r = some w → e.img.reel? r = some c →
     let counter := ((e.webs.get? r).map Web.counter).getD 0
     (w.marks = [] → arriveAt e r z = z) ∧
     (∀ m rest, w.marks = m :: rest →
       ((counter - m.position).toNat < c.path → arriveAt e r z = z) ∧
       (c.path ≤ (counter - m.position).toNat →
         ((arriveAt e r z).folder.webs.get? r).map (fun w =>
             (w.marks, w.folderRoll, w.wasteLength, w.wasteCopies, w.window, w.markLost)) =
           some (rest, some m.new, 0, 0, e.img.ejectCount, false) ∧
         (∀ f, w.folderRoll = some f →
           ((arriveAt e r z).folder.webs.get? r).bind (·.lastClosed) =
             some ⟨f, w.wasteLength / 1000, w.wasteCopies, disposalOf z f (w.wasteLength / 1000)⟩)))) ∧
  (∀ (e : Env) (r : Nat) (z : Zone) (w : WebPath) (f : Serial), z.folder.webs.get? r = some w → w.folderRoll = some f →
     let m := w.wasteLength / 1000
     let shown := fun (d : Disposal) (z : Zone) => modWeb r (fun x => { x with lastClosed := some ⟨f, m, w.wasteCopies, d⟩ }) z
     (m = 0 → closeAccount e r z = shown .none z) ∧
     (m ≠ 0 → f = 0 → closeAccount e r z = shown .unattributed
       (modWeb r (fun x => { x with unattributed := min 4294967295 (x.unattributed + m) }) z)) ∧
     (∀ k y, m ≠ 0 → f ≠ 0 → findSerial z f = some (k, y) → onPassing z k = false → closeAccount e r z = shown .own
       { z with stock := { z.stock with rolls := z.stock.rolls.modify k fun y => { y with waste := min 65535 (y.waste + m) } } }) ∧
     (m ≠ 0 → f ≠ 0 → (findSerial z f = none ∨ ∃ k y, findSerial z f = some (k, y) ∧ onPassing z k = true) →
       (closeAccount e r z = shown .line (offer e ⟨0, .rollWaste f (BitVec.ofNat 16 (min 65535 m))⟩ z)))) ∧
  ((∀ (w : WebPath) (m : Mark),
     let fits := w.marks.length < 4 ∧ ∀ front tail, w.marks = front ++ [tail] →
       1 ≤ (m.position - tail.position).toNat ∧ (m.position - tail.position).toNat < 2 ^ 39
     (fits → w.store m = { w with marks := w.marks ++ [m] }) ∧ (¬ fits → w.store m = { w with markLost := true })) ∧
   (∀ (e : Env) (r : Nat) (s : Serial) (z : Zone) (w : WebPath), z.folder.webs.get? r = some w →
     let counter := ((e.webs.get? r).map Web.counter).getD 0
     let reported := fun (w : WebPath) =>
       ({ z with folder := { z.folder with webs := z.folder.webs.modify r fun _ => w } } : Zone)
     (w.folderRoll = none →
       reportRunningRoll e r s z = reported { w with folderRoll := some s, wasteLength := 0, wasteCopies := 0 }) ∧
     (∀ f, w.folderRoll = some f → w.marks = [] → reportRunningRoll e r s z = reported (w.store ⟨counter, f, s⟩)) ∧
     (∀ f front tail, w.folderRoll = some f → w.marks = front ++ [tail] →
       reportRunningRoll e r s z = reported (w.store ⟨counter, tail.new, s⟩)))) ∧
  (∀ (z : Zone) (folder : Serial) (metres : Nat),
     (metres = 0 → disposalOf z folder metres = .none) ∧
     (metres ≠ 0 → folder = 0 → disposalOf z folder metres = .unattributed) ∧
     (metres ≠ 0 → folder ≠ 0 → ownPlace z folder ≠ none → disposalOf z folder metres = .own) ∧
     (metres ≠ 0 → folder ≠ 0 → ownPlace z folder = none → disposalOf z folder metres = .line))

/-! ### Faults (Chapter 10) -/

/-- An occurrence is recorded in the entry of its class, once as it is raised and with its count n, 1 to 255, when a deferred
set is released: count n and its own severity in a class without an entry, else the count goes up by n to 255 at most and the
highest severity rises with it; the latest code, time and context are the occurrence's; no other class changes (R180, R184).
The lead context becomes the occurrence when it is absent or no graver, and stays when it is graver, whatever the count
(R181). -/
def Obligations.FaultsRecorded : Prop :=
  (∀ (f : FaultRecord) (o : Occurrence) (n : Nat), 1 ≤ n → n ≤ 255 →
     let k := o.code.cls.index
     let t := f.record o n
     (f.entries.get? k = none → t.entries.get? k = some ⟨o.code.severity, n, o⟩) ∧
     (∀ c, f.entries.get? k = some c → t.entries.get? k =
       some ⟨if c.highest.code ≤ o.code.severity.code then o.code.severity else c.highest, min 255 (c.count + n), o⟩) ∧
     (∀ j, j ≠ k → t.entries.get? j = f.entries.get? j) ∧ t.level = f.level ∧
     (f.entries.sorted = true → t.entries.sorted = true)) ∧
  (∀ (f : FaultRecord) (o : Occurrence) (n : Nat),
     (f.lead = none → (f.record o n).lead = some o) ∧
     (∀ l, f.lead = some l → l.code.severity.code ≤ o.code.severity.code → (f.record o n).lead = some o) ∧
     (∀ l, f.lead = some l → o.code.severity.code < l.code.severity.code → (f.record o n).lead = some l))

/-- A raised fault is recorded with the present time, and one FAULT REPORT to all is offered when the level reports its
severity, with the class entry as it then stands; a STOPPING one at level 2 or 3 leaves level 1; level 0 reports nothing
(R182). A released occurrence with its count is recorded and reported in the same way, once, with its own time (R184); that a
STOPPING one is reported at the level before the change is log entry 44 (DEDUCED).
Held faults (R150, R151, R184). A MEASURE fault of a reelstand that is splicing joins its deferred set: a first of its code as a
new entry with count 1, a further one in the entry of its code, with the count up to 255 and the latest time and context; of any
other reelstand it is raised at once. The set, when released, is empty, and each entry is recorded once with its count, the one of
the older latest occurrence first; of two of one zone time the one whose entry was made first (log entry 76, DESIGN CHOICE). -/
def Obligations.FaultsReported : Prop :=
  (∀ (e : Env) (o : Occurrence) (n : Nat) (z : Zone) (level : Nat), z.faults.level = some level → level ≤ 3 →
     let f := z.faults.record o n
     let z' : Zone := { z with faults := f }
     let sent := offer e ⟨0, faultReportBody f o.code.cls⟩ z'
     let t := recordAndReport e o n z
     (level = 0 ∨ (level = 1 ∧ o.code.severity ≠ .stopping) ∨ (level = 2 ∧ o.code.severity = .notice) → t = z') ∧
     (level = 1 → o.code.severity = .stopping → t = sent) ∧
     (2 ≤ level → o.code.severity = .stopping → t = { sent with faults := { sent.faults with level := some 1 } }) ∧
     (o.code.severity ≠ .stopping → (2 ≤ level ∧ o.code.severity = .degrading ∨ level = 3) → t = sent) ∧
     (∀ code context, raise e code context z = recordAndReport e ⟨code, e.now, context⟩ 1 z)) ∧
  (∀ (e : Env) (r : Nat) (z : Zone) (w : Splice), z.splice.stands.get? r = some w →
     let splicing := w.state ∈ [.accelerating, .matched, .pasting, .cutting]
     let with' := fun (l : List HeldFault) =>
       ({ z with splice := { z.splice with stands := z.splice.stands.modify r fun w => { w with deferred := l } } } : Zone)
     (∀ code context, ¬ splicing → raiseForReel e r code context z = raise e code context z) ∧
     (∀ code context, splicing → (∀ h ∈ w.deferred, h.latest.code ≠ code) →
       raiseForReel e r code context z = with' (w.deferred ++ [⟨1, ⟨code, e.now, context⟩⟩])) ∧
     (∀ code context first h rest, splicing → w.deferred = first ++ h :: rest → h.latest.code = code →
       (∀ x ∈ first, x.latest.code ≠ code) →
       raiseForReel e r code context z = with' (first ++ ⟨min 255 (h.count + 1), ⟨code, e.now, context⟩⟩ :: rest)) ∧
     (w.deferred = [] → releaseDeferred e r z = with' []) ∧
     (∀ a, w.deferred = [a] → releaseDeferred e r z = recordAndReport e a.latest a.count (with' [])) ∧
     (∀ a b, w.deferred = [a, b] → releaseDeferred e r z =
       if liesAfter a.latest.time b.latest.time then
         recordAndReport e a.latest a.count (recordAndReport e b.latest b.count (with' []))
       else recordAndReport e b.latest b.count (recordAndReport e a.latest a.count (with' []))))

/-- An event that leaves nothing to be served ends with the zone as it left it: endEvent is the model's form of the
blocks' requests to each other within one event (log entry 4, DESIGN CHOICE). Outside ACTIVE the commands that
activeOnly lists change nothing (R16; that the blocks' timers are among them is log entry 21, DEDUCED). -/
def Obligations.EventsAtRestEnd : Prop :=
  (∀ (s : State) (z : Zone), (s.loader.station = .active → z.atRest s.env = true) → s.endEvent z = { s with zone := z }) ∧
  (∀ (c : Instr) (s : State), activeOnly c = true → s.isActive = false → exec c s = .next s)

/-! ### Orders of the carriage, restart and the tables -/

/-- The carriage is handed out (R86 to R88), triggers looked at first (R78). HALTED: nothing is selected. IDLE: the oldest
READY order of P, else the SUSPENDED order, else the oldest READY order of O. RUNNING: a READY P order preempts an O order in
step 1 or 2, which becomes SUSPENDED with its step and serial kept, its hold notices cleared and its command withdrawn; any
other running order makes the check of its WAIT step. A selected order begins step 1, its serial resolved (R80; a THROUGH
lane with records but none at position 1 is log entry 58), and the carriage is commanded to the source. A SUSPENDED order
restarts so under RESTART_ORDER; under RESUME_STEP it keeps its serial and travels back to the source, or fails with its
underrun fault when the source no longer holds the serial. The context of an underrun fault, order, step, place and serial, is
the model's choice (log entry 13, DESIGN CHOICE; R80 and R88 list none).
The checks of the WAIT steps (R79, R81, R83). Step 2: READY begins step 3 with the PICK commanded; NOT_READY holds, with
the hold notice of the place set once; UNDERRUN fails the order with its fault, a lane's underrun flag set. The take check is
that of Table 3-2-2 (R55), an arm's and a dock's that of R81. Step 5 at a target: a quarantined roll at an arm is redirected
into storage (R84); READY begins step 6 with the SET commanded; the first OVERRUN raises its fault and sets the lane's flag;
NOT_READY and OVERRUN hold. The put check is that of Table 3-2-3 (R56). With no target the storage choice is made again, and
with none found the order holds at the place the carriage place input names (R76, log entry 34). The contexts of the underrun and
overrun faults here, order, step, place and serial, are the model's choice too (log entry 13; R81 and R83 list none), as is
NOT_READY for a dock vehicle that is away and holds another load (log entry 73, DESIGN CHOICE). -/
def Obligations.OrdersSelected : Prop :=
  (∀ (e : Env) (z : Zone),
     let t := refreshTriggers e z
     let first := fun (st : OrderState) (l : List Order) (o : Order) =>
       o.state = st ∧ ∃ older younger, l = older ++ o :: younger ∧ ∀ x ∈ older, x.state ≠ st
     let none' := fun (st : OrderState) (l : List Order) => ∀ x ∈ l, x.state ≠ st
     (∀ o ∈ allOrders z, o.state = .waitingTrigger ∨ o.state = .ready →
       { o with state := if triggerHolds e z o then .ready else .waitingTrigger } ∈ allOrders t) ∧
     (∀ o, z.transfer.carriage = .halted o → house e z = t) ∧
     (z.transfer.carriage = .idle →
       (∀ p, first .ready t.transfer.ordersP p → house e z = beginOrder e p t) ∧
       (∀ o, none' .ready t.transfer.ordersP → first .suspended t.transfer.ordersO o → house e z = resumeOrder e o t) ∧
       (∀ o, none' .ready t.transfer.ordersP → none' .suspended t.transfer.ordersO → first .ready t.transfer.ordersO o →
         house e z = beginOrder e o t) ∧
       (none' .ready t.transfer.ordersP → none' .suspended t.transfer.ordersO → none' .ready t.transfer.ordersO →
         house e z = t)) ∧
     (∀ o, runningOrder t = some o →
       (∀ p, first .ready t.transfer.ordersP p → o.req.queue = .o → o.step ≤ 2 →
         let left := modOrder o.number (fun o => { o with state := .suspended, holding := false }) (clearHold o.number t)
         house e z = beginOrder e p { left with transfer := { left.transfer with command := none } }) ∧
       (none' .ready t.transfer.ordersP ∨ o.req.queue = .p ∨ 2 < o.step →
         (o.step = 2 → house e z = waitSource e o t) ∧ (o.step = 5 → house e z = waitDest e o t) ∧
         (o.step ≠ 2 → o.step ≠ 5 → house e z = t))) ∧
     (∀ o : Order,
       let taken := modOrder o.number (fun o => { o with state := .running, step := 1 })  z
       let running : Zone := { taken with transfer := { taken.transfer with carriage := .running o.number } }
       let src := sourcePlace e o
       let travel := fun (f : Order → Order) (z : Zone) =>
         let y := modOrder o.number (fun o => { f o with step := 1, stepStart := e.now, holding := false,
                                                         overrunRaised := false }) z
         ({ y with transfer := { y.transfer with command := some (.travel, src), doneInput := false } } : Zone)
       let go := fun (x : Serial) => travel (fun o => { o with serial := x }) running
       let through := fun (l : Nat) => (∃ p, o.req.source = .lane l p) ∧ laneMode? e l = some .through
       (∀ l, through l → src = .lane l 1) ∧ ((∀ l, ¬ through l) → src = o.req.source) ∧
       (o.req.serial ≠ 0 → beginOrder e o z = go o.req.serial) ∧
       (o.req.serial = 0 → (∀ l, ¬ through l) → beginOrder e o z = go 0) ∧
       (∀ l, o.req.serial = 0 → through l →
         (∀ r, rollAt running (.lane l 1) = some r → r.serial ≠ 0 →
             (∃ x ∈ allOrders running, x.number ≠ o.number ∧ x.serial = r.serial) →
           beginOrder e o z = failOrder e o .duplicate
             (modStat o.req.queue (fun c => { c with overrun := min 65535 (c.overrun + 1) }) running)) ∧
         (∀ r, rollAt running (.lane l 1) = some r →
             (r.serial = 0 ∨ ∀ x ∈ allOrders running, x.number ≠ o.number → x.serial ≠ r.serial) →
           beginOrder e o z = go r.serial) ∧
         (rollAt running (.lane l 1) = none → (∃ p, 1 ≤ p ∧ p ≤ lanePositions e l ∧ rollAt running (.lane l p) ≠ none) →
           beginOrder e o z = go 0) ∧
         ((∀ p, 1 ≤ p → p ≤ lanePositions e l → rollAt running (.lane l p) = none) → 1 ≤ lanePositions e l →
           let flagged := modLane l (fun c => { c with underrun := true }) running
           beginOrder e o z = failOrder e { o with step := 1 } .underrun
             (raise e .underrun [.order o.number, .step 1, .place src, .serial o.serial] flagged))) ∧
       (e.img.resume = .restartOrder → resumeOrder e o z = beginOrder e o z) ∧
       (e.img.resume = .resumeStep →
         let back := modOrder o.number (fun o => { o with state := .running }) z
         let again : Zone := { back with transfer := { back.transfer with carriage := .running o.number } }
         let lost := fun (z' : Zone) => failOrder e o .underrun
           (raise e .underrun [.order o.number, .step o.step, .place src, .serial o.serial] z')
         (∀ l, through l →
           ((∃ p r, 1 ≤ p ∧ p ≤ lanePositions e l ∧ rollAt z (.lane l p) = some r ∧ r.serial = o.serial) →
             resumeOrder e o z = travel id again) ∧
           ((∀ p r, 1 ≤ p → p ≤ lanePositions e l → rollAt z (.lane l p) = some r → r.serial ≠ o.serial) →
             resumeOrder e o z = lost (modLane l (fun c => { c with underrun := true }) again))) ∧
         (∀ l p, o.req.source = .lane l p → laneMode? e l ≠ some .through →
           ((∃ r, rollAt z (.lane l p) = some r ∧ r.serial = o.serial) → resumeOrder e o z = travel id again) ∧
           ((∀ r, rollAt z (.lane l p) = some r → r.serial ≠ o.serial) → resumeOrder e o z = lost again)) ∧
         (∀ n x, o.req.source = .arm n x →
           ((∃ r, rollAt z (.arm n x) = some r ∧ r.serial = o.serial) → resumeOrder e o z = travel id again) ∧
           ((∀ r, rollAt z (.arm n x) = some r → r.serial ≠ o.serial) → resumeOrder e o z = lost again)) ∧
         (∀ d, o.req.source = .dock d →
           ((∃ slot v r, o.vehicle.bind (findVehicle z) = some (slot, v) ∧ rollAt z (.vehicle slot) = some r ∧
               r.serial = o.serial) → resumeOrder e o z = travel id again) ∧
           ((∀ slot v r, o.vehicle.bind (findVehicle z) = some (slot, v) → rollAt z (.vehicle slot) = some r →
               r.serial ≠ o.serial) → resumeOrder e o z = lost again))))) ∧
  (∀ (e : Env) (o : Order) (z : Zone),
     let src := sourcePlace e o
     let begins := fun (step : Nat) (m : Motion) (p : Place) (f : Order → Order) =>
       let y := modOrder o.number (fun o => { f o with step := step, stepStart := e.now, holding := false,
                                                       overrunRaised := false }) (clearHold o.number z)
       ({ y with transfer := { y.transfer with command := some (m, p), doneInput := false } } : Zone)
     let holds := fun (p : Place) (z : Zone) =>
       if o.holding then z
       else setNotice p (fun x => { x with hold := some ⟨o.number, o.step, e.now⟩ })
         (modOrder o.number (fun o => { o with holding := true }) z)
     let ready2 := waitSource e o z = begins 3 .pick src id
     let hold2 := waitSource e o z = holds src z
     let under2 := waitSource e o z = failOrder e o .underrun
       (raise e .underrun [.order o.number, .step o.step, .place src, .serial o.serial] (flagUnderrun src z))
     let is := fun (p : Place) => ∃ r, rollAt z p = some r ∧ r.serial = o.serial
     (∀ l p c, src = .lane l p → laneRec z l = some c →
       (c.inService = false → hold2) ∧
       (c.inService = true → laneMode? e l = some .pick →
         (is (.lane l p) → laneDetector e l p = true → ready2) ∧ (is (.lane l p) → laneDetector e l p = false → hold2) ∧
         (¬ is (.lane l p) → under2)) ∧
       (c.inService = true → laneMode? e l = some .through →
         (is (.lane l 1) → laneDetector e l 1 = true → ready2) ∧ (is (.lane l 1) → laneDetector e l 1 = false → hold2) ∧
         (¬ is (.lane l 1) → (∃ q, 1 ≤ q ∧ q ≤ lanePositions e l ∧ is (.lane l q)) → hold2) ∧
         (¬ is (.lane l 1) → (∀ q, 1 ≤ q → q ≤ lanePositions e l → ¬ is (.lane l q)) → under2))) ∧
     (∀ n x, src = .arm n x →
       (is src → mayEmpty e z n x = true → ready2) ∧ (is src → mayEmpty e z n x = false → hold2) ∧ (¬ is src → under2)) ∧
     (∀ d, src = .dock d →
       (o.vehicle.bind (findVehicle z) = none → under2) ∧
       (∀ slot v, o.vehicle.bind (findVehicle z) = some (slot, v) →
         (dockedAt e z v.number d = false → hold2) ∧
         (dockedAt e z v.number d = true → is (.vehicle slot) → ready2) ∧
         (dockedAt e z v.number d = true → ¬ is (.vehicle slot) → under2))) ∧
     (∀ p, o.target = some p →
       let hold5 := waitDest e o z = holds p z
       let over5 := ∀ l q, p = .lane l q →
         let flagged := modLane l (fun c => { c with overrun := true }) z
         waitDest e o z = holds p (if o.overrunRaised then flagged
           else modOrder o.number (fun o => { o with overrunRaised := true })
             (raise e .overrun [.order o.number, .step o.step, .place p, .serial o.serial] flagged))
       let set5 := fun (p : Place) => waitDest e o z = begins 6 .set p (fun o => { o with target := some p })
       (∀ l q c, p = .lane l q → laneRec z l = some c →
         (c.inService = false → hold5) ∧
         (c.inService = true → laneMode? e l = some .pick →
           (rollAt z p = none → laneDetector e l q = false → set5 p) ∧
           (rollAt z p ≠ none ∨ laneDetector e l q = true → over5)) ∧
         (c.inService = true → laneMode? e l = some .through →
           (∀ k, 1 ≤ k → k ≤ lanePositions e l → rollAt z (.lane l k) = none →
               (∀ j, 1 ≤ j → j < k → rollAt z (.lane l j) ≠ none) →
             (laneDetector e l k = false → set5 (.lane l k)) ∧ (laneDetector e l k = true → over5)) ∧
           ((∀ k, 1 ≤ k → k ≤ lanePositions e l → rollAt z (.lane l k) ≠ none) → over5))) ∧
       (∀ n x, p = .arm n x →
         let gripped := ((rollAt z .carriage).map Roll.serial).getD 0
         (quarantined z gripped = false →
           (rollAt z p = none → mayLoad e z n x = true → set5 p) ∧
           (rollAt z p ≠ none ∨ mayLoad e z n x = false → hold5)) ∧
         (quarantined z gripped = true →
           let told : Zone := { z with agenda := z.agenda ++ (o.req.callRef.map fun ref => .loadRedirected ref.call).toList }
           let sent := modOrder o.number (fun o => { o with req :=
             { o.req with origin := .receive, dest := .anyStockOrButt, dockTrigger := none, armTrigger := none,
                          callRef := none } }) (clearHold o.number told)
           let leg := fun (step : Nat) (to' : Option Place) (c : Option (Motion × Place)) (done : Bool) =>
             let y := modOrder o.number (fun o => { o with target := to', step := step, stepStart := e.now, holding := false,
                                                           overrunRaised := false }) sent
             ({ y with transfer := { y.transfer with command := c, doneInput := done } } : Zone)
           let found := match storageChoice e z .stock with
             | some q => some q
             | none => storageChoice e z .butt
           (∀ q, found = some q → waitDest e o z = leg 4 (some q) (some (.travel, q)) false) ∧
           (found = none → waitDest e o z = leg 5 none none z.transfer.doneInput))) ∧
       (∀ d c, p = .dock d → e.img.dock? d = some c →
         (c.role = .scrap → set5 p) ∧
         (c.role ≠ .scrap →
           (∀ slot v, o.vehicle.bind (findVehicle z) = some (slot, v) → dockedAt e z v.number d = true → v.loaded = false →
             set5 p) ∧
           ((∀ slot v, o.vehicle.bind (findVehicle z) = some (slot, v) → dockedAt e z v.number d = false ∨ v.loaded = true) →
             hold5)))) ∧
     (o.target = none → o.req.dest = .anyStock ∨ o.req.dest = .anyButt →
       let role := if o.req.dest = .anyStock then LaneRole.stock else .butt
       (storageChoice e z role = none → waitDest e o z =
         (match z.transfer.placeInput with
          | some p => holds p z
          | none => if o.holding then z else modOrder o.number (fun o => { o with holding := true }) z)) ∧
       (∀ q, storageChoice e z role = some q →
         waitDest e o z = begins 4 .travel q (fun o => { o with target := some q }))) ∧
     (∀ role : LaneRole,
       let fits := fun (l p : Nat) => ∃ c k, e.img.lane? l = some k ∧ k.role = role ∧ laneRec z l = some c ∧
         c.inService = true ∧ c.mismatch = false ∧ 1 ≤ p ∧ p ≤ k.positions ∧ rollAt z (.lane l p) = none ∧
         laneDetector e l p = false ∧ (k.mode = .through → ∀ j, 1 ≤ j → j < p → rollAt z (.lane l j) ≠ none)
       (storageChoice e z role = none ↔ ∀ l p, 1 ≤ l → l ≤ e.img.lanes.length → ¬ fits l p) ∧
       (∀ q, storageChoice e z role = some q → ∃ l p, q = .lane l p ∧ fits l p ∧ (∀ j, j < p → ¬ fits l j) ∧
         ∀ m j, m < l → ¬ fits m j)))

/-- What a warm restart resumes on entering ACTIVE (R47, R95, R115, R116, R153; the order of the blocks is log entry 48). The
TC takes each segment's difference as its event, then turns the permits of vehicles under way on again and computes routes
(log entry 23); that a grant holder whose current segment is no longer its own becomes MOVING with no permit is the model's
choice (log entry 64, DESIGN CHOICE). The SS lets standby ready decide between LOADED and PREPARED and starts its watches again. The TS
re-creates, before it accepts any other order, a SHIP order for each roll reserved for a peer, a BUTT_CLEAR order for each
butt, and a RECEIVE order for each loaded vehicle DOCKED at the receiving dock. The SA withdraws every call, one already
WITHDRAWN being freed (log entry 36). The ST confirms each kept peer reservation with a TAKE ANSWER, in ascending order of
place. The order among butts, among docked vehicles and among the calls is the model's choice (log entry 67, DESIGN CHOICE).
The withdrawal of a call, by its state (R111, Table 5-5-1; the order of the two parts is log entry 37). NO_STOCK frees the
entry; COLLECTING and a TAKING whose ROLL TAKE still waits free it and take the frame out of the waiting list; any other
TAKING, and CONFIRMED, become WITHDRAWN and send CALL WITHDRAW to the holder; LOCAL releases the reservation, ends the load
order and frees the entry; DELIVERED ends the order and frees it; WITHDRAWN stays. The load order ends FAILED while the
carriage does not grip its roll; gripped on its way to an arm it is redirected into storage; in its SET it goes on without
the call. -/
def Obligations.WarmRestartResumes : Prop :=
  (∀ (e : Env) (z : Zone),
     let track := (upTo 8).foldl (fun z s => resumeVehicle e s z)
       ((upTo e.img.segments.length).foldl (fun z k => takeDifference e k z) z)
     let stands := resumeReelstands e track
     let orders := (recreations e stands).foldl (fun z r => requestOrder e r z) stands
     let withdrawn := (orders.supply.calls.map fun c => c.2.need).foldl
       (fun z n => if (z.supply.calls.get? n.key).any (fun c => c.state = .withdrawn) then
          { z with supply := { z.supply with calls := z.supply.calls.erase n.key } }
        else withdrawCall e n z) orders
     resumeBlocks e z = reconfirm e withdrawn ∧
     (∀ k, (occupied e k = false → takeDifference e k z = clearSegment e k z) ∧
       (∀ st, occupied e k = true → segState z k = some st →
         (∀ v, st = .occupied v → (presentTag e k = v ∨ presentTag e k = 0 → takeDifference e k z = z) ∧
           (presentTag e k ≠ v → presentTag e k ≠ 0 → takeDifference e k z = tagMismatch e k (presentTag e k) z)) ∧
         (st = .blocked → takeDifference e k z = z) ∧
         ((st = .free ∨ (∃ v, st = .granted v) ∨ ∃ v, st = .reserved v) →
           takeDifference e k z = readTag e k (presentTag e k) z))) ∧
     (∀ slot v, z.track.vehicles.get? slot = some v →
       let on := fun (c : Nat) => modSeg c (fun s => { s with permit := true }) z
       let goes := fun (st : VehState) (z : Zone) => computeRoute e slot (modVehicle slot (fun v => { v with state := st }) z)
       (v.state = .incoming → resumeVehicle e slot z = z) ∧
       (v.state = .stranded ∨ v.state = .parked → resumeVehicle e slot z = computeRoute e slot z) ∧
       (∀ d, v.state = .docked → goalOf e v = .dock d →
         resumeVehicle e slot z = if atDock e d then computeRoute e slot z else goes .held z) ∧
       (v.state = .moving ∨ v.state = .held →
         (v.granted = none → resumeVehicle e slot z = proceed e slot (computeRoute e slot z)) ∧
         (∀ c, v.granted ≠ none → v.current = some c →
           (segState z c = some (.occupied v.number) ∨ segState z c = some .blocked →
             resumeVehicle e slot z = goes .moving (on c)) ∧
           (segState z c ≠ some (.occupied v.number) → segState z c ≠ some .blocked →
             resumeVehicle e slot z = goes .moving z))) ∧
       (∀ c, v.state = .passing → v.current = some c →
         (segState z c = some (.occupied v.number) ∨ (segState z c = some .blocked ∧ presentTag e c = v.number) →
           resumeVehicle e slot z = on c) ∧
         (segState z c ≠ some (.occupied v.number) → segState z c ≠ some .blocked → resumeVehicle e slot z = z))) ∧
     ((resumeReelstands e z).splice.watch = [] ∧ (resumeReelstands e z).splice.pressStop = z.splice.pressStop ∧
       { resumeReelstands e z with splice := z.splice } = z ∧
       ∀ r w, 1 ≤ r → r ≤ e.img.reels.length → z.splice.stands.get? r = some w →
         (resumeReelstands e z).splice.stands.get? r = some
           (if w.state = .loaded ∧ (reelIns e r).standbyReady = true then { w with state := .prepared }
            else if w.state = .prepared ∧ (reelIns e r).standbyReady = false then { w with state := .loaded } else w)) ∧
     (let ships := z.stock.rolls.filterMap fun x => x.2.reservation.bind fun ref => (laneOfKey x.1).bind fun l =>
        if ref.station = e.own then none
        else
          let d := e.img.loadingDock.getD 0
          some ({ queue := .p, origin := .ship, serial := x.2.serial, source := .lane l.1 l.2, dest := .place (.dock d),
                  dockTrigger := some d, armTrigger := none, vehicle := none, callRef := some ref } : OrderReq)
      let butts := z.stock.rolls.filterMap fun x => (placeOfKey x.1).bind fun p => match p with
        | .arm r a => if x.2.state = .butt then
            some ({ queue := .p, origin := .buttClear, serial := x.2.serial, source := .arm r a, dest := .anyButt,
                    dockTrigger := none, armTrigger := none, vehicle := none, callRef := none } : OrderReq)
          else none
        | _ => none
      let receives := z.track.vehicles.filterMap fun x => e.img.receivingDock.bind fun d =>
        if x.2.loaded = true ∧ dockedAt e z x.2.number d = true then
          some ({ queue := .o, origin := .receive, serial := ((rollAt z (.vehicle x.1)).map Roll.serial).getD 0,
                  source := .dock d, dest := .anyStock, dockTrigger := some d, armTrigger := none,
                  vehicle := some x.2.number, callRef := none } : OrderReq)
        else none
      recreations e z = ships ++ butts ++ receives) ∧
     (let answers := z.stock.rolls.filterMap fun x => x.2.reservation.bind fun ref =>
        if ref.station = e.own then none
        else some (⟨ref.station, .takeAnswer (byte ref.call) x.2.serial 1⟩ : TxFrame)
      e.station = .active → z.line.waiting = [] → z.line.queue.length + answers.length ≤ 16 →
        reconfirm e z = { z with line := { z.line with queue := z.line.queue ++ answers } })) ∧
  (∀ (e : Env) (n : Need) (c : Call) (z : Zone), z.supply.calls.get? n.key = some c → c.need = n →
     let free := fun (z : Zone) => ({ z with supply := { z.supply with calls := z.supply.calls.erase n.key } } : Zone)
     let drop := fun (p : Body → Prop) (t : Zone) =>
       t.line.waiting.Sublist z.line.waiting ∧ (∀ f, f ∈ t.line.waiting ↔ f ∈ z.line.waiting ∧ ¬ p f.body) ∧
       t = free { z with line := { z.line with waiting := t.line.waiting } }
     let leaves := ∀ o, c.chosen = some o → withdrawCall e n z =
       offer e ⟨o.station, .callWithdraw (byte c.number)⟩
         { z with supply := { z.supply with calls := z.supply.calls.set n.key { c with state := .withdrawn } } }
     let released := match z.stock.rolls.find? fun x => x.2.reservation.any fun r => r.station = e.own && r.call = c.number with
       | some (k, _) => release k z
       | none => z
     (c.state = .noStock → withdrawCall e n z = free z) ∧
     (c.state = .collecting →
       drop (fun b => ∃ k u g w m, b = .rollCall k u g w m ∧ k.toNat = c.number) (withdrawCall e n z)) ∧
     (c.state = .taking → c.takeTime = none →
       drop (fun b => ∃ k x u d, b = .rollTake k x u d ∧ k.toNat = c.number) (withdrawCall e n z)) ∧
     (c.state = .taking → c.takeTime ≠ none → leaves) ∧ (c.state = .confirmed → leaves) ∧
     (c.state = .localService → withdrawCall e n z = free (endLoadOrder e c.number released)) ∧
     (c.state = .delivered → withdrawCall e n z = free (endLoadOrder e c.number z)) ∧
     (c.state = .withdrawn → withdrawCall e n z = z) ∧
     (let serves := fun (r : OrderReq) => (r.origin = .localLoad ∨ r.origin = .callLoad ∨ r.origin = .receive) ∧
        ∃ ref, r.callRef = some ref ∧ ref.station = e.own ∧ ref.call = c.number
      (∀ r ∈ z.transfer.heldP ++ z.transfer.heldO, ¬ serves r) →
        ((∀ o ∈ allOrders z, ¬ serves o.req) → endLoadOrder e c.number z = z) ∧
        (∀ o before after, allOrders z = before ++ o :: after → serves o.req → (∀ x ∈ before, ¬ serves x.req) →
          let gripped := z.transfer.carriage = .running o.number ∧ 4 ≤ o.step
          (¬ gripped → endLoadOrder e c.number z = failOrder e o .withdrawn z) ∧
          (∀ r x, gripped → o.req.dest = .place (.arm r x) → o.step < 6 → endLoadOrder e c.number z = redirectOrder e o z) ∧
          (gripped → 6 ≤ o.step ∨ (∀ r x, o.req.dest ≠ .place (.arm r x)) → endLoadOrder e c.number z =
            modOrder o.number (fun o => { o with req := { o.req with callRef := none } }) z))))
end

