-- ==== Sys2Proof/Laws/Bytes.lean ====
section
/-! SUPPORT. Numbers and their bytes: each byte function against the word function that reads it back (11-1). -/

namespace Sys2Proof.Machine

theorem word16_bytes (w : BitVec 16) : word16 (w.extractLsb' 8 8) (w.extractLsb' 0 8) = w := by
  apply BitVec.eq_of_getLsbD_eq
  intro i hi
  simp only [word16, BitVec.getLsbD_append, BitVec.getLsbD_extractLsb']
  by_cases h : i < 8
  · simp [h]
  · simp [h, show i - 8 < 8 by omega, show 8 + (i - 8) = i by omega]

theorem word24_bytes (w : BitVec 24) :
    word24 (w.extractLsb' 16 8) (w.extractLsb' 8 8) (w.extractLsb' 0 8) = w := by
  apply BitVec.eq_of_getLsbD_eq
  intro i hi
  simp only [word24, BitVec.getLsbD_append, BitVec.getLsbD_extractLsb']
  by_cases h : i < 8
  · simp [h]
  · by_cases h2 : i - 8 < 8
    · simp [h, h2, show 8 + (i - 8) = i by omega]
    · simp [h, h2, show i - 8 - 8 < 8 by omega, show 16 + (i - 8 - 8) = i by omega]

theorem word32_bytes (w : BitVec 32) :
    word32 (w.extractLsb' 24 8) (w.extractLsb' 16 8) (w.extractLsb' 8 8) (w.extractLsb' 0 8) = w := by
  apply BitVec.eq_of_getLsbD_eq
  intro i hi
  simp only [word32, BitVec.getLsbD_append, BitVec.getLsbD_extractLsb']
  by_cases h : i < 8
  · simp [h]
  · by_cases h2 : i - 8 < 8
    · simp [h, h2, show 8 + (i - 8) = i by omega]
    · by_cases h3 : i - 8 - 8 < 8
      · simp [h, h2, h3, show 16 + (i - 8 - 8) = i by omega]
      · simp [h, h2, h3, show i - 8 - 8 - 8 < 8 by omega, show 24 + (i - 8 - 8 - 8) = i by omega]

theorem fromBytes_append (a b : List Byte) : fromBytes (a ++ b) = fromBytes a * 256 ^ b.length + fromBytes b := by
  have gen : ∀ (l : List Byte) (x : Nat), l.foldl (fun a c => a * 256 + c.toNat) x = x * 256 ^ l.length + fromBytes l := by
    intro l
    induction l with
    | nil => intro x; simp [fromBytes]
    | cons c t ih =>
      intro x
      simp only [List.foldl_cons, List.length_cons, fromBytes]
      rw [ih, ih (0 * 256 + c.toNat)]
      ring
  simp only [fromBytes, List.foldl_append]
  rw [gen b]
  rfl

/-- The n bytes of a number below 256^n spell that number. -/
theorem fromBytes_toBytes (n v : Nat) (h : v < 256 ^ n) : fromBytes (toBytes n v) = v := by
  have gen : ∀ n v, fromBytes (toBytes n v) = v % 256 ^ n := by
    intro n
    induction n with
    | zero => intro v; simp [toBytes, fromBytes, Nat.mod_one]
    | succ n ih =>
      intro v
      have hl : ∀ m w, (toBytes m w).length = m := by
        intro m; induction m with
        | zero => intro w; rfl
        | succ m ih => intro w; simp [toBytes, ih]
      have : toBytes (n + 1) v = [byte (v / 256 ^ n)] ++ toBytes n v := rfl
      rw [this, fromBytes_append, ih, hl]
      simp [fromBytes, byte, pow_succ]
      rw [Nat.mod_mul]
      ring
  rw [gen, Nat.mod_eq_of_lt h]

/-! ### The body reader, kind by kind: each true by rfl, so that no proof unfolds its match -/

theorem decodeBody_requestAnswer (k r : Byte) (ref : List Byte) :
    decodeBody .requestAnswer (k :: r :: ref) =
      if ref.length = 6 then some (.requestAnswer k r (BitVec.ofNat 48 (fromBytes ref))) else none := rfl

theorem decodeBody_zoneReport (p i n c : Byte) (d : List Byte) :
    decodeBody .zoneReport (p :: i :: n :: c :: d) = if d.length ≤ 20 then some (.zoneReport p i n c d) else none := rfl

theorem decodeBody_faultReport (bs : List Byte) :
    decodeBody .faultReport bs =
      if bs.length = 24 then
        some (.faultReport (BitVec.ofNat 120 (fromBytes (bs.take 15)))
          (BitVec.ofNat 64 (fromBytes ((bs.drop 15).take 8))) (bs.getD 23 0))
      else none := rfl

theorem decodeBody_rollCall (c u g : Byte) (w : BitVec 16) (m : BitVec 24) :
    decodeBody .rollCall (encodeBody (.rollCall c u g w m)) = some (.rollCall c u g
      (word16 (w.extractLsb' 8 8) (w.extractLsb' 0 8))
      (word24 (m.extractLsb' 16 8) (m.extractLsb' 8 8) (m.extractLsb' 0 8))) := rfl

end Sys2Proof.Machine
end

