-- ==== Sys2Proof/Laws/State.lean ====
section
/-! SUPPORT. One lemma per field for each update of the state and of the zone, all true by rfl: no later proof unfolds a
record update. -/

namespace Sys2Proof.Machine

/-! ### Updates of the whole state -/

@[simp] theorem State.within_pending (s : State) (f : Env → Zone → Zone) : (s.within f).pending = s.pending := rfl
@[simp] theorem State.within_time (s : State) (f : Env → Zone → Zone) : (s.within f).time = s.time := rfl
@[simp] theorem State.within_loader (s : State) (f : Env → Zone → Zone) : (s.within f).loader = s.loader := rfl
@[simp] theorem State.within_inputs (s : State) (f : Env → Zone → Zone) : (s.within f).inputs = s.inputs := rfl
@[simp] theorem State.within_webs (s : State) (f : Env → Zone → Zone) : (s.within f).webs = s.webs := rfl
@[simp] theorem State.within_spoilage (s : State) (f : Env → Zone → Zone) : (s.within f).spoilage = s.spoilage := rfl
@[simp] theorem State.within_zone (s : State) (f : Env → Zone → Zone) : (s.within f).zone = f s.env s.zone := rfl

@[simp] theorem State.modLine_pending (s : State) (f : Line → Line) : (s.modLine f).pending = s.pending := rfl
@[simp] theorem State.modLine_time (s : State) (f : Line → Line) : (s.modLine f).time = s.time := rfl
@[simp] theorem State.modLine_loader (s : State) (f : Line → Line) : (s.modLine f).loader = s.loader := rfl
@[simp] theorem State.modLine_inputs (s : State) (f : Line → Line) : (s.modLine f).inputs = s.inputs := rfl
@[simp] theorem State.modLine_webs (s : State) (f : Line → Line) : (s.modLine f).webs = s.webs := rfl
@[simp] theorem State.modLine_spoilage (s : State) (f : Line → Line) : (s.modLine f).spoilage = s.spoilage := rfl
@[simp] theorem State.modLine_zone (s : State) (f : Line → Line) : (s.modLine f).zone = { s.zone with line := f s.zone.line } := rfl

@[simp] theorem State.modInputs_pending (s : State) (f : Inputs → Inputs) : (s.modInputs f).pending = s.pending := rfl
@[simp] theorem State.modInputs_time (s : State) (f : Inputs → Inputs) : (s.modInputs f).time = s.time := rfl
@[simp] theorem State.modInputs_loader (s : State) (f : Inputs → Inputs) : (s.modInputs f).loader = s.loader := rfl
@[simp] theorem State.modInputs_inputs (s : State) (f : Inputs → Inputs) : (s.modInputs f).inputs = f s.inputs := rfl
@[simp] theorem State.modInputs_webs (s : State) (f : Inputs → Inputs) : (s.modInputs f).webs = s.webs := rfl
@[simp] theorem State.modInputs_spoilage (s : State) (f : Inputs → Inputs) : (s.modInputs f).spoilage = s.spoilage := rfl
@[simp] theorem State.modInputs_zone (s : State) (f : Inputs → Inputs) : (s.modInputs f).zone = s.zone := rfl

@[simp] theorem State.settled_pending (s : State) : (s.settled).pending = s.pending := rfl
@[simp] theorem State.settled_time (s : State) : (s.settled).time = s.time := rfl
@[simp] theorem State.settled_loader (s : State) : (s.settled).loader = s.loader := rfl
@[simp] theorem State.settled_inputs (s : State) : (s.settled).inputs = s.inputs := rfl
@[simp] theorem State.settled_webs (s : State) : (s.settled).webs = s.webs := rfl
@[simp] theorem State.settled_spoilage (s : State) : (s.settled).spoilage = s.spoilage := rfl
@[simp] theorem State.settled_zone (s : State) : (s.settled).zone = finish s.env s.zone := rfl

@[simp] theorem State.onZone_pending (s : State) (f : Env → Zone → Zone) : (s.onZone f).pending = s.pending := rfl
@[simp] theorem State.onZone_time (s : State) (f : Env → Zone → Zone) : (s.onZone f).time = s.time := rfl
@[simp] theorem State.onZone_loader (s : State) (f : Env → Zone → Zone) : (s.onZone f).loader = s.loader := rfl
@[simp] theorem State.onZone_inputs (s : State) (f : Env → Zone → Zone) : (s.onZone f).inputs = s.inputs := rfl
@[simp] theorem State.onZone_webs (s : State) (f : Env → Zone → Zone) : (s.onZone f).webs = s.webs := rfl
@[simp] theorem State.onZone_spoilage (s : State) (f : Env → Zone → Zone) : (s.onZone f).spoilage = s.spoilage := rfl

@[simp] theorem State.heardState_pending (s : State) : (s.heardState).pending = s.pending := rfl
@[simp] theorem State.heardState_time (s : State) : (s.heardState).time = s.time := rfl
@[simp] theorem State.heardState_loader (s : State) : (s.heardState).loader = s.loader := rfl
@[simp] theorem State.heardState_inputs (s : State) : (s.heardState).inputs = s.inputs := rfl
@[simp] theorem State.heardState_webs (s : State) : (s.heardState).webs = s.webs := rfl
@[simp] theorem State.heardState_spoilage (s : State) : (s.heardState).spoilage = s.spoilage := rfl
@[simp] theorem State.heardState_zone (s : State) : (s.heardState).zone = s.heard := rfl

@[simp] theorem State.endEvent_pending (s : State) (z : Zone) : (s.endEvent z).pending = s.pending := rfl
@[simp] theorem State.endEvent_time (s : State) (z : Zone) : (s.endEvent z).time = s.time := rfl
@[simp] theorem State.endEvent_loader (s : State) (z : Zone) : (s.endEvent z).loader = s.loader := rfl
@[simp] theorem State.endEvent_inputs (s : State) (z : Zone) : (s.endEvent z).inputs = s.inputs := rfl
@[simp] theorem State.endEvent_webs (s : State) (z : Zone) : (s.endEvent z).webs = s.webs := rfl
@[simp] theorem State.endEvent_spoilage (s : State) (z : Zone) : (s.endEvent z).spoilage = s.spoilage := rfl

@[simp] theorem State.answer_pending (s : State) (h : Header) (k : Kind) (r : Result) (ref : Reference) : (s.answer h k r ref).pending = s.pending := rfl
@[simp] theorem State.answer_time (s : State) (h : Header) (k : Kind) (r : Result) (ref : Reference) : (s.answer h k r ref).time = s.time := rfl
@[simp] theorem State.answer_loader (s : State) (h : Header) (k : Kind) (r : Result) (ref : Reference) : (s.answer h k r ref).loader = s.loader := rfl
@[simp] theorem State.answer_inputs (s : State) (h : Header) (k : Kind) (r : Result) (ref : Reference) : (s.answer h k r ref).inputs = s.inputs := rfl
@[simp] theorem State.answer_webs (s : State) (h : Header) (k : Kind) (r : Result) (ref : Reference) : (s.answer h k r ref).webs = s.webs := rfl
@[simp] theorem State.answer_spoilage (s : State) (h : Header) (k : Kind) (r : Result) (ref : Reference) : (s.answer h k r ref).spoilage = s.spoilage := rfl

@[simp] theorem State.decide_pending (s : State) (h : Header) (k : Kind) (ref : Reference) (f : Env → Zone → Zone × Result) : (s.decide h k ref f).pending = s.pending := rfl
@[simp] theorem State.decide_time (s : State) (h : Header) (k : Kind) (ref : Reference) (f : Env → Zone → Zone × Result) : (s.decide h k ref f).time = s.time := rfl
@[simp] theorem State.decide_loader (s : State) (h : Header) (k : Kind) (ref : Reference) (f : Env → Zone → Zone × Result) : (s.decide h k ref f).loader = s.loader := rfl
@[simp] theorem State.decide_inputs (s : State) (h : Header) (k : Kind) (ref : Reference) (f : Env → Zone → Zone × Result) : (s.decide h k ref f).inputs = s.inputs := rfl
@[simp] theorem State.decide_webs (s : State) (h : Header) (k : Kind) (ref : Reference) (f : Env → Zone → Zone × Result) : (s.decide h k ref f).webs = s.webs := rfl
@[simp] theorem State.decide_spoilage (s : State) (h : Header) (k : Kind) (ref : Reference) (f : Env → Zone → Zone × Result) : (s.decide h k ref f).spoilage = s.spoilage := rfl

/-- The environment of the blocks is not part of the zone. -/
@[simp] theorem State.within_env (s : State) (f : Env → Zone → Zone) : (s.within f).env = s.env := rfl
@[simp] theorem State.modLine_env (s : State) (f : Line → Line) : (s.modLine f).env = s.env := rfl
@[simp] theorem State.settled_env (s : State) : s.settled.env = s.env := rfl
@[simp] theorem State.heardState_env (s : State) : s.heardState.env = s.env := rfl
@[simp] theorem State.within_isIn (s : State) (f : Env → Zone → Zone) (st : Station) :
    (s.within f).isIn st = s.isIn st := rfl
@[simp] theorem State.modLine_isIn (s : State) (f : Line → Line) (st : Station) : (s.modLine f).isIn st = s.isIn st := rfl
@[simp] theorem State.settled_isIn (s : State) (st : Station) : s.settled.isIn st = s.isIn st := rfl
@[simp] theorem State.heardState_isIn (s : State) (st : Station) : s.heardState.isIn st = s.isIn st := rfl
@[simp] theorem State.modInputs_isIn (s : State) (f : Inputs → Inputs) (st : Station) :
    (s.modInputs f).isIn st = s.isIn st := rfl

/-! ### Updates of the zone: every field but the one an operation is for stays -/

@[simp] theorem Zone.push_line (t : Task) (z : Zone) : (z.push t).line = z.line := rfl
@[simp] theorem Zone.push_track (t : Task) (z : Zone) : (z.push t).track = z.track := rfl
@[simp] theorem Zone.push_stock (t : Task) (z : Zone) : (z.push t).stock = z.stock := rfl
@[simp] theorem Zone.push_transfer (t : Task) (z : Zone) : (z.push t).transfer = z.transfer := rfl
@[simp] theorem Zone.push_supply (t : Task) (z : Zone) : (z.push t).supply = z.supply := rfl
@[simp] theorem Zone.push_reels (t : Task) (z : Zone) : (z.push t).reels = z.reels := rfl
@[simp] theorem Zone.push_splice (t : Task) (z : Zone) : (z.push t).splice = z.splice := rfl
@[simp] theorem Zone.push_folder (t : Task) (z : Zone) : (z.push t).folder = z.folder := rfl
@[simp] theorem Zone.push_faults (t : Task) (z : Zone) : (z.push t).faults = z.faults := rfl

@[simp] theorem setRoll_line (p : Place) (r : Roll) (z : Zone) : (setRoll p r z).line = z.line := rfl
@[simp] theorem setRoll_track (p : Place) (r : Roll) (z : Zone) : (setRoll p r z).track = z.track := rfl
@[simp] theorem setRoll_transfer (p : Place) (r : Roll) (z : Zone) : (setRoll p r z).transfer = z.transfer := rfl
@[simp] theorem setRoll_supply (p : Place) (r : Roll) (z : Zone) : (setRoll p r z).supply = z.supply := rfl
@[simp] theorem setRoll_reels (p : Place) (r : Roll) (z : Zone) : (setRoll p r z).reels = z.reels := rfl
@[simp] theorem setRoll_splice (p : Place) (r : Roll) (z : Zone) : (setRoll p r z).splice = z.splice := rfl
@[simp] theorem setRoll_folder (p : Place) (r : Roll) (z : Zone) : (setRoll p r z).folder = z.folder := rfl
@[simp] theorem setRoll_faults (p : Place) (r : Roll) (z : Zone) : (setRoll p r z).faults = z.faults := rfl
@[simp] theorem setRoll_agenda (p : Place) (r : Roll) (z : Zone) : (setRoll p r z).agenda = z.agenda := rfl

@[simp] theorem eraseRoll_line (p : Place) (z : Zone) : (eraseRoll p z).line = z.line := rfl
@[simp] theorem eraseRoll_track (p : Place) (z : Zone) : (eraseRoll p z).track = z.track := rfl
@[simp] theorem eraseRoll_transfer (p : Place) (z : Zone) : (eraseRoll p z).transfer = z.transfer := rfl
@[simp] theorem eraseRoll_supply (p : Place) (z : Zone) : (eraseRoll p z).supply = z.supply := rfl
@[simp] theorem eraseRoll_reels (p : Place) (z : Zone) : (eraseRoll p z).reels = z.reels := rfl
@[simp] theorem eraseRoll_splice (p : Place) (z : Zone) : (eraseRoll p z).splice = z.splice := rfl
@[simp] theorem eraseRoll_folder (p : Place) (z : Zone) : (eraseRoll p z).folder = z.folder := rfl
@[simp] theorem eraseRoll_faults (p : Place) (z : Zone) : (eraseRoll p z).faults = z.faults := rfl
@[simp] theorem eraseRoll_agenda (p : Place) (z : Zone) : (eraseRoll p z).agenda = z.agenda := rfl

@[simp] theorem modLane_line (l : Nat) (f : Lane → Lane) (z : Zone) : (modLane l f z).line = z.line := rfl
@[simp] theorem modLane_track (l : Nat) (f : Lane → Lane) (z : Zone) : (modLane l f z).track = z.track := rfl
@[simp] theorem modLane_transfer (l : Nat) (f : Lane → Lane) (z : Zone) : (modLane l f z).transfer = z.transfer := rfl
@[simp] theorem modLane_supply (l : Nat) (f : Lane → Lane) (z : Zone) : (modLane l f z).supply = z.supply := rfl
@[simp] theorem modLane_reels (l : Nat) (f : Lane → Lane) (z : Zone) : (modLane l f z).reels = z.reels := rfl
@[simp] theorem modLane_splice (l : Nat) (f : Lane → Lane) (z : Zone) : (modLane l f z).splice = z.splice := rfl
@[simp] theorem modLane_folder (l : Nat) (f : Lane → Lane) (z : Zone) : (modLane l f z).folder = z.folder := rfl
@[simp] theorem modLane_faults (l : Nat) (f : Lane → Lane) (z : Zone) : (modLane l f z).faults = z.faults := rfl
@[simp] theorem modLane_agenda (l : Nat) (f : Lane → Lane) (z : Zone) : (modLane l f z).agenda = z.agenda := rfl

@[simp] theorem modSeg_line (k : Nat) (f : Segment → Segment) (z : Zone) : (modSeg k f z).line = z.line := rfl
@[simp] theorem modSeg_stock (k : Nat) (f : Segment → Segment) (z : Zone) : (modSeg k f z).stock = z.stock := rfl
@[simp] theorem modSeg_transfer (k : Nat) (f : Segment → Segment) (z : Zone) : (modSeg k f z).transfer = z.transfer := rfl
@[simp] theorem modSeg_supply (k : Nat) (f : Segment → Segment) (z : Zone) : (modSeg k f z).supply = z.supply := rfl
@[simp] theorem modSeg_reels (k : Nat) (f : Segment → Segment) (z : Zone) : (modSeg k f z).reels = z.reels := rfl
@[simp] theorem modSeg_splice (k : Nat) (f : Segment → Segment) (z : Zone) : (modSeg k f z).splice = z.splice := rfl
@[simp] theorem modSeg_folder (k : Nat) (f : Segment → Segment) (z : Zone) : (modSeg k f z).folder = z.folder := rfl
@[simp] theorem modSeg_faults (k : Nat) (f : Segment → Segment) (z : Zone) : (modSeg k f z).faults = z.faults := rfl
@[simp] theorem modSeg_agenda (k : Nat) (f : Segment → Segment) (z : Zone) : (modSeg k f z).agenda = z.agenda := rfl

@[simp] theorem modVehicle_line (k : Nat) (f : Vehicle → Vehicle) (z : Zone) : (modVehicle k f z).line = z.line := rfl
@[simp] theorem modVehicle_stock (k : Nat) (f : Vehicle → Vehicle) (z : Zone) : (modVehicle k f z).stock = z.stock := rfl
@[simp] theorem modVehicle_transfer (k : Nat) (f : Vehicle → Vehicle) (z : Zone) : (modVehicle k f z).transfer = z.transfer := rfl
@[simp] theorem modVehicle_supply (k : Nat) (f : Vehicle → Vehicle) (z : Zone) : (modVehicle k f z).supply = z.supply := rfl
@[simp] theorem modVehicle_reels (k : Nat) (f : Vehicle → Vehicle) (z : Zone) : (modVehicle k f z).reels = z.reels := rfl
@[simp] theorem modVehicle_splice (k : Nat) (f : Vehicle → Vehicle) (z : Zone) : (modVehicle k f z).splice = z.splice := rfl
@[simp] theorem modVehicle_folder (k : Nat) (f : Vehicle → Vehicle) (z : Zone) : (modVehicle k f z).folder = z.folder := rfl
@[simp] theorem modVehicle_faults (k : Nat) (f : Vehicle → Vehicle) (z : Zone) : (modVehicle k f z).faults = z.faults := rfl
@[simp] theorem modVehicle_agenda (k : Nat) (f : Vehicle → Vehicle) (z : Zone) : (modVehicle k f z).agenda = z.agenda := rfl

@[simp] theorem modOrder_line (n : Nat) (f : Order → Order) (z : Zone) : (modOrder n f z).line = z.line := rfl
@[simp] theorem modOrder_track (n : Nat) (f : Order → Order) (z : Zone) : (modOrder n f z).track = z.track := rfl
@[simp] theorem modOrder_stock (n : Nat) (f : Order → Order) (z : Zone) : (modOrder n f z).stock = z.stock := rfl
@[simp] theorem modOrder_supply (n : Nat) (f : Order → Order) (z : Zone) : (modOrder n f z).supply = z.supply := rfl
@[simp] theorem modOrder_reels (n : Nat) (f : Order → Order) (z : Zone) : (modOrder n f z).reels = z.reels := rfl
@[simp] theorem modOrder_splice (n : Nat) (f : Order → Order) (z : Zone) : (modOrder n f z).splice = z.splice := rfl
@[simp] theorem modOrder_folder (n : Nat) (f : Order → Order) (z : Zone) : (modOrder n f z).folder = z.folder := rfl
@[simp] theorem modOrder_faults (n : Nat) (f : Order → Order) (z : Zone) : (modOrder n f z).faults = z.faults := rfl
@[simp] theorem modOrder_agenda (n : Nat) (f : Order → Order) (z : Zone) : (modOrder n f z).agenda = z.agenda := rfl

@[simp] theorem setCarriage_line (c : Carriage) (z : Zone) : (setCarriage c z).line = z.line := rfl
@[simp] theorem setCarriage_track (c : Carriage) (z : Zone) : (setCarriage c z).track = z.track := rfl
@[simp] theorem setCarriage_stock (c : Carriage) (z : Zone) : (setCarriage c z).stock = z.stock := rfl
@[simp] theorem setCarriage_supply (c : Carriage) (z : Zone) : (setCarriage c z).supply = z.supply := rfl
@[simp] theorem setCarriage_reels (c : Carriage) (z : Zone) : (setCarriage c z).reels = z.reels := rfl
@[simp] theorem setCarriage_splice (c : Carriage) (z : Zone) : (setCarriage c z).splice = z.splice := rfl
@[simp] theorem setCarriage_folder (c : Carriage) (z : Zone) : (setCarriage c z).folder = z.folder := rfl
@[simp] theorem setCarriage_faults (c : Carriage) (z : Zone) : (setCarriage c z).faults = z.faults := rfl
@[simp] theorem setCarriage_agenda (c : Carriage) (z : Zone) : (setCarriage c z).agenda = z.agenda := rfl

@[simp] theorem command_line (m : Motion) (p : Place) (z : Zone) : (command m p z).line = z.line := rfl
@[simp] theorem command_track (m : Motion) (p : Place) (z : Zone) : (command m p z).track = z.track := rfl
@[simp] theorem command_stock (m : Motion) (p : Place) (z : Zone) : (command m p z).stock = z.stock := rfl
@[simp] theorem command_supply (m : Motion) (p : Place) (z : Zone) : (command m p z).supply = z.supply := rfl
@[simp] theorem command_reels (m : Motion) (p : Place) (z : Zone) : (command m p z).reels = z.reels := rfl
@[simp] theorem command_splice (m : Motion) (p : Place) (z : Zone) : (command m p z).splice = z.splice := rfl
@[simp] theorem command_folder (m : Motion) (p : Place) (z : Zone) : (command m p z).folder = z.folder := rfl
@[simp] theorem command_faults (m : Motion) (p : Place) (z : Zone) : (command m p z).faults = z.faults := rfl
@[simp] theorem command_agenda (m : Motion) (p : Place) (z : Zone) : (command m p z).agenda = z.agenda := rfl

@[simp] theorem withdrawCommand_line (z : Zone) : (withdrawCommand z).line = z.line := rfl
@[simp] theorem withdrawCommand_track (z : Zone) : (withdrawCommand z).track = z.track := rfl
@[simp] theorem withdrawCommand_stock (z : Zone) : (withdrawCommand z).stock = z.stock := rfl
@[simp] theorem withdrawCommand_supply (z : Zone) : (withdrawCommand z).supply = z.supply := rfl
@[simp] theorem withdrawCommand_reels (z : Zone) : (withdrawCommand z).reels = z.reels := rfl
@[simp] theorem withdrawCommand_splice (z : Zone) : (withdrawCommand z).splice = z.splice := rfl
@[simp] theorem withdrawCommand_folder (z : Zone) : (withdrawCommand z).folder = z.folder := rfl
@[simp] theorem withdrawCommand_faults (z : Zone) : (withdrawCommand z).faults = z.faults := rfl
@[simp] theorem withdrawCommand_agenda (z : Zone) : (withdrawCommand z).agenda = z.agenda := rfl

@[simp] theorem setCall_line (c : Call) (z : Zone) : (setCall c z).line = z.line := rfl
@[simp] theorem setCall_track (c : Call) (z : Zone) : (setCall c z).track = z.track := rfl
@[simp] theorem setCall_stock (c : Call) (z : Zone) : (setCall c z).stock = z.stock := rfl
@[simp] theorem setCall_transfer (c : Call) (z : Zone) : (setCall c z).transfer = z.transfer := rfl
@[simp] theorem setCall_reels (c : Call) (z : Zone) : (setCall c z).reels = z.reels := rfl
@[simp] theorem setCall_splice (c : Call) (z : Zone) : (setCall c z).splice = z.splice := rfl
@[simp] theorem setCall_folder (c : Call) (z : Zone) : (setCall c z).folder = z.folder := rfl
@[simp] theorem setCall_faults (c : Call) (z : Zone) : (setCall c z).faults = z.faults := rfl
@[simp] theorem setCall_agenda (c : Call) (z : Zone) : (setCall c z).agenda = z.agenda := rfl

@[simp] theorem freeCall_line (n : Need) (z : Zone) : (freeCall n z).line = z.line := rfl
@[simp] theorem freeCall_track (n : Need) (z : Zone) : (freeCall n z).track = z.track := rfl
@[simp] theorem freeCall_stock (n : Need) (z : Zone) : (freeCall n z).stock = z.stock := rfl
@[simp] theorem freeCall_transfer (n : Need) (z : Zone) : (freeCall n z).transfer = z.transfer := rfl
@[simp] theorem freeCall_reels (n : Need) (z : Zone) : (freeCall n z).reels = z.reels := rfl
@[simp] theorem freeCall_splice (n : Need) (z : Zone) : (freeCall n z).splice = z.splice := rfl
@[simp] theorem freeCall_folder (n : Need) (z : Zone) : (freeCall n z).folder = z.folder := rfl
@[simp] theorem freeCall_faults (n : Need) (z : Zone) : (freeCall n z).faults = z.faults := rfl
@[simp] theorem freeCall_agenda (n : Need) (z : Zone) : (freeCall n z).agenda = z.agenda := rfl

@[simp] theorem modReel_line (r : Nat) (f : Reel → Reel) (z : Zone) : (modReel r f z).line = z.line := rfl
@[simp] theorem modReel_track (r : Nat) (f : Reel → Reel) (z : Zone) : (modReel r f z).track = z.track := rfl
@[simp] theorem modReel_stock (r : Nat) (f : Reel → Reel) (z : Zone) : (modReel r f z).stock = z.stock := rfl
@[simp] theorem modReel_transfer (r : Nat) (f : Reel → Reel) (z : Zone) : (modReel r f z).transfer = z.transfer := rfl
@[simp] theorem modReel_supply (r : Nat) (f : Reel → Reel) (z : Zone) : (modReel r f z).supply = z.supply := rfl
@[simp] theorem modReel_splice (r : Nat) (f : Reel → Reel) (z : Zone) : (modReel r f z).splice = z.splice := rfl
@[simp] theorem modReel_folder (r : Nat) (f : Reel → Reel) (z : Zone) : (modReel r f z).folder = z.folder := rfl
@[simp] theorem modReel_faults (r : Nat) (f : Reel → Reel) (z : Zone) : (modReel r f z).faults = z.faults := rfl
@[simp] theorem modReel_agenda (r : Nat) (f : Reel → Reel) (z : Zone) : (modReel r f z).agenda = z.agenda := rfl

@[simp] theorem modSplice_line (r : Nat) (f : Splice → Splice) (z : Zone) : (modSplice r f z).line = z.line := rfl
@[simp] theorem modSplice_track (r : Nat) (f : Splice → Splice) (z : Zone) : (modSplice r f z).track = z.track := rfl
@[simp] theorem modSplice_stock (r : Nat) (f : Splice → Splice) (z : Zone) : (modSplice r f z).stock = z.stock := rfl
@[simp] theorem modSplice_transfer (r : Nat) (f : Splice → Splice) (z : Zone) : (modSplice r f z).transfer = z.transfer := rfl
@[simp] theorem modSplice_supply (r : Nat) (f : Splice → Splice) (z : Zone) : (modSplice r f z).supply = z.supply := rfl
@[simp] theorem modSplice_reels (r : Nat) (f : Splice → Splice) (z : Zone) : (modSplice r f z).reels = z.reels := rfl
@[simp] theorem modSplice_folder (r : Nat) (f : Splice → Splice) (z : Zone) : (modSplice r f z).folder = z.folder := rfl
@[simp] theorem modSplice_faults (r : Nat) (f : Splice → Splice) (z : Zone) : (modSplice r f z).faults = z.faults := rfl
@[simp] theorem modSplice_agenda (r : Nat) (f : Splice → Splice) (z : Zone) : (modSplice r f z).agenda = z.agenda := rfl

@[simp] theorem modWeb_line (r : Nat) (f : WebPath → WebPath) (z : Zone) : (modWeb r f z).line = z.line := rfl
@[simp] theorem modWeb_track (r : Nat) (f : WebPath → WebPath) (z : Zone) : (modWeb r f z).track = z.track := rfl
@[simp] theorem modWeb_stock (r : Nat) (f : WebPath → WebPath) (z : Zone) : (modWeb r f z).stock = z.stock := rfl
@[simp] theorem modWeb_transfer (r : Nat) (f : WebPath → WebPath) (z : Zone) : (modWeb r f z).transfer = z.transfer := rfl
@[simp] theorem modWeb_supply (r : Nat) (f : WebPath → WebPath) (z : Zone) : (modWeb r f z).supply = z.supply := rfl
@[simp] theorem modWeb_reels (r : Nat) (f : WebPath → WebPath) (z : Zone) : (modWeb r f z).reels = z.reels := rfl
@[simp] theorem modWeb_splice (r : Nat) (f : WebPath → WebPath) (z : Zone) : (modWeb r f z).splice = z.splice := rfl
@[simp] theorem modWeb_faults (r : Nat) (f : WebPath → WebPath) (z : Zone) : (modWeb r f z).faults = z.faults := rfl
@[simp] theorem modWeb_agenda (r : Nat) (f : WebPath → WebPath) (z : Zone) : (modWeb r f z).agenda = z.agenda := rfl

end Sys2Proof.Machine
end

