-- ==== Sys2Proof/Laws/Receive.lean ====
section
/-! SUPPORT. What hearing a frame does, once for every frame command (R7, R8, R9), and the lengths of the bodies. -/

namespace Sys2Proof.Machine

theorem toBytes_length (n v : Nat) : (toBytes n v).length = n := by
  induction n with
  | zero => rfl
  | succ n ih => simp [toBytes, ih]

/-- The body of a well-formed frame has a length that its kind allows (Table 11-2-1). -/
theorem lengthOk_encodeBody (b : Body) (h : b.wf = true) : (bodyKind b).lengthOk (encodeBody b).length = true := by
  cases b <;> simp [bodyKind, encodeBody, Kind.lengthOk, bytes16, bytes24, bytes32, bytesPlace, bytesPassVehicle,
    bytesPassRoll, toBytes_length, Body.wf] at h ⊢
  omega

theorem kindOf_code (k : Kind) : kindOf k.code = some k := by
  cases k <;> rfl

/-- A frame that is taken reaches its block, and its sender is alive (R8, R9). -/
theorem hearBody_of_takes {s : State} {h : Header} {b : Body} (take : State → State) (ht : s.takes h (bodyKind b) = true)
    (hw : b.wf = true) (hr : (bodyKind b).cls ≠ .report) :
    s.hearBody h b take = ((take s.heardState).aliveFrom h.sender).settled := by
  obtain ⟨⟨⟨⟨⟨hact, hign⟩, hst⟩, hown⟩, haddr⟩, hperm⟩ : ((((s.isActive = true ∧ s.zone.line.ignoring = false) ∧
      stationOk h.sender.toNat = true) ∧ h.sender.toNat ≠ s.loader.number) ∧
      (h.addressee = 0 ∨ h.addressee.toNat = s.loader.number)) ∧
      mayCommand s.env.img h.sender.toNat (bodyKind b).cls = true := by
    simpa [State.takes] using ht
  have hears : s.hears = true := by
    have : s.measures = true := by simpa [State.measures, State.isActive] using Or.inl hact
    simp [State.hears, this, hign]
  have hj : judge s.env (rawFrame h b) = .accepted := by
    have hn : ¬ (¬ h.addressee = 0#8 ∧ ¬ h.addressee.toNat = s.loader.number) := by
      rcases haddr with h1 | h1
      · exact fun hc => hc.1 h1
      · exact fun hc => hc.2 h1
    have hl := lengthOk_encodeBody b hw
    simp only [judge, rawFrame, kindOf_code]
    rw [if_neg (by simpa [State.env] using hn)]
    simp [hl, hst, hperm, hr]
  have hact' : (s.modLine fun l => { l with justSent := none }).isActive = true := hact
  show s.hear (rawFrame h b) take = _
  simp only [State.hear, hears, State.judged]
  have : (rawFrame h b).sender.toNat ≠ s.loader.number := hown
  simp only [Bool.not_true, Bool.false_eq_true, if_false, if_neg this]
  have he : (s.modLine fun l => { l with justSent := none }).env = s.env := rfl
  rw [he, hj]
  simp only [hact', if_true]
  rfl

end Sys2Proof.Machine
end

