-- ==== Sys2Proof/Laws/Commands.lean ====
section
/-! SUPPORT. What a command can do outside the zone, said once: a relation that holds for every change of the zone alone,
for entering INERT and for what the taking block does, holds for hearing a frame and for every event of the zone. -/

namespace Sys2Proof.Machine

/-- A relation between states that no change of the zone alone can break. -/
structure ZoneBlind (R : State → State → Prop) : Prop where
  refl : ∀ s, R s s
  trans : ∀ {s t u}, R s t → R t u → R s u
  zone : ∀ (s : State) (z : Zone), R s { s with zone := z }

namespace ZoneBlind

variable {R : State → State → Prop} (hR : ZoneBlind R)

include hR

theorem within (s : State) (f : Env → Zone → Zone) : R s (s.within f) := hR.zone s _

theorem onZone (s : State) (f : Env → Zone → Zone) : R s (s.onZone f) := hR.zone s _

theorem modLine (s : State) (f : Line → Line) : R s (s.modLine f) := hR.zone s _

theorem whenActive (s : State) (f : Env → Zone → Zone) : R s (s.whenActive f) := by
  unfold State.whenActive
  split
  · exact hR.onZone s f
  · exact hR.refl s

theorem whenMeasuring (s : State) (f : Env → Zone → Zone) : R s (s.whenMeasuring f) := by
  unfold State.whenMeasuring
  split
  · exact hR.onZone s f
  · exact hR.refl s

theorem aliveFrom (s : State) (b : Byte) : R s (s.aliveFrom b) := by
  unfold State.aliveFrom
  split
  · exact hR.within s _
  · exact hR.refl s

/-- Hearing a frame: the taking block's own change, or a duplicate in JOINING, or the zone alone. -/
theorem hear (s : State) (f : RawFrame) (take : State → State)
    (hi : ∀ t : State, t.isIn .joining = true → R t (t.enterInert .duplicateStation []))
    (ht : ∀ t : State, t.isActive = true → R t (take t)) : R s (s.hear f take) := by
  unfold State.hear
  split
  · exact hR.refl s
  · refine hR.trans (hR.modLine s fun l => { l with justSent := none }) ?_
    generalize s.modLine (fun l => { l with justSent := none }) = t
    simp only
    split
    · split
      · exact hR.refl t
      · unfold State.duplicate
        split
        · exact hi t ‹_›
        · exact hR.onZone t _
    · refine hR.trans ?_ (hR.within _ _)
      refine hR.trans ?_ (hR.aliveFrom _ _)
      unfold State.judged
      split
      · exact hR.refl t
      · exact hR.modLine t _
      · exact hR.modLine t _
      · exact hR.modLine t _
      · split
        · exact ht t ‹_›
        · exact hR.refl t

end ZoneBlind

end Sys2Proof.Machine
end

