-- ==== Sys2Proof/Laws/Operations.lean ====
section
/-! SUPPORT. The shared operations, each with what it can do said once: tables by number keep their canonical form and
write one key; an offered frame reaches the line and the calls it belongs to and nothing else; a raised fault reaches those
and the fault record and nothing else; two changes of one record are one change; a write by place and serial changes the
record there and tells a mismatch. -/

namespace Sys2Proof.Machine

/-! ### Tables by number -/

theorem Tbl.get?_set {α : Type} (t : Tbl α) (k j : Nat) (v : α) :
    (t.set k v).get? j = if j = k then some v else t.get? j := by
  induction t with
  | nil => simp [Tbl.set, Tbl.get?]
  | cons x t ih =>
    obtain ⟨a, b⟩ := x
    by_cases h1 : k = a
    · subst h1
      by_cases h2 : j = k <;> simp [Tbl.set, Tbl.get?, h2]
    · by_cases h3 : k < a
      · by_cases h2 : j = k <;> simp [Tbl.set, Tbl.get?, h1, h3, h2]
      · by_cases h2 : j = a
        · subst h2
          simp [Tbl.set, Tbl.get?, h1, h3, Ne.symm h1]
        · simp [Tbl.set, Tbl.get?, h1, h3, h2, ih]

theorem Tbl.get?_erase {α : Type} (t : Tbl α) (k j : Nat) :
    (t.erase k).get? j = if j = k then none else t.get? j := by
  induction t with
  | nil => simp [Tbl.erase, Tbl.get?]
  | cons x t ih =>
    obtain ⟨a, b⟩ := x
    by_cases h1 : k = a
    · subst h1
      by_cases h2 : j = k <;> simp_all [Tbl.erase, Tbl.get?]
    · by_cases h2 : j = a
      · subst h2
        simp [Tbl.erase, Tbl.get?, h1, Ne.symm h1]
      · simp [Tbl.erase, Tbl.get?, h1, h2, ih]

theorem Tbl.get?_modify {α : Type} (t : Tbl α) (k j : Nat) (f : α → α) :
    (t.modify k f).get? j = if j = k then (t.get? j).map f else t.get? j := by
  induction t with
  | nil => simp [Tbl.modify, Tbl.get?]
  | cons x t ih =>
    obtain ⟨a, b⟩ := x
    by_cases h1 : k = a
    · subst h1
      by_cases h2 : j = k <;> simp [Tbl.modify, Tbl.get?, h2]
    · by_cases h2 : j = a
      · subst h2
        simp [Tbl.modify, Tbl.get?, h1, Ne.symm h1]
      · simp [Tbl.modify, Tbl.get?, h1, h2, ih]

/-- The keys above a bound stay above it. -/
theorem Tbl.all_set {α : Type} (t : Tbl α) (n k : Nat) (v : α) (h : t.all (fun e => n < e.1) = true) (hk : n < k) :
    (t.set k v).all (fun e => n < e.1) = true := by
  induction t with
  | nil => simpa [Tbl.set] using hk
  | cons x t ih =>
    obtain ⟨a, b⟩ := x
    simp only [List.all_cons, Bool.and_eq_true, decide_eq_true_eq] at h
    unfold Tbl.set
    split
    · simp only [List.all_cons, Bool.and_eq_true, decide_eq_true_eq]; exact ⟨hk, h.2⟩
    · split
      · simp only [List.all_cons, Bool.and_eq_true, decide_eq_true_eq]; exact ⟨hk, h.1, h.2⟩
      · simp only [List.all_cons, Bool.and_eq_true, decide_eq_true_eq]; exact ⟨h.1, ih h.2⟩

theorem Tbl.all_erase {α : Type} (t : Tbl α) (n k : Nat) (h : t.all (fun e => n < e.1) = true) :
    (t.erase k).all (fun e => n < e.1) = true := by
  induction t with
  | nil => rfl
  | cons x t ih =>
    obtain ⟨a, b⟩ := x
    simp only [List.all_cons, Bool.and_eq_true, decide_eq_true_eq] at h
    unfold Tbl.erase
    split
    · exact ih h.2
    · simp only [List.all_cons, Bool.and_eq_true, decide_eq_true_eq]; exact ⟨h.1, ih h.2⟩

theorem Tbl.all_modify {α : Type} (t : Tbl α) (n k : Nat) (f : α → α) :
    (t.modify k f).all (fun e => n < e.1) = t.all (fun e => n < e.1) := by
  induction t with
  | nil => rfl
  | cons x t ih =>
    obtain ⟨a, b⟩ := x
    unfold Tbl.modify
    split <;> simp [ih]

/-- Writing an entry keeps the canonical form. -/
theorem Tbl.sorted_set {α : Type} (t : Tbl α) (k : Nat) (v : α) (h : t.sorted = true) : (t.set k v).sorted = true := by
  induction t with
  | nil => rfl
  | cons x t ih =>
    obtain ⟨a, b⟩ := x
    simp only [Tbl.sorted, Bool.and_eq_true] at h
    unfold Tbl.set
    split
    · subst k; simp only [Tbl.sorted, Bool.and_eq_true]; exact h
    · split
      · rename_i hk
        simp only [Tbl.sorted, List.all_cons, Bool.and_eq_true, decide_eq_true_eq]
        refine ⟨⟨hk, ?_⟩, h⟩
        simp only [List.all_eq_true, decide_eq_true_eq] at h ⊢
        exact fun x hx => Nat.lt_trans hk (h.1 x hx)
      · simp only [Tbl.sorted, Bool.and_eq_true]
        exact ⟨Tbl.all_set t a k v h.1 (by omega), ih h.2⟩

/-- Removing an entry keeps the canonical form. -/
theorem Tbl.sorted_erase {α : Type} (t : Tbl α) (k : Nat) (h : t.sorted = true) : (t.erase k).sorted = true := by
  induction t with
  | nil => rfl
  | cons x t ih =>
    obtain ⟨a, b⟩ := x
    simp only [Tbl.sorted, Bool.and_eq_true] at h
    unfold Tbl.erase
    split
    · exact ih h.2
    · simp only [Tbl.sorted, Bool.and_eq_true]; exact ⟨Tbl.all_erase t a k h.1, ih h.2⟩

/-- Changing an entry keeps the canonical form. -/
theorem Tbl.sorted_modify {α : Type} (t : Tbl α) (k : Nat) (f : α → α) : (t.modify k f).sorted = t.sorted := by
  induction t with
  | nil => rfl
  | cons x t ih =>
    obtain ⟨a, b⟩ := x
    unfold Tbl.modify
    split
    · rfl
    · simp [Tbl.sorted, ih, Tbl.all_modify]

/-- Two changes of one entry are one. -/
theorem Tbl.modify_modify {α : Type} (t : Tbl α) (k : Nat) (f g : α → α) :
    (t.modify k f).modify k g = t.modify k (fun x => g (f x)) := by
  induction t with
  | nil => rfl
  | cons x t ih =>
    obtain ⟨a, b⟩ := x
    by_cases h1 : k = a <;> simp_all [Tbl.modify]

/-- A change counts only by what it does to the entry there. -/
theorem Tbl.modify_congr {α : Type} (t : Tbl α) (k : Nat) (f g : α → α) (h : ∀ v, t.get? k = some v → f v = g v) :
    t.modify k f = t.modify k g := by
  induction t with
  | nil => rfl
  | cons x t ih =>
    obtain ⟨a, b⟩ := x
    by_cases h1 : k = a
    · subst h1; simp [Tbl.get?] at h; simp [Tbl.modify, h]
    · simp [Tbl.get?, h1] at h; simp [Tbl.modify, h1, ih h]

/-! ### The line (R4) -/

/-- A zone that differs from another in its line and its calls only. -/
def lineAndCalls (z t : Zone) : Prop :=
  t = { z with line := t.line, supply := { z.supply with calls := t.supply.calls } }

theorem lineAndCalls.trans {z t u : Zone} (h : lineAndCalls z t) (h' : lineAndCalls t u) : lineAndCalls z u := by
  unfold lineAndCalls at *
  rw [h', h]

theorem lineAndCalls_frameAccepted (e : Env) (f : TxFrame) (z : Zone) : lineAndCalls z (frameAccepted e f z) := rfl

theorem lineAndCalls_line (z : Zone) (l : Line) : lineAndCalls z { z with line := l } := rfl

theorem lineAndCalls_offerWaiting (e : Env) (f : TxFrame) (z : Zone) : lineAndCalls z (offerWaiting e f z) := by
  unfold offerWaiting
  split <;> rfl

/-- An offered frame reaches the line, and the calls it belongs to (R104), and nothing else of the zone. -/
theorem offer_lineAndCalls (e : Env) (f : TxFrame) (z : Zone) : lineAndCalls z (offer e f z) := by
  unfold offer
  split
  · unfold offerActive
    simp only
    split
    · split
      · exact lineAndCalls_offerWaiting e f z
      · split
        · rfl
        · split
          · rfl
          · exact lineAndCalls_offerWaiting e f z
    · split <;> rfl
  · split <;> rfl
  · rfl

/-! ### Faults (R180, R182) -/

/-- A recorded fault reaches the fault record and what its report reaches, and nothing else of the zone. -/
theorem recordAndReport_frame (e : Env) (o : Occurrence) (count : Nat) (z : Zone) :
    let t := recordAndReport e o count z
    t = { z with line := t.line, supply := { z.supply with calls := t.supply.calls }, faults := t.faults } := by
  simp only [recordAndReport]
  split
  · rfl
  · split
    · have h := offer_lineAndCalls e ⟨0, faultReportBody (z.faults.record o count) o.code.cls⟩
        { z with faults := z.faults.record o count }
      unfold lineAndCalls at h
      split <;> rw [h]
    · rfl

/-- A raised fault reaches the fault record and what its report reaches, and nothing else of the zone. -/
theorem raise_frame (e : Env) (code : FaultCode) (context : List CtxElem) (z : Zone) :
    let t := raise e code context z
    t = { z with line := t.line, supply := { z.supply with calls := t.supply.calls }, faults := t.faults } :=
  recordAndReport_frame e _ 1 z

/-- An answer to a terminal is one frame offered. -/
theorem answer_lineAndCalls (e : Env) (terminal : Nat) (k : Kind) (r : Result) (ref : Reference) (z : Zone) :
    lineAndCalls z (answer e terminal k r ref z) := offer_lineAndCalls e _ z

/-! ### Events of one block -/

/-- In ACTIVE an event that a block takes ends with the zone that block leaves. -/
theorem whenActive_active {s : State} (h : s.isActive = true) (f : Env → Zone → Zone) :
    s.whenActive f = s.endEvent (f s.env s.zone) := by
  simp only [State.whenActive, h, if_true]
  rfl

/-- Outside ACTIVE it changes nothing (R16). -/
theorem whenActive_idle {s : State} (h : s.isActive = false) (f : Env → Zone → Zone) : s.whenActive f = s := by
  simp [State.whenActive, h]

/-- Outside ACTIVE the end of an event serves nothing. -/
theorem endEvent_of_inactive {s : State} (z : Zone) (h : s.loader.station ≠ .active) :
    s.endEvent z = { s with zone := z } := by
  have : Env.active ({ s with zone := z } : State).env = false := by
    simp only [Env.active, State.env]
    exact decide_eq_false h
  show ({ s with zone := finish ({ s with zone := z } : State).env z } : State) = _
  unfold finish
  rw [this]
  rfl

/-! ### Changes of one record -/

theorem modSplice_modSplice (r : Nat) (f g : Splice → Splice) (z : Zone) :
    modSplice r g (modSplice r f z) = modSplice r (fun w => g (f w)) z := by
  simp only [modSplice, Tbl.modify_modify]

theorem modReel_modReel (r : Nat) (f g : Reel → Reel) (z : Zone) :
    modReel r g (modReel r f z) = modReel r (fun y => g (f y)) z := by
  simp only [modReel, Tbl.modify_modify]

theorem modWeb_modWeb (r : Nat) (f g : WebPath → WebPath) (z : Zone) :
    modWeb r g (modWeb r f z) = modWeb r (fun w => g (f w)) z := by
  simp only [modWeb, Tbl.modify_modify]

/-- Where the first change leaves the order its number. -/
theorem modOrder_modOrder (n : Nat) (f g : Order → Order) (z : Zone) (hf : ∀ o, (f o).number = o.number) :
    modOrder n g (modOrder n f z) = modOrder n (fun o => g (f o)) z := by
  have h : ((fun o => if o.number = n then g o else o) ∘ fun o => if o.number = n then f o else o) =
      fun o : Order => if o.number = n then g (f o) else o := by
    funext o
    by_cases ho : o.number = n <;> simp [Function.comp, ho, hf]
  simp only [modOrder, List.map_map, h]

/-! ### Writes by place and serial (R51) -/

/-- The record there has the serial named: it is changed and nothing is told. -/
theorem writeRoll_agrees (e : Env) (p : Place) (f : Roll → Roll) (z : Zone) (r : Roll) (h : rollAt z p = some r) :
    writeRoll e p r.serial f z = setRoll p (f r) z := by
  simp [writeRoll, h]

/-- Another record stands there: it is changed and the mismatch is told. -/
theorem writeRoll_differs (e : Env) (p : Place) (s : Serial) (f : Roll → Roll) (z : Zone) (r : Roll) (h : rollAt z p = some r)
    (hs : r.serial ≠ s) :
    writeRoll e p s f z = setRoll p (f r) (raiseMismatch e p [.place p, .serial s, .serial r.serial] z) := by
  simp [writeRoll, h, hs]

/-- No record stands there: the mismatch is told and nothing is changed. -/
theorem writeRoll_absent (e : Env) (p : Place) (s : Serial) (f : Roll → Roll) (z : Zone) (h : rollAt z p = none) :
    writeRoll e p s f z = raiseMismatch e p [.place p, .serial s, .serial 0] z := by
  simp [writeRoll, h]

/-! ### Permits and hand-over -/

/-- Turning the permit under a vehicle off reaches the segments and nothing else. -/
theorem dropPermit_frame (v : Vehicle) (z : Zone) :
    dropPermit v z = { z with track := { z.track with segments := (dropPermit v z).track.segments } } := by
  unfold dropPermit
  split
  · split <;> rfl
  · rfl

end Sys2Proof.Machine
end

