-- ==== Sys2Proof/Laws/Reports.lean ====
section
/-! SUPPORT. The parts of the report pages have the sizes of Table 11-3-1's records, whatever they show. -/

namespace Sys2Proof.Machine

theorem field_length (n v : Nat) : (field n v).length = n := toBytes_length n _

theorem rollBytes_length (r : Option Roll) : (rollBytes r).length = 5 := by
  cases r <;> simp [rollBytes, bytes32]

theorem callBytes_length (c : Option Call) : (callBytes c).length = 11 := by
  cases c <;> simp [callBytes, bytes32, field_length]

theorem noticeBytes_length (n : Option Notice) : (noticeBytes n).length = 9 := by
  unfold noticeBytes
  cases n.bind Notice.hold <;> cases n.bind Notice.completion <;> simp [bytes32]

theorem markBytes_length (m : Option Mark) : (markBytes m).length = 13 := by
  cases m <;> simp [markBytes, bytes32, field_length]

theorem measBytes_length (m : Option Meas) : (measBytes m).length = 19 := by
  cases m <;> simp [measBytes, field_length]

theorem webRecordBytes_length (w : WebPath) : (webRecordBytes w).length = 81 := by
  unfold webRecordBytes
  cases w.lastClosed <;> simp [markBytes_length, bytes32, field_length]

theorem slotBytes_length (s : Option Slot) : (slotBytes s).length = 10 := by
  cases s <;> simp [slotBytes, bytes32]

theorem loadBytes_length (r : Option Roll) : (loadBytes r).length = 17 := by
  simp [loadBytes, bytesPassRoll, bytes32, bytes24, bytes16]

theorem purposeBytes_length (p : Purpose) : (purposeBytes p).length = 4 := by
  cases p <;> rfl

end Sys2Proof.Machine
end

