-- ==== Sys2Proof/Laws/Tables.lean ====
section
/-! SUPPORT. Laws: the sound form of a zone (Safety.lean) as one structure of parts, the laws of tables that it rests on, and that the operations of the line, the fault record and the roll table keep it. -/

namespace Sys2Proof.Machine

/-! table lemmas -/
theorem Tbl.mem_of_get? {α} {t : Tbl α} {k : Nat} {v : α} (h : t.get? k = some v) : (k, v) ∈ t := by
  induction t with
  | nil => cases h
  | cons x t ih =>
    obtain ⟨a, b⟩ := x
    simp only [Tbl.get?] at h; split at h
    · rename_i hk; cases h; subst hk; exact List.mem_cons_self
    · exact List.mem_cons_of_mem _ (ih h)

theorem Tbl.get?_of_mem {α} {t : Tbl α} {k : Nat} {v : α} (hs : t.sorted = true) (h : (k, v) ∈ t) : t.get? k = some v := by
  induction t with
  | nil => cases h
  | cons x t ih =>
    obtain ⟨a, b⟩ := x
    simp only [Tbl.sorted, Bool.and_eq_true, List.all_eq_true, decide_eq_true_eq] at hs
    rcases List.mem_cons.mp h with h | h
    · cases h; simp [Tbl.get?]
    · have := hs.1 _ h; simp only at this
      simp only [Tbl.get?]; rw [if_neg (by omega)]; exact ih hs.2 h

theorem Tbl.all_iff {α} {t : Tbl α} (hs : t.sorted = true) (p : Nat × α → Bool) : t.all p = true ↔ ∀ k v, t.get? k = some v → p (k, v) = true := by
  rw [List.all_eq_true]; constructor
  · intro h k v hk; exact h _ (Tbl.mem_of_get? hk)
  · rintro h ⟨k, v⟩ hm; exact h k v (Tbl.get?_of_mem hs hm)

theorem Tbl.sorted_map {α} (t : Tbl α) (f : Nat × α → α) (h : t.sorted = true) : Tbl.sorted (t.map fun x => (x.1, f x)) = true := by
  induction t with
  | nil => rfl
  | cons x t ih =>
    obtain ⟨a, b⟩ := x
    simp only [Tbl.sorted, Bool.and_eq_true, List.all_eq_true, decide_eq_true_eq, List.map_cons] at h ⊢
    refine ⟨?_, ih h.2⟩
    intro e he; obtain ⟨y, hy, rfl⟩ := List.mem_map.mp he; exact h.1 y hy

theorem Tbl.sorted_sub {α} {t u : Tbl α} (hs : List.Sublist u t) (h : t.sorted = true) : u.sorted = true := by
  induction hs with
  | slnil => rfl
  | cons x _ ih =>
    obtain ⟨a, b⟩ := x; simp only [Tbl.sorted, Bool.and_eq_true] at h; exact ih h.2
  | cons_cons x hsub ih =>
    obtain ⟨a, b⟩ := x; simp only [Tbl.sorted, Bool.and_eq_true, List.all_eq_true] at h ⊢
    exact ⟨fun e he => h.1 e (hsub.subset he), ih h.2⟩

theorem Tbl.sorted_filter {α} (t : Tbl α) (p : Nat × α → Bool) (h : t.sorted = true) : Tbl.sorted (t.filter p) = true :=
  Tbl.sorted_sub List.filter_sublist h

theorem Tbl.sorted_filterMap {α} (t : Tbl α) (f : Nat × α → Option α) (h : t.sorted = true) :
    Tbl.sorted (t.filterMap fun x => (f x).map fun y => (x.1, y)) = true := by
  induction t with
  | nil => rfl
  | cons x t ih =>
    obtain ⟨a, b⟩ := x
    simp only [Tbl.sorted, Bool.and_eq_true, List.all_eq_true, decide_eq_true_eq] at h
    rw [List.filterMap_cons]
    cases f (a, b) with
    | none => exact ih h.2
    | some y =>
      simp only [Option.map_some, Tbl.sorted, Bool.and_eq_true, List.all_eq_true, decide_eq_true_eq]
      refine ⟨?_, ih h.2⟩
      intro e he; obtain ⟨w, hw, h2⟩ := List.mem_filterMap.mp he
      cases hf : f w with
      | none => rw [hf] at h2; cases h2
      | some u => rw [hf] at h2; cases h2; exact h.1 w hw

theorem Tbl.all_set_of {α} {t : Tbl α} (hs : t.sorted = true) {p : Nat × α → Bool} (h : t.all p = true) {k : Nat} {v : α} (hv : p (k, v) = true) :
    (t.set k v).all p = true := by
  rw [Tbl.all_iff (Tbl.sorted_set t k v hs)]; intro j w hj; rw [Tbl.get?_set] at hj; split at hj
  · rename_i h1; cases hj; subst h1; exact hv
  · exact (Tbl.all_iff hs p).mp h j w hj

theorem Tbl.all_modify_of {α} {t : Tbl α} (hs : t.sorted = true) {p : Nat × α → Bool} (h : t.all p = true) {k : Nat} {f : α → α}
    (hv : ∀ v, t.get? k = some v → p (k, v) = true → p (k, f v) = true) : (t.modify k f).all p = true := by
  rw [Tbl.all_iff (by rw [Tbl.sorted_modify]; exact hs)]; intro j w hj; rw [Tbl.get?_modify] at hj; split at hj
  · rename_i h1; subst h1
    cases hg : t.get? j with
    | none => rw [hg] at hj; cases hj
    | some v => rw [hg] at hj; cases hj; exact hv v hg ((Tbl.all_iff hs p).mp h j v hg)
  · exact (Tbl.all_iff hs p).mp h j w hj

theorem all_sub {α} {t u : List α} (hs : List.Sublist u t) {p : α → Bool} (h : t.all p = true) : u.all p = true := by
  rw [List.all_eq_true] at h ⊢; exact fun x hx => h x (hs.subset hx)

theorem Tbl.erase_sub {α} (t : Tbl α) (k : Nat) : List.Sublist (t.erase k) t := by
  induction t with
  | nil => exact List.Sublist.refl _
  | cons x t ih =>
    obtain ⟨a, b⟩ := x; simp only [Tbl.erase]; split
    · exact List.Sublist.cons _ ih
    · exact List.Sublist.cons_cons _ ih

theorem serials_iff {t : Tbl Roll} (hs : t.sorted = true) : serialsApart t = true ↔
    ∀ k j r s, t.get? k = some r → t.get? j = some s → r.serial = s.serial → r.serial ≠ 0 → k = j := by
  unfold serialsApart; rw [Tbl.all_iff hs]; constructor
  · intro h k j r s h1 h2 h3 h4
    have := (Tbl.all_iff hs _).mp (h k r h1) j s h2
    simp only [Bool.or_eq_true, decide_eq_true_eq] at this
    rcases this with (h5 | h5) | h5
    · exact h5
    · exact absurd h5 h4
    · exact absurd h3 h5
  · intro h k r h1; rw [Tbl.all_iff hs]; intro j s h2
    simp only [Bool.or_eq_true, decide_eq_true_eq]
    by_cases h4 : r.serial = 0
    · exact .inl (.inr h4)
    · by_cases h3 : r.serial = s.serial
      · exact .inl (.inl (h k j r s h1 h2 h3 h4))
      · exact .inr h3

theorem numbers_iff {t : Tbl Vehicle} (hs : t.sorted = true) : numbersApart t = true ↔
    ∀ k j r s, t.get? k = some r → t.get? j = some s → r.number = s.number → k = j := by
  unfold numbersApart; rw [Tbl.all_iff hs]; constructor
  · intro h k j r s h1 h2 h3
    have := (Tbl.all_iff hs _).mp (h k r h1) j s h2
    simp only [Bool.or_eq_true, decide_eq_true_eq] at this
    rcases this with h5 | h5
    · exact h5
    · exact absurd h3 h5
  · intro h k r h1; rw [Tbl.all_iff hs]; intro j s h2
    simp only [Bool.or_eq_true, decide_eq_true_eq]
    by_cases h3 : r.number = s.number
    · exact .inl (h k j r s h1 h2 h3)
    · exact .inr h3

/-! component forms -/
structure SoundLine (l : Line) : Prop where
  q : l.queue.length ≤ 16
  w : l.waiting.length ≤ 32

structure SoundTrack (t : Track) : Prop where
  s : t.segments.sorted = true
  p : t.points.sorted = true
  v : t.vehicles.sorted = true
  w : t.segments.all (fun s => s.2.wait.length ≤ 7) = true
  d : t.deferred.length ≤ 4
  n : t.vehicles.all (fun v => 1 ≤ v.1 && v.1 ≤ 8) = true
  a : numbersApart t.vehicles = true

structure SoundStock (t : Stock) : Prop where
  r : t.rolls.sorted = true
  l : t.lanes.sorted = true
  s : t.slots.sorted = true
  w : t.watch.sorted = true
  d : t.disagreeing.sorted = true
  a : serialsApart t.rolls = true

structure SoundTransfer (i : Image) (t : Transfer) : Prop where
  p : t.ordersP.length ≤ i.queueB
  o : t.ordersO.length ≤ 24 - i.queueB
  hp : t.heldP.length ≤ 32
  ho : t.heldO.length ≤ 32
  n : t.notices.sorted = true

structure SoundSupply (a : Supply) : Prop where
  c : a.calls.sorted = true
  o : a.calls.all (fun c => c.2.offers.length ≤ 6) = true
  r : a.retries.sorted = true
  n : a.noStockRaised.sorted = true

structure SoundSplice (b : SpliceBlock) : Prop where
  s : b.stands.sorted = true
  w : b.watch.sorted = true

structure SoundFolder (f : Folder) : Prop where
  w : f.webs.sorted = true
  m : f.webs.all (fun w => w.2.marks.length ≤ 4) = true

structure SoundZone (i : Image) (z : Zone) : Prop where
  line : SoundLine z.line
  track : SoundTrack z.track
  stock : SoundStock z.stock
  transfer : SoundTransfer i z.transfer
  supply : SoundSupply z.supply
  reels : z.reels.sorted = true
  splice : SoundSplice z.splice
  folder : SoundFolder z.folder
  faults : z.faults.entries.sorted = true

theorem sound_iff {i z} : z.sound i = true ↔ SoundZone i z := by
  simp only [Zone.sound, Line.sound, Track.sound, Stock.sound, Transfer.sound, Supply.sound, SpliceBlock.sound, Folder.sound, Bool.and_eq_true, decide_eq_true_eq]
  constructor
  · rintro ⟨⟨⟨⟨⟨⟨⟨⟨h1, h2⟩, h3⟩, h4⟩, h5⟩, h6⟩, h7⟩, h8⟩, h9⟩
    exact ⟨⟨h1.1, h1.2⟩, ⟨h2.1.1.1.1.1.1, h2.1.1.1.1.1.2, h2.1.1.1.1.2, h2.1.1.1.2, h2.1.1.2, h2.1.2, h2.2⟩,
      ⟨h3.1.1.1.1.1, h3.1.1.1.1.2, h3.1.1.1.2, h3.1.1.2, h3.1.2, h3.2⟩, ⟨h4.1.1.1.1, h4.1.1.1.2, h4.1.1.2, h4.1.2, h4.2⟩, ⟨h5.1.1.1, h5.1.1.2, h5.1.2, h5.2⟩, h6, ⟨h7.1, h7.2⟩, ⟨h8.1, h8.2⟩, h9⟩
  · rintro ⟨⟨a1, a2⟩, ⟨b1, b2, b3, b4, b5, b6, b7⟩, ⟨c1, c2, c3, c4, c5, c6⟩, ⟨d1, d2, d3, d4, d5⟩, ⟨e1, e2, e3, e4⟩, h6, ⟨g1, g2⟩, ⟨f1, f2⟩, h9⟩
    exact ⟨⟨⟨⟨⟨⟨⟨⟨⟨a1, a2⟩, ⟨⟨⟨⟨⟨⟨b1, b2⟩, b3⟩, b4⟩, b5⟩, b6⟩, b7⟩⟩, ⟨⟨⟨⟨⟨c1, c2⟩, c3⟩, c4⟩, c5⟩, c6⟩⟩, ⟨⟨⟨⟨d1, d2⟩, d3⟩, d4⟩, d5⟩⟩, ⟨⟨⟨e1, e2⟩, e3⟩, e4⟩⟩, h6⟩, ⟨g1, g2⟩⟩, ⟨f1, f2⟩⟩, h9⟩

theorem sound_mk (i : Image) (a b c d e f g h j k) : SoundZone i (Zone.mk a b c d e f g h j k) ↔
    (SoundLine a ∧ SoundTrack b ∧ SoundStock c ∧ SoundTransfer i d ∧ SoundSupply e ∧ f.sorted = true ∧ SoundSplice g ∧ SoundFolder h ∧ j.entries.sorted = true) :=
  ⟨fun ⟨a, b, c, d, e, f, g, h, j⟩ => ⟨a, b, c, d, e, f, g, h, j⟩, fun ⟨a, b, c, d, e, f, g, h, j⟩ => ⟨a, b, c, d, e, f, g, h, j⟩⟩

/-- the parts of a sound zone, for simp -/
theorem sound_parts {i : Image} {z : Zone} (h : SoundZone i z) : SoundLine z.line ∧ SoundTrack z.track ∧ SoundStock z.stock ∧ SoundTransfer i z.transfer ∧ SoundSupply z.supply ∧ z.reels.sorted = true ∧ SoundSplice z.splice ∧ SoundFolder z.folder ∧ z.faults.entries.sorted = true := ⟨h.line, h.track, h.stock, h.transfer, h.supply, h.reels, h.splice, h.folder, h.faults⟩

theorem foldl_keeps {β} {i : Image} {f : Zone → β → Zone} {l : List β} {z : Zone} (h : SoundZone i z) (hf : ∀ z, ∀ b ∈ l, SoundZone i z → SoundZone i (f z b)) :
    SoundZone i (l.foldl f z) := by
  induction l generalizing z with
  | nil => exact h
  | cons x xs ih => exact ih (hf z x (by simp) h) (fun z b hb => hf z b (by simp [hb]))

theorem push_keeps {i z t} (h : SoundZone i z) : SoundZone i (z.push t) := by obtain ⟨h1, h2, h3, h4, h5, h6, h7, h8, h9⟩ := h; exact ⟨h1, h2, h3, h4, h5, h6, h7, h8, h9⟩

theorem soundSupply_frame {a : Supply} (h : SoundSupply a) (now : Time) (f : TxFrame) :
    SoundSupply { a with calls := a.calls.filterMap fun (k, c) => (c.frameAccepted now f).map fun c' => (k, c') } := by
  obtain ⟨h1, h2, h3, h4⟩ := h
  refine ⟨Tbl.sorted_filterMap a.calls (fun x => x.2.frameAccepted now f) h1, ?_, h3, h4⟩
  show List.all _ _ = true
  rw [List.all_eq_true] at h2 ⊢
  intro x hx; obtain ⟨y, hy, h5⟩ := List.mem_filterMap.mp hx
  have h6 := h2 y hy
  cases hf : y.2.frameAccepted now f with
  | none => simp [hf] at h5
  | some c' =>
    simp only [hf, Option.map_some, Option.some.injEq] at h5; subst h5
    have : c'.offers = y.2.offers := by
      unfold Call.frameAccepted at hf
      split at hf <;> (first | (split at hf) | skip) <;> cases hf <;> rfl
    simpa [this] using h6

theorem accept_keeps {i e f z} (h : SoundZone i z) : SoundZone i (frameAccepted e f z) := by
  obtain ⟨h1, h2, h3, h4, h5, h6, h7, h8, h9⟩ := h
  exact ⟨h1, h2, h3, h4, soundSupply_frame h5 _ _, h6, h7, h8, h9⟩

theorem sound_of_line {i} {z : Zone} {l : Line} (h : SoundZone i z) (hl : SoundLine l) : SoundZone i { z with line := l } := by
  obtain ⟨h1, h2, h3, h4, h5, h6, h7, h8, h9⟩ := h; exact ⟨hl, h2, h3, h4, h5, h6, h7, h8, h9⟩

theorem drop_keeps {l : Line} (h : SoundLine l) : SoundLine l.drop := ⟨h.q, h.w⟩

theorem offerWaiting_keeps {i e f z} (h : SoundZone i z) : SoundZone i (offerWaiting e f z) := by
  unfold offerWaiting; split
  · rename_i hw; refine sound_of_line h ⟨h.line.q, ?_⟩
    simp only [Config.waitingEntries] at hw; simp; omega
  · exact accept_keeps (sound_of_line h (drop_keeps h.line))

theorem dropNewest_len : ∀ {q r : List TxFrame}, dropNewestReport q = some r → r.length < q.length := by
  intro q; induction q with
  | nil => intro r h; cases h
  | cons f t ih =>
    intro r h; simp only [dropNewestReport] at h
    cases hd : dropNewestReport t with
    | some t' => rw [hd] at h; cases h; have := ih hd; simp; omega
    | none => rw [hd] at h; simp only at h; split at h
              · cases h
              · cases h; simp

theorem displace_len {b : Bool} {q r : List TxFrame} (h : displace b q = some r) : r.length < q.length := by
  unfold displace at h; split at h
  · cases h
  · rename_i f t
    split at h
    · obtain ⟨x, hx, rfl⟩ := Option.map_eq_some_iff.mp h; have := dropNewest_len hx; simp; omega
    · exact dropNewest_len h

theorem offerActive_keeps {i e f z} (h : SoundZone i z) : SoundZone i (offerActive e f z) := by
  unfold offerActive; simp only
  split
  · split
    · exact offerWaiting_keeps h
    · split
      · rename_i hq; refine accept_keeps (sound_of_line h ⟨?_, h.line.w⟩); simp only [Config.queueEntries] at hq; simp; omega
      · split
        · rename_i q hd; refine accept_keeps (sound_of_line h ⟨?_, h.line.w⟩); have := displace_len hd; have := h.line.q; simp; omega
        · exact offerWaiting_keeps h
  · split
    · rename_i hq; refine sound_of_line h ⟨?_, h.line.w⟩; simp only [Config.queueEntries] at hq; simp; omega
    · exact sound_of_line h (drop_keeps h.line)

theorem offer_keeps {i e f z} (h : SoundZone i z) : SoundZone i (offer e f z) := by
  unfold offer; split
  · exact offerActive_keeps h
  · split
    · exact sound_of_line h ⟨h.line.q, h.line.w⟩
    · exact sound_of_line h (drop_keeps h.line)
  · exact h

theorem promote_keeps {i e z} (h : SoundZone i z) : SoundZone i (promoteWaiting e z) := by
  unfold promoteWaiting; split
  · exact h
  · rename_i f rest hw; split
    · rename_i hq; refine accept_keeps (sound_of_line h ⟨?_, ?_⟩)
      · simp only [Config.queueEntries] at hq; simp; omega
      · have := h.line.w; rw [hw] at this; simp at this ⊢; omega
    · exact h

theorem withdrawWaiting_keeps {i p z} (h : SoundZone i z) : SoundZone i (withdrawWaiting p z) :=
  sound_of_line h ⟨h.line.q, le_trans (List.length_filter_le _ _) h.line.w⟩

theorem answer_keeps {i e t k r ref z} (h : SoundZone i z) : SoundZone i (answer e t k r ref z) := offer_keeps h

theorem sound_of_faults {i} {z : Zone} {f : FaultRecord} (h : SoundZone i z) (hf : f.entries.sorted = true) : SoundZone i { z with faults := f } := by
  obtain ⟨h1, h2, h3, h4, h5, h6, h7, h8, h9⟩ := h; exact ⟨h1, h2, h3, h4, h5, h6, h7, h8, hf⟩

theorem record_keeps {i e o c z} (h : SoundZone i z) : SoundZone i (recordAndReport e o c z) := by
  unfold recordAndReport; simp only
  have h1 : SoundZone i { z with faults := z.faults.record o c } := sound_of_faults h (Tbl.sorted_set _ _ _ h.faults)
  split
  · exact h1
  · split
    · have h2 := offer_keeps (e := e) (f := ⟨0, faultReportBody (z.faults.record o c) o.code.cls⟩) h1
      split
      · exact sound_of_faults h2 h2.faults
      · exact h2
    · exact h1

theorem raise_keeps {i e c x z} (h : SoundZone i z) : SoundZone i (raise e c x z) := record_keeps h

theorem sound_of_splice {i} {z : Zone} {b : SpliceBlock} (h : SoundZone i z) (hf : SoundSplice b) : SoundZone i { z with splice := b } := by
  obtain ⟨h1, h2, h3, h4, h5, h6, h7, h8, h9⟩ := h; exact ⟨h1, h2, h3, h4, h5, h6, hf, h8, h9⟩

theorem modSplice_keeps {i r f z} (h : SoundZone i z) : SoundZone i (modSplice r f z) :=
  sound_of_splice h ⟨by simpa [Tbl.sorted_modify] using h.splice.s, h.splice.w⟩

theorem raiseForReel_keeps {i e r c x z} (h : SoundZone i z) : SoundZone i (raiseForReel e r c x z) := by
  unfold raiseForReel; split
  · exact modSplice_keeps h
  · exact raise_keeps h

theorem releaseDeferred_keeps {i e r z} (h : SoundZone i z) : SoundZone i (releaseDeferred e r z) := by
  unfold releaseDeferred; split
  · exact h
  · exact foldl_keeps (modSplice_keeps h) (fun z b _ hz => record_keeps hz)

/-! stock -/
theorem sound_of_stock {i} {z : Zone} {b : Stock} (h : SoundZone i z) (hf : SoundStock b) : SoundZone i { z with stock := b } := by
  obtain ⟨h1, h2, h3, h4, h5, h6, h7, h8, h9⟩ := h; exact ⟨h1, h2, hf, h4, h5, h6, h7, h8, h9⟩

theorem apart_set {t : Tbl Roll} {k : Nat} {r : Roll} (hs : t.sorted = true) (h : serialsApart t = true)
    (hr : r.serial = 0 ∨ ∀ j s, j ≠ k → t.get? j = some s → s.serial ≠ r.serial) : serialsApart (t.set k r) = true := by
  rw [serials_iff (Tbl.sorted_set _ _ _ hs)]; rw [serials_iff hs] at h
  intro a b x y ha hb he h0
  rw [Tbl.get?_set] at ha hb
  split at ha <;> split at hb
  · omega
  · rename_i h1 h2; cases ha; rcases hr with hr | hr
    · exact absurd hr h0
    · exact absurd he.symm (hr b y h2 hb)
  · rename_i h1 h2; cases hb; rcases hr with hr | hr
    · exact absurd (he.trans hr) h0
    · exact absurd he (hr a x h1 ha)
  · exact h a b x y ha hb he h0

theorem apart_erase {t : Tbl Roll} {k : Nat} (hs : t.sorted = true) (h : serialsApart t = true) : serialsApart (t.erase k) = true := by
  rw [serials_iff (Tbl.sorted_erase _ _ hs)]; rw [serials_iff hs] at h
  intro a b x y ha hb he h0
  rw [Tbl.get?_erase] at ha hb
  split at ha; · cases ha
  split at hb; · cases hb
  exact h a b x y ha hb he h0

theorem apart_modify {t : Tbl Roll} {k : Nat} {f : Roll → Roll} (hs : t.sorted = true) (h : serialsApart t = true) (hf : ∀ r, (f r).serial = r.serial) :
    serialsApart (t.modify k f) = true := by
  rw [serials_iff (by rw [Tbl.sorted_modify]; exact hs)]; rw [serials_iff hs] at h
  have key : ∀ a x, (t.modify k f).get? a = some x → ∃ y, t.get? a = some y ∧ y.serial = x.serial := by
    intro a x ha; rw [Tbl.get?_modify] at ha; split at ha
    · cases hg : t.get? a with
      | none => rw [hg] at ha; cases ha
      | some y => rw [hg] at ha; cases ha; exact ⟨y, rfl, (hf y).symm⟩
    · exact ⟨x, ha, rfl⟩
  intro a b x y ha hb he h0
  obtain ⟨x', hx, hx2⟩ := key a x ha
  obtain ⟨y', hy, hy2⟩ := key b y hb
  exact h a b x' y' hx hy (by rw [hx2, hy2, he]) (by rw [hx2]; exact h0)

/-- A record written at a place: it is unidentified, or its serial stands nowhere else. -/
theorem setRoll_keeps {i p r z} (h : SoundZone i z) (hr : r.serial = 0 ∨ ∀ j s, j ≠ p.key → z.stock.rolls.get? j = some s → s.serial ≠ r.serial) :
    SoundZone i (setRoll p r z) :=
  sound_of_stock h ⟨Tbl.sorted_set _ _ _ h.stock.r, h.stock.l, h.stock.s, h.stock.w, h.stock.d, apart_set h.stock.r h.stock.a hr⟩

theorem setSame_keeps {i p r r' z} (h : SoundZone i z) (hr : rollAt z p = some r') (he : r.serial = r'.serial) : SoundZone i (setRoll p r z) := by
  refine setRoll_keeps h ?_
  by_cases h0 : r.serial = 0
  · exact .inl h0
  · refine .inr fun j s hj hs hse => ?_
    exact hj ((serials_iff h.stock.r).mp h.stock.a j p.key s r' hs hr (by rw [hse, he]) (by rw [hse]; exact h0))

theorem setNew_keeps {i p r z} (h : SoundZone i z) (hr : findSerial z r.serial = none) : SoundZone i (setRoll p r z) := by
  refine setRoll_keeps h ?_
  unfold findSerial at hr; split at hr
  · rename_i h0; exact .inl h0
  · refine .inr fun j s hj hs hse => ?_
    rw [List.find?_eq_none] at hr
    exact hr _ (Tbl.mem_of_get? hs) (by simp [hse])

theorem erase_keeps {i p z} (h : SoundZone i z) : SoundZone i (eraseRoll p z) :=
  sound_of_stock h ⟨Tbl.sorted_erase _ _ h.stock.r, h.stock.l, h.stock.s, h.stock.w, h.stock.d, apart_erase h.stock.r h.stock.a⟩

theorem modLane_keeps {i l f z} (h : SoundZone i z) : SoundZone i (modLane l f z) :=
  sound_of_stock h ⟨h.stock.r, by simpa [Tbl.sorted_modify] using h.stock.l, h.stock.s, h.stock.w, h.stock.d, h.stock.a⟩

theorem mismatch_keeps {i e p x z} (h : SoundZone i z) : SoundZone i (raiseMismatch e p x z) := by
  unfold raiseMismatch; split
  · exact raiseForReel_keeps h
  · exact raise_keeps h

theorem laneEntered_keeps {i e l z} (h : SoundZone i z) : SoundZone i (laneEntered e l z) := by
  unfold laneEntered; simp only; split
  · exact push_keeps (modLane_keeps h)
  · exact modLane_keeps h

theorem laneLeft_keeps {i e l z} (h : SoundZone i z) : SoundZone i (laneLeft e l z) := by
  unfold laneLeft; simp only; split
  · exact push_keeps (modLane_keeps h)
  · exact modLane_keeps h

theorem laneFound_keeps {i e l z} (h : SoundZone i z) : SoundZone i (laneFound e l z) := modLane_keeps h

theorem modRolls_keeps {i k f z} (h : SoundZone i z) (hf : ∀ r : Roll, (f r).serial = r.serial) : SoundZone i { z with stock := { z.stock with rolls := z.stock.rolls.modify k f } } :=
  sound_of_stock h ⟨by simpa [Tbl.sorted_modify] using h.stock.r, h.stock.l, h.stock.s, h.stock.w, h.stock.d, apart_modify h.stock.r h.stock.a hf⟩

theorem reserve_keeps {i k ref z} (h : SoundZone i z) : SoundZone i (reserve k ref z) := push_keeps (modRolls_keeps h (fun _ => rfl))

theorem release_keeps {i k z} (h : SoundZone i z) : SoundZone i (release k z) := by
  unfold release; split
  · rename_i r hr; split
    · refine push_keeps (sound_of_stock h ⟨Tbl.sorted_set _ _ _ h.stock.r, h.stock.l, h.stock.s, h.stock.w, h.stock.d, apart_set h.stock.r h.stock.a ?_⟩)
      by_cases h0 : r.serial = 0
      · exact .inl h0
      · refine .inr fun j s hj hs hse => ?_
        exact hj ((serials_iff h.stock.r).mp h.stock.a j k s r hs hr hse (by rw [hse]; exact h0))
    · exact h
  · exact h

theorem writeSlot_keeps {i k s z} (h : SoundZone i z) : SoundZone i (writeSlot k s z) :=
  push_keeps (sound_of_stock h ⟨h.stock.r, h.stock.l, Tbl.sorted_set _ _ _ h.stock.s, h.stock.w, h.stock.d, h.stock.a⟩)

theorem addAlert_keeps {i e l s z} (h : SoundZone i z) : SoundZone i (addAlert e l s z) := by
  unfold addAlert; split
  · exact h
  · split
    · exact h
    · split
      · exact writeSlot_keeps h
      · exact raise_keeps h

theorem restockCheck_keeps {i e z} (h : SoundZone i z) : SoundZone i (restockCheck e z) := foldl_keeps h (fun z b _ hz => push_keeps hz)

theorem raise_rolls (e c x z) : (raise e c x z).stock = z.stock := by
  have := raise_frame e c x z; simp only at this; rw [this]

theorem raiseForReel_rolls (e r c x z) : (raiseForReel e r c x z).stock = z.stock := by
  unfold raiseForReel; split
  · rfl
  · exact raise_rolls _ _ _ _

theorem mismatch_stock (e p x z) : (raiseMismatch e p x z).stock = z.stock := by
  unfold raiseMismatch; split
  · exact raiseForReel_rolls _ _ _ _ _
  · exact raise_rolls _ _ _ _

theorem writeRoll_keeps {i e p s f z} (h : SoundZone i z) (hf : ∀ r, (f r).serial = r.serial) : SoundZone i (writeRoll e p s f z) := by
  unfold writeRoll; split
  · rename_i r hr; simp only
    split
    · exact setSame_keeps h hr (hf r)
    · exact setSame_keeps (mismatch_keeps h) (by unfold rollAt; rw [mismatch_stock]; exact hr) (hf r)
  · exact mismatch_keeps h

theorem erase_set {z : Zone} {src dst : Place} {r r' : Roll} {i} (h : SoundZone i z) (hr : rollAt z src = some r) (he : r'.serial = r.serial) :
    SoundZone i (setRoll dst r' (eraseRoll src z)) := by
  refine setRoll_keeps (erase_keeps h) ?_
  by_cases h0 : r'.serial = 0
  · exact .inl h0
  · refine .inr fun j s hj hs hse => ?_
    change (z.stock.rolls.erase src.key).get? j = some s at hs
    rw [Tbl.get?_erase] at hs; split at hs
    · cases hs
    · rename_i hjs; exact hjs ((serials_iff h.stock.r).mp h.stock.a j src.key s r hs hr (by rw [hse, he]) (by rw [hse]; exact h0))

theorem moveRoll_keeps {i e src dst s f z} (h : SoundZone i z) (hf : ∀ r : Roll, (f r).serial = r.serial) : SoundZone i (moveRoll e src dst s f z).1 := by
  unfold moveRoll; split
  · exact mismatch_keeps h
  · split
    · rename_i r hr; simp only; split
      · exact erase_set h hr (hf r)
      · exact erase_set (mismatch_keeps h) (by unfold rollAt; rw [mismatch_stock]; exact hr) (hf r)
    · simp only; split
      · exact setRoll_keeps (mismatch_keeps h) (.inl (by rw [hf]; rfl))
      · exact mismatch_keeps h

theorem shiftLane_keeps {i e l z} (h : SoundZone i z) : SoundZone i (shiftLane e l z) := by
  refine foldl_keeps h (fun z p _ hz => ?_)
  split
  · exact hz
  · split
    · rename_i r hr _; exact erase_set hz hr rfl
    · exact hz

theorem closeSet_keeps {i l} : ∀ (rs : List Roll) (n : Nat) (z : Zone), SoundZone i z →
    (∀ r ∈ rs, r.serial = 0 ∨ ∀ j s, z.stock.rolls.get? j = some s → s.serial ≠ r.serial) →
    rs.Pairwise (fun a b => a.serial = 0 ∨ a.serial ≠ b.serial) →
    SoundZone i ((rs.zipIdx n).foldl (fun z x => setRoll (.lane l (x.2 + 1)) x.1 z) z) := by
  intro rs; induction rs with
  | nil => intro n z h _ _; exact h
  | cons r rs ih =>
    intro n z h h1 h2
    rw [List.zipIdx_cons, List.foldl_cons]
    obtain ⟨h3, h4⟩ := List.pairwise_cons.mp h2
    refine ih (n+1) _ (setRoll_keeps h ?_) ?_ h4
    · rcases h1 r (by simp) with h5 | h5
      · exact .inl h5
      · exact .inr fun j s _ hs => h5 j s hs
    · intro x hx
      rcases h1 x (by simp [hx]) with h5 | h5
      · exact .inl h5
      · by_cases hx0 : x.serial = 0
        · exact .inl hx0
        · refine .inr fun j s hs => ?_
          change (z.stock.rolls.set _ _).get? j = some s at hs
          rw [Tbl.get?_set] at hs; split at hs
          · cases hs
            rcases h3 x hx with h6 | h6
            · exact fun h => hx0 (h ▸ h6)
            · exact h6
          · exact h5 j s hs

theorem erased_get (l : Nat) : ∀ (ps : List Nat) (z : Zone) (j : Nat) (s : Roll),
    (ps.foldl (fun z p => eraseRoll (.lane l p) z) z).stock.rolls.get? j = some s →
    z.stock.rolls.get? j = some s ∧ ∀ p ∈ ps, j ≠ (Place.lane l p).key := by
  intro ps; induction ps with
  | nil => intro z j s h; exact ⟨h, by simp⟩
  | cons p ps ih =>
    intro z j s h
    obtain ⟨h1, h2⟩ := ih _ j s h
    change (z.stock.rolls.erase _).get? j = some s at h1
    rw [Tbl.get?_erase] at h1; split at h1
    · cases h1
    · rename_i hj; refine ⟨h1, fun q hq => ?_⟩
      rcases List.mem_cons.mp hq with rfl | hq
      · exact hj
      · exact h2 q hq

theorem closeUp_keeps {i e l z} (h : SoundZone i z) : SoundZone i (closeUp e l z) := by
  unfold closeUp; simp only
  refine closeSet_keeps _ 0 _ (foldl_keeps h (fun z p _ hz => erase_keeps hz)) ?_ ?_
  · intro r hr
    obtain ⟨p, hp, hr⟩ := List.mem_filterMap.mp hr
    by_cases h0 : r.serial = 0
    · exact .inl h0
    · refine .inr fun j s hs hse => ?_
      obtain ⟨h1, h2⟩ := erased_get l _ _ _ _ hs
      exact h2 p hp ((serials_iff h.stock.r).mp h.stock.a j _ s r h1 hr hse (by rw [hse]; exact h0))
  · rw [List.pairwise_filterMap]
    have : (upTo (lanePositions e l)).Nodup := by
      unfold upTo; exact List.Nodup.map (fun a b h => by simpa using h) List.nodup_range
    refine this.imp ?_
    intro p q hpq r hr s hs
    by_cases h0 : r.serial = 0
    · exact .inl h0
    · refine .inr fun he => hpq ?_
      have := (serials_iff h.stock.r).mp h.stock.a _ _ r s hr hs he h0
      simp [Place.key] at this; omega

theorem watch_sorted {now : Time} {t : Tbl Time} {k : Nat} {b : Bool} (h : t.sorted = true) : (watchPlace now t k b).sorted = true := by
  unfold watchPlace; split
  · split
    · exact h
    · exact Tbl.sorted_set _ _ _ h
  · exact Tbl.sorted_erase _ _ h

theorem watch_fold {β} {now : Time} {t : Tbl Time} (k : β → Nat) (b : β → Bool) (l : List β) (h : t.sorted = true) :
    (l.foldl (fun t x => watchPlace now t (k x) (b x)) t).sorted = true := by
  induction l generalizing t with
  | nil => exact h
  | cons x xs ih => exact ih (watch_sorted h)

theorem laneWatch_keeps {i e z} (h : SoundZone i z) : SoundZone i (refreshLaneWatch e z) := by
  unfold refreshLaneWatch; simp only
  refine sound_of_stock h ⟨h.stock.r, ?_, h.stock.s, ?_, Tbl.sorted_filter _ _ h.stock.d, h.stock.a⟩
  · exact Tbl.sorted_map z.stock.lanes _ h.stock.l
  · exact watch_fold _ _ _ h.stock.w

theorem armWatch_keeps {i e z} (h : SoundZone i z) : SoundZone i (refreshArmWatch e z) := by
  unfold refreshArmWatch; simp only
  exact sound_of_splice h ⟨h.splice.s, watch_fold _ _ _ h.splice.w⟩

theorem watches_keeps {i e z} (h : SoundZone i z) : SoundZone i (refreshWatches e z) := by
  unfold refreshWatches; split
  · exact armWatch_keeps (laneWatch_keeps h)
  · exact h

end Sys2Proof.Machine
end

