-- ==== Sys2Proof/Laws/TablesReel.lean ====
section
/-! SUPPORT. Laws: the detector watches, the folder, waste and the runout engine keep the tables sound. -/

namespace Sys2Proof.Machine

theorem sound_of_folder {i} {z : Zone} {f : Folder} (h : SoundZone i z) (hf : SoundFolder f) : SoundZone i { z with folder := f } := by
  obtain ⟨h1, h2, h3, h4, h5, h6, h7, h8, h9⟩ := h; exact ⟨h1, h2, h3, h4, h5, h6, h7, hf, h9⟩

theorem sound_of_track {i} {z : Zone} {f : Track} (h : SoundZone i z) (hf : SoundTrack f) : SoundZone i { z with track := f } := by
  obtain ⟨h1, h2, h3, h4, h5, h6, h7, h8, h9⟩ := h; exact ⟨h1, hf, h3, h4, h5, h6, h7, h8, h9⟩

theorem sound_of_supply {i} {z : Zone} {f : Supply} (h : SoundZone i z) (hf : SoundSupply f) : SoundZone i { z with supply := f } := by
  obtain ⟨h1, h2, h3, h4, h5, h6, h7, h8, h9⟩ := h; exact ⟨h1, h2, h3, h4, hf, h6, h7, h8, h9⟩

theorem sound_of_reels {i} {z : Zone} {f : Tbl Reel} (h : SoundZone i z) (hf : f.sorted = true) : SoundZone i { z with reels := f } := by
  obtain ⟨h1, h2, h3, h4, h5, h6, h7, h8, h9⟩ := h; exact ⟨h1, h2, h3, h4, h5, hf, h7, h8, h9⟩

theorem sound_of_transfer {i} {z : Zone} {f : Transfer} (h : SoundZone i z) (hf : SoundTransfer i f) : SoundZone i { z with transfer := f } := by
  obtain ⟨h1, h2, h3, h4, h5, h6, h7, h8, h9⟩ := h; exact ⟨h1, h2, h3, hf, h5, h6, h7, h8, h9⟩

/-! web -/
theorem modWeb_keeps {i r f z} (h : SoundZone i z) (hf : ∀ w : WebPath, w.marks.length ≤ 4 → (f w).marks.length ≤ 4) : SoundZone i (modWeb r f z) := by
  refine sound_of_folder h ⟨by simpa [Tbl.sorted_modify] using h.folder.w, Tbl.all_modify_of h.folder.w h.folder.m ?_⟩
  intro v _ hv; simp only [decide_eq_true_eq] at hv ⊢; exact hf v hv

theorem store_len {w : WebPath} {m : Mark} (h : w.marks.length ≤ 4) : (w.store m).marks.length ≤ 4 := by
  unfold WebPath.store; split
  · rename_i hc; have := hc.1; simp only [Config.pathMarks] at this; simp; omega
  · exact h

theorem threaded_len {w : WebPath} {p s} (h : w.marks.length ≤ 4) : (w.threaded p s).marks.length ≤ 4 := by
  unfold WebPath.threaded; split
  · exact h
  · exact store_len h

theorem identified_len {w : WebPath} {s} (h : w.marks.length ≤ 4) : (w.identified s).marks.length ≤ 4 := by
  unfold WebPath.identified; split
  · rename_i m hm; split
    · have : w.marks ≠ [] := by intro h0; rw [h0] at hm; cases hm
      have := List.length_pos_iff.mpr this; simp; omega
    · exact h
  · split <;> exact h

theorem spliceMark_keeps {i e r a b z} (h : SoundZone i z) : SoundZone i (giveSpliceMark e r a b z) := modWeb_keeps h (fun _ => store_len)

theorem runningRoll_keeps {i e r s z} (h : SoundZone i z) : SoundZone i (reportRunningRoll e r s z) := modWeb_keeps h (fun _ => threaded_len)

theorem chargeRoll_keeps {i k m z} (h : SoundZone i z) : SoundZone i (chargeRoll k m z) := modRolls_keeps h (fun _ => rfl)

theorem dispose_keeps {i e r f m z} (h : SoundZone i z) : SoundZone i (dispose e r f m z) := by
  unfold dispose; split
  · exact h
  · exact modWeb_keeps h (fun _ hw => hw)
  · split
    · exact chargeRoll_keeps h
    · exact h
  · exact offer_keeps h

theorem closeAccount_keeps {i e r z} (h : SoundZone i z) : SoundZone i (closeAccount e r z) := by
  unfold closeAccount; split
  · exact h
  · split
    · exact h
    · exact modWeb_keeps (dispose_keeps h) (fun _ hw => hw)

theorem arriveAt_keeps {i e r z} (h : SoundZone i z) : SoundZone i (arriveAt e r z) := by
  unfold arriveAt; split
  · exact h
  · split
    · exact h
    · exact modWeb_keeps (closeAccount_keeps (modWeb_keeps h (fun w hw => by simp; omega))) (fun _ hw => hw)

theorem copyArrivals_keeps {i e z} (h : SoundZone i z) : SoundZone i (copyArrivals e z) := foldl_keeps h (fun z r _ hz => arriveAt_keeps hz)

theorem copyCharge_keeps {i e z} (h : SoundZone i z) : SoundZone i (copyCharge e z) := foldl_keeps h (fun z r _ hz => by
  split
  · exact modWeb_keeps hz (fun _ hw => hw)
  · exact hz)

theorem copyWindows_keeps {i z} (h : SoundZone i z) : SoundZone i (copyWindows z) := by
  refine sound_of_folder h ⟨Tbl.sorted_map z.folder.webs _ h.folder.w, ?_⟩
  have := h.folder.m; rw [List.all_eq_true] at this ⊢
  intro x hx; obtain ⟨y, hy, rfl⟩ := List.mem_map.mp hx; exact this y hy

/-- A vehicle table changed at one slot keeps its form when slot and number stay. -/
theorem soundTrack_modify {t : Track} {k : Nat} {f : Vehicle → Vehicle} (h : SoundTrack t) (hf : ∀ v, (f v).number = v.number) :
    SoundTrack { t with vehicles := t.vehicles.modify k f } := by
  refine ⟨h.s, h.p, by simpa [Tbl.sorted_modify] using h.v, h.w, h.d, Tbl.all_modify_of h.v h.n (fun v _ hv => hv), ?_⟩
  have h0 := (numbers_iff h.v).mp h.a
  rw [numbers_iff (by rw [Tbl.sorted_modify]; exact h.v)]
  have key : ∀ {c : Nat} {w : Vehicle}, (t.vehicles.modify k f).get? c = some w → ∃ u, t.vehicles.get? c = some u ∧ u.number = w.number := by
    intro c w hc; rw [Tbl.get?_modify] at hc; split at hc
    · cases hg : t.vehicles.get? c with
      | none => rw [hg] at hc; cases hc
      | some u => rw [hg] at hc; cases hc; exact ⟨u, rfl, (hf u).symm⟩
    · exact ⟨w, hc, rfl⟩
  intro a b x y ha hb he
  obtain ⟨x', hx, hx2⟩ := key ha
  obtain ⟨y', hy, hy2⟩ := key hb
  exact h0 a b x' y' hx hy (by rw [hx2, hy2, he])

theorem modVehicle_keeps {i k f z} (h : SoundZone i z) (hf : ∀ v : Vehicle, (f v).number = v.number) : SoundZone i (modVehicle k f z) :=
  sound_of_track h (soundTrack_modify h.track hf)

theorem takeRollWaste_keeps {i s m z} (h : SoundZone i z) : SoundZone i (takeRollWaste s m z) := by
  unfold takeRollWaste; split
  · exact h
  · split
    · exact chargeRoll_keeps h
    · split
      · exact modVehicle_keeps h (fun _ => rfl)
      · exact h

/-! drive -/
theorem modReel_keeps {i r f z} (h : SoundZone i z) : SoundZone i (modReel r f z) := sound_of_reels h (by simpa [Tbl.sorted_modify] using h.reels)

theorem setArmState_keeps {i e r x st z} (h : SoundZone i z) : SoundZone i (setArmState e r x st z) := writeRoll_keeps h (fun _ => rfl)

theorem setSpliceState_keeps {i e r st z} (h : SoundZone i z) : SoundZone i (setSpliceState e r st z) := by
  unfold setSpliceState; simp only; split
  · exact releaseDeferred_keeps (modSplice_keeps h)
  · exact modSplice_keeps h

theorem evalPaste_keeps {i r z} (h : SoundZone i z) : SoundZone i (evalPaste z r) := by
  unfold evalPaste; split
  · exact modSplice_keeps h
  · exact h

theorem enterMatched_keeps {i r z} (h : SoundZone i z) : SoundZone i (enterMatched r z) := evalPaste_keeps (modSplice_keeps h)

theorem startAcceleration_keeps {i e r z} (h : SoundZone i z) : SoundZone i (startAcceleration e r z) := by
  unfold startAcceleration; simp only; split
  · exact enterMatched_keeps (modSplice_keeps h)
  · exact modSplice_keeps h

theorem evalSplice_keeps {i e r z} (h : SoundZone i z) : SoundZone i (evalSplice e r z) := by
  unfold evalSplice; split
  · exact startAcceleration_keeps h
  · split
    · exact modSplice_keeps (raise_keeps h)
    · exact h

theorem enterPrepared_keeps {i e r z} (h : SoundZone i z) : SoundZone i (enterPrepared e r z) := evalSplice_keeps (setSpliceState_keeps h)

theorem pressStop_keeps {i b} {z : Zone} (h : SoundZone i z) : SoundZone i { z with splice := { z.splice with pressStop := b } } := sound_of_splice h ⟨h.splice.s, h.splice.w⟩

theorem evalRunout_keeps {i e r z} (h : SoundZone i z) : SoundZone i (evalRunout e r z) := by
  unfold evalRunout; split
  · simp only; refine raise_keeps ?_; split
    · exact setSpliceState_keeps (modSplice_keeps (pressStop_keeps (modSplice_keeps h)))
    · exact pressStop_keeps (modSplice_keeps h)
  · exact h

theorem lengthGiven_keeps {i e r z} (h : SoundZone i z) : SoundZone i (lengthGiven e r z) := evalRunout_keeps (evalPaste_keeps h)

theorem evalRunoutCall_keeps {i e r z} (h : SoundZone i z) : SoundZone i (evalRunoutCall e r z) := by
  unfold evalRunoutCall; split
  · split
    · exact push_keeps h
    · split
      · exact h
      · exact sound_of_supply h ⟨h.supply.c, h.supply.o, h.supply.r, h.supply.n⟩
    · exact h
  · exact h

theorem recomputeTime_keeps {i e r g z} (h : SoundZone i z) : SoundZone i (recomputeTime e r g z) := by
  unfold recomputeTime; split
  · exact h
  · simp only; refine evalRunoutCall_keeps ?_; split
    · exact evalSplice_keeps (modReel_keeps h)
    · exact modReel_keeps h

theorem writeRemaining_keeps {i e r x m z} (h : SoundZone i z) : SoundZone i (writeRemaining e r x m z) := by
  unfold writeRemaining; split
  · exact h
  · exact writeRoll_keeps h (fun _ => rfl)

theorem setTime_keeps {i e r z} (h : SoundZone i z) : SoundZone i (setTime e r z) := modReel_keeps h

theorem lengthChanged_keeps {i e r x z} (h : SoundZone i z) : SoundZone i (lengthChanged e r x z) := by
  unfold lengthChanged; split
  · exact h
  · simp only; refine evalRunoutCall_keeps ?_; split
    · exact evalSplice_keeps (lengthGiven_keeps (setTime_keeps (writeRemaining_keeps h)))
    · exact lengthGiven_keeps (setTime_keeps (writeRemaining_keeps h))

theorem seedArm_keeps {i e r x z} (h : SoundZone i z) : SoundZone i (seedArm e r x z) := by
  unfold seedArm; split
  · exact h
  · exact recomputeTime_keeps (lengthGiven_keeps (setTime_keeps (modReel_keeps (sound_of_supply h ⟨h.supply.c, h.supply.o, h.supply.r, Tbl.sorted_erase _ _ h.supply.n⟩))))

theorem runningArm_keeps {i e r x z} (h : SoundZone i z) : SoundZone i (reportRunningArm e r x z) := by
  unfold reportRunningArm; split
  · exact modReel_keeps h
  · simp only; split
    · exact modReel_keeps h
    · exact seedArm_keeps (modReel_keeps h)

theorem deadReckoning_keeps {i e r x m z} (h : SoundZone i z) : SoundZone i (raiseDeadReckoning e r x m z) := raiseForReel_keeps h

theorem revolutionPoint_keeps {i e r b z} (h : SoundZone i z) : SoundZone i (revolutionPoint e r b z) := by
  unfold revolutionPoint; split
  · split
    · exact h
    · simp only
      split <;> split
      · exact lengthChanged_keeps (deadReckoning_keeps (modReel_keeps h))
      · exact lengthChanged_keeps (modReel_keeps h)
      · exact deadReckoning_keeps (modReel_keeps h)
      · exact modReel_keeps h
  · exact h

theorem missingIndex_keeps {i e r z} (h : SoundZone i z) : SoundZone i (serveMissingIndex e r z) := by
  unfold serveMissingIndex; split
  · exact revolutionPoint_keeps h
  · exact h

theorem feed_keeps {i r z} (h : SoundZone i z) : SoundZone i (feedRunning r z) := modReel_keeps h

theorem identifyRunning_keeps {i e r x s c m z} (h : SoundZone i z) : SoundZone i (identifyRunning e r x s c m z) := by
  unfold identifyRunning; split
  · split
    · simp only; split
      · exact lengthChanged_keeps (modReel_keeps h)
      · exact modReel_keeps h
    · exact h
  · exact h

end Sys2Proof.Machine
end

