-- ==== Sys2Proof/Laws/TablesTrack.lean ====
section
/-! SUPPORT. Laws: the operations of the track keep the tables sound. -/

namespace Sys2Proof.Machine

theorem modSegAt_keeps {i k f z} (h : SoundZone i z) (hf : ∀ s : Segment, z.track.segments.get? k = some s → s.wait.length ≤ 7 → (f s).wait.length ≤ 7) :
    SoundZone i (modSeg k f z) := by
  refine sound_of_track h ⟨by simpa [Tbl.sorted_modify] using h.track.s, h.track.p, h.track.v, Tbl.all_modify_of h.track.s h.track.w ?_, h.track.d, h.track.n, h.track.a⟩
  intro v hv h1; simp only [decide_eq_true_eq] at h1 ⊢; exact hf v hv h1

theorem modSeg_keeps {i k f z} (h : SoundZone i z) (hf : ∀ s : Segment, s.wait.length ≤ 7 → (f s).wait.length ≤ 7) : SoundZone i (modSeg k f z) :=
  modSegAt_keeps h (fun s _ => hf s)

theorem setSegState_keeps {i k s z} (h : SoundZone i z) : SoundZone i (setSegState k s z) := modSeg_keeps h (fun _ h => h)

theorem setPermit_keeps {i k b z} (h : SoundZone i z) : SoundZone i (setPermit k b z) := modSeg_keeps h (fun _ h => h)

theorem setPoints_keeps {i e k p z} (h : SoundZone i z) : SoundZone i (setPoints e k p z) := by
  unfold setPoints; split
  · split
    · exact h
    · exact sound_of_track h ⟨h.track.s, Tbl.sorted_set _ _ _ h.track.p, h.track.v, h.track.w, h.track.d, h.track.n, h.track.a⟩
  · exact h

theorem nextClaim_keeps {i z} (h : SoundZone i z) : SoundZone i (nextClaim z) := sound_of_track h ⟨h.track.s, h.track.p, h.track.v, h.track.w, h.track.d, h.track.n, h.track.a⟩

theorem claimNow_keeps {i s z} (h : SoundZone i z) : SoundZone i (claimNow s z) := modVehicle_keeps (nextClaim_keeps h) (fun _ => rfl)

theorem grant_keeps {i e s k z} (h : SoundZone i z) : SoundZone i (grant e s k z) := by
  unfold grant; split
  · exact h
  · rename_i v hv; simp only
    have h1 : SoundZone i (modVehicle s (fun v => { v with granted := some k, state := .moving, route := if v.route.head? = some k then v.route.tail else v.route }) (setSegState k (.granted v.number) z)) :=
      modVehicle_keeps (setSegState_keeps h) (fun _ => rfl)
    split
    · split
      · exact setPermit_keeps (setPoints_keeps h1)
      · exact setPermit_keeps h1
    · exact h1

theorem joinWait_keeps {i s v k z} (h : SoundZone i z) : SoundZone i (joinWait s v k z) := by
  unfold joinWait; simp only
  have h1 : SoundZone i (modVehicle s (fun v => { v with state := .held }) z) := modVehicle_keeps h (fun _ => rfl)
  split
  · rename_i hw
    refine claimNow_keeps (modSegAt_keeps h1 (fun x hx _ => ?_))
    have hx' : seg? (modVehicle s (fun v => { v with state := .held }) z) k = some x := hx
    rw [hx'] at hw
    simp only [Option.any_some, Config.waitLength, decide_eq_true_eq] at hw
    show (x.wait ++ [v]).length ≤ 7
    rw [List.length_append]; simp only [List.length_singleton]; exact of_decide_eq_true hw
  · exact h1

theorem ask_keeps {i e s z} (h : SoundZone i z) : SoundZone i (ask e s z) := by
  unfold ask; split
  · exact h
  · split
    · exact h
    · split
      · split
        · exact grant_keeps (claimNow_keeps h)
        · exact joinWait_keeps h
      · exact h

theorem askAgain_keeps {i e k z} (h : SoundZone i z) : SoundZone i (askAgain e k z) := foldl_keeps h (fun z s _ hz => by
  split
  · exact ask_keeps hz
  · exact hz)

theorem leaveWaits_keeps {i e v z} (h : SoundZone i z) : SoundZone i (leaveWaits e v z) := by
  unfold leaveWaits; simp only
  refine foldl_keeps (foldl_keeps h (fun z k _ hz => modSeg_keeps hz (fun s hs => le_trans (List.length_filter_le _ _) hs))) (fun z k _ hz => foldl_keeps hz (fun z s _ hz => ?_))
  split
  · exact ask_keeps hz
  · exact hz

theorem sendPassOffer_keeps {i e s z} (h : SoundZone i z) : SoundZone i (sendPassOffer e s z) := by
  unfold sendPassOffer; split
  · split
    · exact offer_keeps h
    · exact h
  · exact h

theorem numbers_set {t : Tbl Vehicle} {k : Nat} {v : Vehicle} (hs : t.sorted = true) (h : numbersApart t = true)
    (hv : ∀ j s, j ≠ k → t.get? j = some s → s.number ≠ v.number) : numbersApart (t.set k v) = true := by
  rw [numbers_iff (Tbl.sorted_set _ _ _ hs)]; rw [numbers_iff hs] at h
  intro a b x y ha hb he
  rw [Tbl.get?_set] at ha hb
  split at ha <;> split at hb
  · omega
  · rename_i h1 h2; cases ha; exact absurd he.symm (hv b y h2 hb)
  · rename_i h1 h2; cases hb; exact absurd he (hv a x h1 ha)
  · exact h a b x y ha hb he

theorem numbers_erase {t : Tbl Vehicle} {k : Nat} (hs : t.sorted = true) (h : numbersApart t = true) : numbersApart (t.erase k) = true := by
  rw [numbers_iff (Tbl.sorted_erase _ _ hs)]; rw [numbers_iff hs] at h
  intro a b x y ha hb he
  rw [Tbl.get?_erase] at ha hb
  split at ha; · cases ha
  split at hb; · cases hb
  exact h a b x y ha hb he

theorem free_slot {z : Zone} {k : Nat} (h : freeVehicleSlot z = some k) : 1 ≤ k ∧ k ≤ 8 := by
  unfold freeVehicleSlot Tbl.freeKey at h
  obtain ⟨j, hj, h2⟩ := List.exists_of_findSome?_eq_some h
  rw [List.mem_range] at hj; simp only [Config.vehicleSlots] at hj
  split at h2
  · cases h2
  · cases h2; omega

theorem find_none {z : Zone} {n : Nat} (h : findVehicle z n = none) : ∀ j s, z.track.vehicles.get? j = some s → s.number ≠ n := by
  intro j s hs he
  unfold findVehicle at h
  rw [List.find?_eq_none] at h
  exact h _ (Tbl.mem_of_get? hs) (by simp [he])

theorem soundTrack_new {t : Track} {k : Nat} {v : Vehicle} (h : SoundTrack t) (hk : 1 ≤ k ∧ k ≤ 8)
    (hv : ∀ j s, t.vehicles.get? j = some s → s.number ≠ v.number) : SoundTrack { t with vehicles := t.vehicles.set k v } :=
  ⟨h.s, h.p, Tbl.sorted_set _ _ _ h.v, h.w, h.d, Tbl.all_set_of h.v h.n (by simp [hk]), numbers_set h.v h.a (fun j s _ => hv j s)⟩

theorem acceptOffer_keeps {i e s o z} (h : SoundZone i z) (hs : freeVehicleSlot z = some s) (ho : findVehicle z o.number = none) :
    SoundZone i (acceptOffer e s o z) := by
  unfold acceptOffer; simp only
  exact offer_keeps (sound_of_track (setSegState_keeps h) (soundTrack_new (setSegState_keeps h).track (free_slot hs) (find_none ho)))

theorem takeDeferred_keeps {i e s o z} (h : SoundZone i z) (hs : freeVehicleSlot z = some s) (ho : findVehicle z o.number = none) :
    SoundZone i (takeDeferred e s o z) := by
  unfold takeDeferred
  refine acceptOffer_keeps (sound_of_track h ⟨h.track.s, h.track.p, h.track.v, h.track.w, ?_, h.track.n, h.track.a⟩) hs ho
  have := h.track.d
  have h2 := List.Sublist.length_le (List.erase_sublist (a := o) (l := z.track.deferred))
  exact le_trans h2 this

theorem grantFirst_keeps {i e k z} (h : SoundZone i z) : SoundZone i (grantFirst e k z) := by
  unfold grantFirst; split
  · exact h
  · simp only
    have h1 : SoundZone i (modSeg k (fun s => { s with wait := s.wait.tail }) z) := modSeg_keeps h (fun s hs => by simp; omega)
    split
    · exact askAgain_keeps (grant_keeps h1)
    · exact h1

theorem handOn_keeps {i e k z} (h : SoundZone i z) : SoundZone i (handOn e k z) := by
  unfold handOn; split
  · exact grantFirst_keeps h
  · simp only; split
    · exact grantFirst_keeps h
    · split
      · rename_i h1 h2; exact takeDeferred_keeps h h1 h2
      · exact grantFirst_keeps h

theorem freeSegment_keeps {i e k z} (h : SoundZone i z) : SoundZone i (freeSegment e k z) := handOn_keeps (modSeg_keeps h (fun _ h => h))

theorem dropPermit_keeps {i v z} (h : SoundZone i z) : SoundZone i (dropPermit v z) := by
  unfold dropPermit; split
  · split
    · exact setPermit_keeps h
    · exact h
  · exact h

theorem withdrawGrant_keeps {i e s z} (h : SoundZone i z) : SoundZone i (withdrawGrant e s z) := by
  unfold withdrawGrant; split
  · split
    · exact handOn_keeps (setSegState_keeps (dropPermit_keeps (modVehicle_keeps h (fun _ => rfl))))
    · exact h
  · exact h

theorem strand_keeps {i e s z} (h : SoundZone i z) : SoundZone i (strand e s z) := by
  unfold strand; split
  · exact leaveWaits_keeps (withdrawGrant_keeps (modVehicle_keeps h (fun _ => rfl)))
  · exact h

theorem strandNoRoute_keeps {i e s z} (h : SoundZone i z) : SoundZone i (strandNoRoute e s z) := by
  unfold strandNoRoute; split
  · exact raise_keeps (strand_keeps h)
  · exact h

theorem dockVehicle_keeps {i e s d z} (h : SoundZone i z) : SoundZone i (dockVehicle e s d z) := by
  unfold dockVehicle; split
  · simp only
    have h1 : SoundZone i (modVehicle s (fun v => { v with state := .docked }) z) := modVehicle_keeps h (fun _ => rfl)
    split
    · split
      · exact push_keeps h1
      · exact h1
    · split
      · exact push_keeps h1
      · exact h1
    · exact h1
  · exact h

theorem parkVehicle_keeps {i s z} (h : SoundZone i z) : SoundZone i (parkVehicle s z) := by
  unfold parkVehicle; split
  · exact push_keeps (modVehicle_keeps h (fun _ => rfl))
  · exact h

theorem reachExit_keeps {i e s x z} (h : SoundZone i z) : SoundZone i (reachExit e s x z) := sendPassOffer_keeps (modVehicle_keeps h (fun _ => rfl))

theorem arrive_keeps {i e s v z} (h : SoundZone i z) : SoundZone i (arrive e s v z) := by
  unfold arrive; simp only
  have h1 : SoundZone i (modVehicle s (fun v => { v with state := .held }) z) := modVehicle_keeps h (fun _ => rfl)
  split
  · split
    · exact dockVehicle_keeps h1
    · exact h1
  · split
    · split
      · exact parkVehicle_keeps h1
      · exact h1
    · split
      · exact parkVehicle_keeps h1
      · exact h1
  · split
    · split
      · exact reachExit_keeps h1
      · exact h1
    · exact h1
  · exact h1

theorem proceed_keeps {i e s z} (h : SoundZone i z) : SoundZone i (proceed e s z) := by
  unfold proceed; split
  · exact h
  · split
    · split
      · exact h
      · split
        · exact modVehicle_keeps h (fun _ => rfl)
        · split
          · exact ask_keeps h
          · exact arrive_keeps h
    · exact h

theorem computeRoute_keeps {i e s z} (h : SoundZone i z) : SoundZone i (computeRoute e s z) := by
  unfold computeRoute; split
  · exact h
  · split
    · exact h
    · simp only; split
      · exact strandNoRoute_keeps h
      · split
        · exact parkVehicle_keeps (withdrawGrant_keeps (modVehicle_keeps h (fun _ => rfl)))
        · exact modVehicle_keeps h (fun _ => rfl)

theorem routeAndGo_keeps {i e s z} (h : SoundZone i z) : SoundZone i (routeAndGo e s z) := proceed_keeps (computeRoute_keeps h)
@[simp] theorem noHandOver_number (now : Time) (v : Vehicle) : (v.noHandOver now).number = v.number := by
  unfold Vehicle.noHandOver; split <;> rfl

theorem setPurpose_keeps {i e s p z} (h : SoundZone i z) : SoundZone i (setPurpose e s p z) := by
  unfold setPurpose; split
  · exact h
  · refine routeAndGo_keeps (modVehicle_keeps (leaveWaits_keeps h) (fun v => ?_))
    show (if v.handOver = .accepted then v else v.noHandOver e.now).number = v.number
    split <;> simp

theorem enterSegment_keeps {i e s k z} (h : SoundZone i z) : SoundZone i (enterSegment e s k z) := by
  unfold enterSegment; split
  · exact h
  · rename_i v hv; simp only
    have h1 := setSegState_keeps (k := k) (s := .occupied v.number) h
    refine proceed_keeps (modVehicle_keeps ?_ (fun _ => rfl))
    have h2 : ∀ o : Option Nat, SoundZone i (match o with | some c => setPermit c false (setSegState k (.occupied v.number) z) | none => setSegState k (.occupied v.number) z) := by
      intro o; cases o
      · exact h1
      · exact setPermit_keeps h1
    split
    · split
      · exact h2 _
      · exact freeSegment_keeps (h2 _)
    · exact h2 _

theorem enterCarried_keeps {i e s r z} (h : SoundZone i z) : SoundZone i (enterCarried e s r z) := by
  unfold enterCarried; split
  · exact raise_keeps (setRoll_keeps h (.inl rfl))
  · rename_i hc
    refine setNew_keeps h ?_
    show findSerial z r.serial = none
    by_cases h0 : r.serial = 0
    · simp [findSerial, h0]
    · rw [not_and] at hc; simpa using hc h0

theorem arriveIncoming_keeps {i e s k z} (h : SoundZone i z) : SoundZone i (arriveIncoming e s k z) := by
  unfold arriveIncoming; split
  · exact h
  · rename_i v hv; simp only
    have h1 : SoundZone i (modVehicle s (fun v => { v with state := .held, current := some k, carried := none, offeredBy := none }) (setSegState k (.occupied v.number) z)) := modVehicle_keeps (setSegState_keeps h) (fun _ => rfl)
    cases v.carried <;> cases v.offeredBy <;> simp only <;> split
    · exact routeAndGo_keeps h1
    · exact push_keeps (routeAndGo_keeps h1)
    · exact routeAndGo_keeps (offer_keeps h1)
    · exact push_keeps (routeAndGo_keeps (offer_keeps h1))
    · exact routeAndGo_keeps (enterCarried_keeps h1)
    · exact push_keeps (routeAndGo_keeps (enterCarried_keeps h1))
    · exact routeAndGo_keeps (offer_keeps (enterCarried_keeps h1))
    · exact push_keeps (routeAndGo_keeps (offer_keeps (enterCarried_keeps h1)))

theorem tagMismatch_keeps {i e k t z} (h : SoundZone i z) : SoundZone i (tagMismatch e k t z) := by
  unfold tagMismatch; simp only; split
  · refine raise_keeps (setSegState_keeps ?_)
    split
    · exact modSeg_keeps (modVehicle_keeps (dropPermit_keeps h) (fun _ => rfl)) (fun s hs => by simp [Config.waitLength])
    · exact h
  · exact raise_keeps (setSegState_keeps h)
  · exact raise_keeps (setSegState_keeps h)
  · exact h

theorem readTag_keeps {i e k t z} (h : SoundZone i z) : SoundZone i (readTag e k t z) := by
  unfold readTag; split
  · exact h
  · split
    · split
      · exact enterSegment_keeps h
      · exact tagMismatch_keeps h
    · exact tagMismatch_keeps h
  · split
    · split
      · exact arriveIncoming_keeps h
      · exact tagMismatch_keeps h
    · exact tagMismatch_keeps h
  · exact tagMismatch_keeps h

theorem loseVehicle_keeps {i e s k v z} (h : SoundZone i z) : SoundZone i (loseVehicle e s k v z) :=
  raise_keeps (modVehicle_keeps (strand_keeps (modSeg_keeps h (fun _ h => h))) (fun _ => rfl))

theorem clearSegment_keeps {i e k z} (h : SoundZone i z) : SoundZone i (clearSegment e k z) := by
  unfold clearSegment; split
  · split
    · exact freeSegment_keeps h
    · split
      · exact proceed_keeps (modVehicle_keeps (freeSegment_keeps h) (fun _ => rfl))
      · split
        · split
          · exact freeSegment_keeps h
          · exact loseVehicle_keeps h
        · exact freeSegment_keeps h
  · exact h

theorem openExit_keeps {i e v z} (h : SoundZone i z) : SoundZone i (openExit e v z) := by
  unfold openExit; split
  · split
    · exact setPermit_keeps (setPoints_keeps h)
    · exact h
  · exact h

theorem passAccepted_keeps {i e s v z} (h : SoundZone i z) : SoundZone i (passAccepted e s v z) := modVehicle_keeps (openExit_keeps h) (fun _ => rfl)

theorem offerFreedSlot_keeps {i e z} (h : SoundZone i z) : SoundZone i (offerFreedSlot e z) := by
  unfold offerFreedSlot; split
  · exact h
  · rename_i hs; split
    · rename_i o ho
      refine takeDeferred_keeps h hs ?_
      have := List.find?_some ho
      simp at this; exact this.2
    · exact h

theorem offerLeftNumber_keeps {i e n z} (h : SoundZone i z) : SoundZone i (offerLeftNumber e n z) := by
  unfold offerLeftNumber; split
  · rename_i o hs ho; split
    · rename_i hc
      refine takeDeferred_keeps h hs ?_
      have := List.find?_some ho; simp at this
      rw [this]; simpa using hc.2
    · exact h
  · exact h

theorem deletePassed_keeps {i e s v z} (h : SoundZone i z) : SoundZone i (deletePassed e s v z) := by
  unfold deletePassed; simp only
  refine offerLeftNumber_keeps (offerFreedSlot_keeps (erase_keeps (sound_of_track (dropPermit_keeps h) ?_)))
  have h1 := (dropPermit_keeps (v := v) h).track
  exact ⟨h1.s, h1.p, Tbl.sorted_erase _ _ h1.v, h1.w, h1.d, all_sub (Tbl.erase_sub _ _) h1.n, numbers_erase h1.v h1.a⟩

theorem senderAlive_keeps {i e s z} (h : SoundZone i z) : SoundZone i (senderAlive e s z) :=
  foldl_keeps h (fun z v _ hz => sendPassOffer_keeps (modVehicle_keeps hz (fun _ => rfl)))

end Sys2Proof.Machine
end

