-- ==== Sys2Proof/Laws/TablesSplice.lean ====
section
/-! SUPPORT. Laws: the operations of the splice sequencer keep the tables sound. -/

namespace Sys2Proof.Machine

theorem makeRunning_keeps {i e r x z} (h : SoundZone i z) : SoundZone i (makeRunning e r x z) := by
  unfold makeRunning; exact runningArm_keeps (modSplice_keeps (setSpliceState_keeps (setArmState_keeps h)))

theorem threadRunning_keeps {i e r x z} (h : SoundZone i z) : SoundZone i (threadRunning e r x z) := runningRoll_keeps (makeRunning_keeps h)

theorem becomeLoaded_keeps {i e r x z} (h : SoundZone i z) : SoundZone i (becomeLoaded e r x z) := by
  unfold becomeLoaded; simp only; split
  · exact enterPrepared_keeps (setSpliceState_keeps (modSplice_keeps (setArmState_keeps h)))
  · exact setSpliceState_keeps (modSplice_keeps (setArmState_keeps h))

theorem rollOnArm_keeps {i e r x z} (h : SoundZone i z) : SoundZone i (rollOnArm e r x z) := by
  unfold rollOnArm; split
  · exact h
  · split
    · exact threadRunning_keeps h
    · split
      · exact becomeLoaded_keeps h
      · exact setArmState_keeps h

theorem rollSet_keeps {i e r x b z} (h : SoundZone i z) : SoundZone i (rollSet e r x b z) := by
  unfold rollSet; simp only; split
  · exact rollOnArm_keeps h
  · exact push_keeps (rollOnArm_keeps h)

theorem withdrawButtClear_keeps {i r x z} (h : SoundZone i z) : SoundZone i (withdrawButtClear r x z) :=
  sound_of_transfer h ⟨h.transfer.p, h.transfer.o, le_trans (List.length_filter_le _ _) h.transfer.hp, h.transfer.ho, h.transfer.n⟩

theorem recordLeft_keeps {i e r x z} (h : SoundZone i z) : SoundZone i (recordLeft e r x z) := by
  unfold recordLeft; simp only; split
  · exact withdrawButtClear_keeps h
  · split
    · exact setSpliceState_keeps (modSplice_keeps (withdrawButtClear_keeps h))
    · exact withdrawButtClear_keeps h

theorem place0_keeps {i p st z} (h : SoundZone i z) : SoundZone i (setRoll p (unidentified st) z) := setRoll_keeps h (.inl rfl)

theorem armFound_keeps {i e r x z} (h : SoundZone i z) : SoundZone i (armFound e r x z) := by
  unfold armFound; split
  · exact h
  · simp only; split
    · exact threadRunning_keeps (place0_keeps h)
    · split
      · exact push_keeps (becomeLoaded_keeps (place0_keeps h))
      · split
        · exact place0_keeps h
        · exact place0_keeps h

theorem enterFailed_keeps {i e r c w z} (h : SoundZone i z) : SoundZone i (enterFailed e r c w z) :=
  raise_keeps (pressStop_keeps (setSpliceState_keeps (modSplice_keeps h)))

theorem armLost_keeps {i e r x z} (h : SoundZone i z) : SoundZone i (armLost e r x z) := by
  unfold armLost; split
  · exact h
  · simp only
    have h1 := withdrawButtClear_keeps (r := r) (x := x) (erase_keeps (p := .arm r x) (release_keeps (k := (Place.arm r x).key) (raiseForReel_keeps (e := e) (r := r) (c := .mismatch) (x := [.place (.arm r x), .serial (armSerial z r x)]) h)))
    split
    · exact h1
    · exact h1
    · split
      · exact runningArm_keeps (modSplice_keeps (setSpliceState_keeps h1))
      · exact h1
    all_goals first
      | exact enterFailed_keeps h1
      | (split
         · exact threadRunning_keeps (modSplice_keeps h1)
         · exact setSpliceState_keeps (modSplice_keeps (modSplice_keeps h1)))

theorem standbyReady_keeps {i e r a z} (h : SoundZone i z) : SoundZone i (standbyReadyChanged e r a z) := by
  unfold standbyReadyChanged; split
  · split
    · exact enterPrepared_keeps h
    · exact h
  · split
    · exact h
    · exact setSpliceState_keeps h
  · split
    · exact h
    · exact setSpliceState_keeps (modSplice_keeps h)
  · split
    · exact h
    · exact setSpliceState_keeps (modSplice_keeps h)
  · exact h

theorem speedMatched_keeps {i e r a z} (h : SoundZone i z) : SoundZone i (speedMatchedChanged e r a z) := by
  unfold speedMatchedChanged; split
  · split
    · exact enterMatched_keeps h
    · exact h
  · split
    · exact h
    · exact modSplice_keeps h
  · exact h

theorem matchExpired_keeps {i e r z} (h : SoundZone i z) : SoundZone i (matchExpired e r z) := raise_keeps (setSpliceState_keeps (modSplice_keeps h))

theorem firePaste_keeps {i e r z} (h : SoundZone i z) : SoundZone i (firePaste e r z) := modSplice_keeps h

theorem fireKnife_keeps {i e r z} (h : SoundZone i z) : SoundZone i (fireKnife e r z) := modSplice_keeps h

theorem markSplice_keeps {i e r z} (h : SoundZone i z) : SoundZone i (markSplice e r z) := spliceMark_keeps h

theorem pasteMade_keeps {i e r z} (h : SoundZone i z) : SoundZone i (pasteMade e r z) := by
  unfold pasteMade; split
  · exact h
  · split
    · exact modSplice_keeps (markSplice_keeps h)
    · split
      · exact modSplice_keeps (markSplice_keeps h)
      · exact h

theorem swapArms_keeps {i e r z} (h : SoundZone i z) : SoundZone i (swapArms e r z) := by
  unfold swapArms; split
  · exact h
  · split
    · exact h
    · simp only; split
      · exact push_keeps (runningArm_keeps (setSpliceState_keeps (modSplice_keeps (setArmState_keeps (setArmState_keeps h)))))
      · exact push_keeps (runningArm_keeps (modSplice_keeps (setArmState_keeps (setArmState_keeps h))))

theorem knifeMade_keeps {i e r z} (h : SoundZone i z) : SoundZone i (knifeMade e r z) := by
  unfold knifeMade; split
  · exact h
  · split
    · exact swapArms_keeps (modSplice_keeps h)
    · exact h

theorem webBroken_keeps {i e r z} (h : SoundZone i z) : SoundZone i (webBroken e r z) := by
  unfold webBroken; split
  · exact enterPrepared_keeps (modSplice_keeps h)
  · exact enterPrepared_keeps (modSplice_keeps h)
  · exact enterFailed_keeps h
  · exact enterFailed_keeps h
  · exact h

theorem revolutionIndexed_keeps {i e r x z} (h : SoundZone i z) : SoundZone i (revolutionIndexed e r x z) := by
  unfold revolutionIndexed; simp only
  have h1 := missingIndex_keeps (e := e) (r := r) h
  split
  · split
    · exact fireKnife_keeps (revolutionPoint_keeps h1)
    · exact revolutionPoint_keeps h1
  · split
    · exact firePaste_keeps h1
    · exact h1

theorem spliceByHand_keeps {i e r z} (h : SoundZone i z) : SoundZone i (spliceByHand e r z).1 := by
  unfold spliceByHand; split
  · exact h
  · exact startAcceleration_keeps (modSplice_keeps h)
  · exact evalPaste_keeps (modSplice_keeps h)
  · exact evalPaste_keeps (modSplice_keeps h)
  · exact h

theorem leaveFailed_keeps {i e r z} (h : SoundZone i z) : SoundZone i (leaveFailed e r z) := by
  unfold leaveFailed; split
  · exact h
  · split
    · exact h
    · rename_i s hs hc
      simp only
      have h1 : SoundZone i (modSplice r (fun s => { s.clearSplice with inhibited := false }) z) := modSplice_keeps h
      generalize modSplice r (fun s => { s.clearSplice with inhibited := false }) z = z1 at h1 ⊢
      split
      · have h2 : SoundZone i (if (rollAt z1 (Place.arm r (s.running.getD .a))).any (fun x => decide (x.state = .running)) then
            reportRunningArm e r (some (s.running.getD .a)) (setSpliceState e r .single (setArmState e r (s.running.getD .a) .running z1)) else
            reportRunningRoll e r (armSerial (reportRunningArm e r (some (s.running.getD .a)) (setSpliceState e r .single (setArmState e r (s.running.getD .a) .running z1))) r (s.running.getD .a))
              (reportRunningArm e r (some (s.running.getD .a)) (setSpliceState e r .single (setArmState e r (s.running.getD .a) .running z1)))) := by
          split
          · exact runningArm_keeps (setSpliceState_keeps (setArmState_keeps h1))
          · exact runningRoll_keeps (runningArm_keeps (setSpliceState_keeps (setArmState_keeps h1)))
        split
        · split
          · exact enterPrepared_keeps (setSpliceState_keeps (modSplice_keeps h2))
          · exact setSpliceState_keeps (modSplice_keeps h2)
        · exact h2
      · split
        · exact threadRunning_keeps h1
        · exact runningArm_keeps (modSplice_keeps (setSpliceState_keeps h1))

theorem ackSplices_keeps {i e z} (h : SoundZone i z) : SoundZone i (ackSplices e z) := by
  unfold ackSplices; simp only
  have h1 : SoundZone i ((reelNumbers e).foldl (fun z r => leaveFailed e r z) z) := foldl_keeps h (fun z r _ hz => leaveFailed_keeps hz)
  split
  · exact h1
  · exact pressStop_keeps h1

theorem scanReelstand_keeps {i e r z} (h : SoundZone i z) : SoundZone i (scanReelstand e r z) := by
  unfold scanReelstand; simp only; split
  · split
    · exact becomeLoaded_keeps (place0_keeps (threadRunning_keeps (place0_keeps h)))
    · exact threadRunning_keeps (place0_keeps h)
  · split
    · exact threadRunning_keeps (place0_keeps h)
    · exact h

theorem scanReelstands_keeps {i e z} (h : SoundZone i z) : SoundZone i (scanReelstands e z) := foldl_keeps h (fun z r _ hz => scanReelstand_keeps hz)

theorem resumeReelstand_keeps {i e r z} (h : SoundZone i z) : SoundZone i (resumeReelstand e r z) := by
  unfold resumeReelstand; split
  · split
    · exact setSpliceState_keeps h
    · exact h
  · split
    · exact h
    · exact setSpliceState_keeps h
  · exact h

theorem resumeReelstands_keeps {i e z} (h : SoundZone i z) : SoundZone i (resumeReelstands e z) :=
  foldl_keeps (sound_of_splice h ⟨h.splice.s, rfl⟩) (fun z r _ hz => resumeReelstand_keeps hz)

end Sys2Proof.Machine
end

