-- ==== Sys2Proof/Laws/TablesTransfer.lean ====
section
/-! SUPPORT. Laws: the operations of orders, carriage and vehicles keep the tables sound. -/

namespace Sys2Proof.Machine

theorem ite_keeps {i} {c : Prop} [Decidable c] {a b : Zone} (ha : SoundZone i a) (hb : SoundZone i b) : SoundZone i (if c then a else b) := by
  split
  · exact ha
  · exact hb

theorem transferSame_keeps {i} {z : Zone} {t : Transfer} (h : SoundZone i z) (hp : t.ordersP = z.transfer.ordersP) (ho : t.ordersO = z.transfer.ordersO)
    (hh : t.heldP = z.transfer.heldP) (hk : t.heldO = z.transfer.heldO) (hn : t.notices = z.transfer.notices) : SoundZone i { z with transfer := t } :=
  sound_of_transfer h ⟨by rw [hp]; exact h.transfer.p, by rw [ho]; exact h.transfer.o, by rw [hh]; exact h.transfer.hp, by rw [hk]; exact h.transfer.ho, by rw [hn]; exact h.transfer.n⟩

theorem modOrder_keeps {i n f z} (h : SoundZone i z) : SoundZone i (modOrder n f z) :=
  sound_of_transfer h ⟨by simpa using h.transfer.p, by simpa using h.transfer.o, h.transfer.hp, h.transfer.ho, h.transfer.n⟩

theorem modStat_keeps {i q f z} (h : SoundZone i z) : SoundZone i (modStat q f z) := by
  cases q <;> exact transferSame_keeps h rfl rfl rfl rfl rfl

theorem bumpOverrun_keeps {i q z} (h : SoundZone i z) : SoundZone i (bumpOverrun q z) := modStat_keeps h

theorem setNotice_keeps {i p f z} (h : SoundZone i z) : SoundZone i (setNotice p f z) := by
  unfold setNotice; split
  · exact sound_of_transfer h ⟨h.transfer.p, h.transfer.o, h.transfer.hp, h.transfer.ho, Tbl.sorted_set _ _ _ h.transfer.n⟩
  · exact h

theorem clearHold_keeps {i n z} (h : SoundZone i z) : SoundZone i (clearHold n z) :=
  sound_of_transfer h ⟨h.transfer.p, h.transfer.o, h.transfer.hp, h.transfer.ho, Tbl.sorted_map z.transfer.notices _ h.transfer.n⟩

theorem noteEnd_keeps {i o f z} (h : SoundZone i z) : SoundZone i (noteEnd o f z) := by
  unfold noteEnd; simp only; split
  · exact setNotice_keeps (setNotice_keeps h)
  · exact setNotice_keeps h

theorem refreshTriggers_keeps {i e z} (h : SoundZone i z) : SoundZone i (refreshTriggers e z) :=
  sound_of_transfer h ⟨by simpa using h.transfer.p, by simpa using h.transfer.o, h.transfer.hp, h.transfer.ho, h.transfer.n⟩

theorem filterOrders_keeps {i z} {q : Queue} {p : Order → Bool} (h : SoundZone i z) : SoundZone i (setOrders q ((ordersOf z q).filter p) z) := by
  cases q
  · exact sound_of_transfer h ⟨le_trans (List.length_filter_le _ _) h.transfer.p, h.transfer.o, h.transfer.hp, h.transfer.ho, h.transfer.n⟩
  · exact sound_of_transfer h ⟨h.transfer.p, le_trans (List.length_filter_le _ _) h.transfer.o, h.transfer.hp, h.transfer.ho, h.transfer.n⟩

theorem setHeld_keeps {i z q l} (h : SoundZone i z) (hl : l.length ≤ 32) : SoundZone i (setHeld q l z) := by
  cases q
  · exact sound_of_transfer h ⟨h.transfer.p, h.transfer.o, hl, h.transfer.ho, h.transfer.n⟩
  · exact sound_of_transfer h ⟨h.transfer.p, h.transfer.o, h.transfer.hp, hl, h.transfer.n⟩

theorem acceptOrder_keeps {e r z} (h : SoundZone e.img z) (hq : queueFull e z r.queue = false) : SoundZone e.img (acceptOrder e r z).1 := by
  have hr : (fixButt e r).queue = r.queue := by
    unfold fixButt; split
    · split
      · split
        · rfl
        · split <;> rfl
      · split <;> rfl
    · rfl
  unfold acceptOrder; simp only
  rw [hr]
  have hroom : (ordersOf z r.queue).length < capacity e r.queue := by simpa [queueFull] using hq
  have h1 : ∀ (o : Order) (t : Transfer), t.ordersP = z.transfer.ordersP → t.ordersO = z.transfer.ordersO → t.heldP = z.transfer.heldP → t.heldO = z.transfer.heldO → t.notices = z.transfer.notices →
      SoundZone e.img (setOrders r.queue (ordersOf { z with transfer := t } r.queue ++ [o]) { z with transfer := t }) := by
    intro o t a b c d f
    have h2 := transferSame_keeps h a b c d f
    revert hroom
    cases r.queue <;> intro hroom
    · refine sound_of_transfer h2 ⟨?_, h2.transfer.o, h2.transfer.hp, h2.transfer.ho, h2.transfer.n⟩
      simp only [ordersOf, capacity] at hroom ⊢; rw [a]; simp; omega
    · refine sound_of_transfer h2 ⟨h2.transfer.p, ?_, h2.transfer.hp, h2.transfer.ho, h2.transfer.n⟩
      simp only [ordersOf, capacity, Config.orderSlots] at hroom ⊢; rw [b]; simp; omega
  exact ite_keeps (push_keeps (h1 _ _ rfl rfl rfl rfl rfl)) (h1 _ _ rfl rfl rfl rfl rfl)

theorem endShipReservation_keeps {i e r z} (h : SoundZone i z) : SoundZone i (endShipReservation e r z) := by
  unfold endShipReservation; split
  · exact offer_keeps (release_keeps h)
  · exact h

theorem setRetry_keeps {i e v z} (h : SoundZone i z) : SoundZone i (setRetry e v z) :=
  sound_of_supply h ⟨h.supply.c, h.supply.o, Tbl.sorted_set _ _ _ h.supply.r, h.supply.n⟩

theorem requestDropped_keeps {i e r z} (h : SoundZone i z) : SoundZone i (requestDropped e r z) := by
  unfold requestDropped; split
  · split
    · exact endShipReservation_keeps h
    · exact h
  · split
    · simp only; split
      · exact push_keeps (release_keeps h)
      · exact push_keeps h
    · exact h
  all_goals first
    | exact h
    | (simp only
       have h1 : SoundZone i (match r.callRef with | some ref => z.push (.loadFailed ref.call 0 r.serial) | none => z) := by
         split
         · exact push_keeps h
         · exact h
       split
       · exact setRetry_keeps h1
       · exact h1)

theorem requestOrder_keeps {e r z} (h : SoundZone e.img z) : SoundZone e.img (requestOrder e r z) := by
  unfold requestOrder; split
  · exact requestDropped_keeps (bumpOverrun_keeps h)
  · split
    · split
      · rename_i hc; refine setHeld_keeps h ?_
        simp only [Config.heldRequests] at hc; simp; omega
      · exact requestDropped_keeps h
    · rename_i hq; exact acceptOrder_keeps h (by simpa using hq)

theorem held_len {i z q} (h : SoundZone i z) : (heldOf z q).length ≤ 32 := by
  cases q
  · exact h.transfer.hp
  · exact h.transfer.ho

theorem invite_keeps {e q z} (h : SoundZone e.img z) : SoundZone e.img (invite e q z) := by
  unfold invite; split
  · exact h
  · rename_i r rest hl
    have := held_len (q := q) h; rw [hl] at this
    exact requestOrder_keeps (setHeld_keeps h (by simp at this; omega))

theorem command_keeps {i m p z} (h : SoundZone i z) : SoundZone i (command m p z) := transferSame_keeps h rfl rfl rfl rfl rfl

theorem withdrawCommand_keeps {i z} (h : SoundZone i z) : SoundZone i (withdrawCommand z) := transferSame_keeps h rfl rfl rfl rfl rfl

theorem setCarriage_keeps {i c z} (h : SoundZone i z) : SoundZone i (setCarriage c z) := transferSame_keeps h rfl rfl rfl rfl rfl

theorem beginStep_keeps {i e n s z} (h : SoundZone i z) : SoundZone i (beginStep e n s z) := modOrder_keeps h

theorem beginTravel_keeps {i e o z} (h : SoundZone i z) : SoundZone i (beginTravel e o z) := command_keeps (beginStep_keeps h)

theorem hold_keeps {i e o p z} (h : SoundZone i z) : SoundZone i (hold e o p z) := by
  unfold hold; split
  · exact h
  · simp only; split
    · exact setNotice_keeps (modOrder_keeps h)
    · exact modOrder_keeps h

theorem removeOrder_keeps {i o z} (h : SoundZone i z) : SoundZone i (removeOrder o z) := by
  unfold removeOrder
  exact push_keeps (by
    have h1 := filterOrders_keeps (q := o.req.queue) (p := fun x => decide (x.number ≠ o.number)) (clearHold_keeps (n := o.number) h)
    have h2 : ordersOf (clearHold o.number z) o.req.queue = ordersOf z o.req.queue := by cases o.req.queue <;> rfl
    rw [h2] at h1; exact h1)

theorem releaseServed_keeps {i o g z} (h : SoundZone i z) : SoundZone i (releaseServed o g z) := by
  unfold releaseServed; split
  · split
    · split
      · exact h
      · exact release_keeps h
    · exact h
  · exact h

theorem releaseShip_keeps {i e o g t z} (h : SoundZone i z) : SoundZone i (releaseShip e o g t z) := by
  unfold releaseShip; split
  · split
    · split
      · exact h
      · split
        · exact endShipReservation_keeps h
        · exact release_keeps h
    · exact h
  · exact h

theorem releaseUnloading_keeps {i e o r g z} (h : SoundZone i z) : SoundZone i (releaseUnloading e o r g z) := by
  unfold releaseUnloading; split
  · split
    · exact h
    · split
      · exact setRetry_keeps h
      · exact push_keeps h
  · split
    · exact h
    · exact push_keeps h
  · exact h

theorem tellLoadFailed_keeps {i o r z} (h : SoundZone i z) : SoundZone i (tellLoadFailed o r z) := by
  unfold tellLoadFailed; split
  all_goals first
    | exact h
    | (split
       · exact h
       · exact push_keeps h)

theorem releaseVehicle_keeps {i v o z} (h : SoundZone i z) : SoundZone i (releaseVehicle v o z) := by
  unfold releaseVehicle; split
  · split
    · exact push_keeps (modVehicle_keeps h (fun _ => rfl))
    · exact h
  · exact h

theorem endFailed_keeps {i e o r g z} (h : SoundZone i z) : SoundZone i (endFailed e o r g z) := by
  unfold endFailed; simp only
  refine tellLoadFailed_keeps (releaseUnloading_keeps ?_)
  have h1 : SoundZone i (modStat o.req.queue (fun s => { s with failed := bump16 s.failed }) (noteEnd o (some r) (removeOrder o z))) :=
    modStat_keeps (noteEnd_keeps (removeOrder_keeps h))
  have h2 : SoundZone i (if o.req.origin = .ship then releaseShip e o g (decide (r ≠ .withdrawn)) (modStat o.req.queue (fun s => { s with failed := bump16 s.failed }) (noteEnd o (some r) (removeOrder o z)))
      else releaseServed o g (modStat o.req.queue (fun s => { s with failed := bump16 s.failed }) (noteEnd o (some r) (removeOrder o z)))) := by
    split
    · exact releaseShip_keeps h1
    · exact releaseServed_keeps h1
  split
  · exact releaseVehicle_keeps h2
  · exact h2

theorem idleCarriage_keeps {i z} (h : SoundZone i z) : SoundZone i (idleCarriage z) := setCarriage_keeps (withdrawCommand_keeps h)

theorem failOrder_keeps {i e o r z} (h : SoundZone i z) : SoundZone i (failOrder e o r z) := by
  unfold failOrder; simp only; split
  · exact endFailed_keeps (idleCarriage_keeps h)
  · exact endFailed_keeps h

theorem failUnderrun_keeps {i e o z} (h : SoundZone i z) : SoundZone i (failUnderrun e o z) := failOrder_keeps (raise_keeps h)

theorem flagUnderrun_keeps {i p z} (h : SoundZone i z) : SoundZone i (flagUnderrun p z) := by
  unfold flagUnderrun; split
  · exact modLane_keeps h
  · exact h

theorem flagOverrun_keeps {i p z} (h : SoundZone i z) : SoundZone i (flagOverrun p z) := by
  unfold flagOverrun; split
  · exact modLane_keeps h
  · exact h

theorem beginOrder_keeps {i e o z} (h : SoundZone i z) : SoundZone i (beginOrder e o z) := by
  unfold beginOrder; simp only
  have h1 : SoundZone i (setCarriage (.running o.number) (modOrder o.number (fun o => { o with state := .running, step := 1 }) z)) := setCarriage_keeps (modOrder_keeps h)
  split
  · exact beginTravel_keeps (modOrder_keeps h1)
  · exact failUnderrun_keeps (flagUnderrun_keeps h1)
  · exact failOrder_keeps (bumpOverrun_keeps h1)

theorem waitSource_keeps {i e o z} (h : SoundZone i z) : SoundZone i (waitSource e o z) := by
  unfold waitSource; simp only; split
  · exact command_keeps (beginStep_keeps (clearHold_keeps h))
  · exact failUnderrun_keeps (flagUnderrun_keeps h)
  · exact hold_keeps h

theorem beginLeg2_keeps {i e n d z} (h : SoundZone i z) : SoundZone i (beginLeg2 e n d z) := by
  unfold beginLeg2; split
  · exact command_keeps (beginStep_keeps (modOrder_keeps h))
  · exact beginStep_keeps (modOrder_keeps (withdrawCommand_keeps h))

theorem redirectOrder_keeps {i e o z} (h : SoundZone i z) : SoundZone i (redirectOrder e o z) := beginLeg2_keeps (modOrder_keeps (clearHold_keeps h))

theorem beginSet_keeps {i e o p z} (h : SoundZone i z) : SoundZone i (beginSet e o p z) := command_keeps (beginStep_keeps (modOrder_keeps (clearHold_keeps h)))

theorem raiseOverrun_keeps {i e o p z} (h : SoundZone i z) : SoundZone i (raiseOverrun e o p z) := by
  unfold raiseOverrun; split
  · exact h
  · exact modOrder_keeps (raise_keeps h)

theorem waitTarget_keeps {i e o p z} (h : SoundZone i z) : SoundZone i (waitTarget e o p z) := by
  unfold waitTarget; refine ite_keeps ?_ ?_
  · refine redirectOrder_keeps ?_; split
    · exact push_keeps h
    · exact h
  · split
    · exact beginSet_keeps h
    · exact hold_keeps (raiseOverrun_keeps (flagOverrun_keeps h))
    · exact hold_keeps h

theorem waitDest_keeps {i e o z} (h : SoundZone i z) : SoundZone i (waitDest e o z) := by
  unfold waitDest; split
  · exact waitTarget_keeps h
  · split
    · exact beginLeg2_keeps (clearHold_keeps h)
    · exact hold_keeps h

theorem wait_keeps {i e o z} (h : SoundZone i z) : SoundZone i (wait e o z) := by
  unfold wait; split
  · exact waitSource_keeps h
  · split
    · exact waitDest_keeps h
    · exact h

theorem failRobbed_keeps {i e n s z} (h : SoundZone i z) : SoundZone i (failRobbed e n s z) := by
  unfold failRobbed; split
  · exact h
  · exact foldl_keeps h (fun z x _ hz => failUnderrun_keeps hz)

theorem sourceLeft_keeps {i e o z} (h : SoundZone i z) : SoundZone i (sourceLeft e o z) := by
  unfold sourceLeft; split
  · split
    · exact laneLeft_keeps (shiftLane_keeps h)
    · exact laneLeft_keeps h
  · exact recordLeft_keeps h
  · split
    · exact push_keeps (modVehicle_keeps h (fun _ => rfl))
    · exact h
  · exact h

theorem pickCompleted_keeps {i e o z} (h : SoundZone i z) : SoundZone i (pickCompleted e o z) := by
  unfold pickCompleted; split
  · exact failUnderrun_keeps h
  · simp only
    rename_i src _
    have h1 := moveRoll_keeps (e := e) (src := src) (dst := .carriage) (s := o.serial) (f := fun r => { r with state := .inTransfer }) h (fun _ => rfl)
    split
    · split
      · exact beginLeg2_keeps (sourceLeft_keeps (modOrder_keeps h1))
      · exact beginLeg2_keeps (sourceLeft_keeps (failRobbed_keeps (modOrder_keeps h1)))
    · exact failUnderrun_keeps h1

theorem releaseCarried_keeps {i z} (h : SoundZone i z) : SoundZone i (releaseCarried z) := release_keeps h

theorem setReleased_keeps {i e o p f z} (h : SoundZone i z) (hf : ∀ r : Roll, (f r).serial = r.serial) : SoundZone i (setReleased e o p f z).1 := by
  unfold setReleased; simp only
  have h1 := moveRoll_keeps (e := e) (src := .carriage) (dst := p) (s := o.serial) (f := fun r => f { r with reservation := none }) h (fun r => by rw [hf])
  split
  · simp only; split
    · exact push_keeps h1
    · exact h1
  · exact h1

theorem setIntoLane_keeps {i e o l p z} (h : SoundZone i z) : SoundZone i (setIntoLane e o l p z).1 := by
  unfold setIntoLane; simp only
  have h1 : SoundZone i (if o.req.origin = .operator ∨ o.req.origin = .buttClear then moveRoll e .carriage p o.serial (fun r => { r with state := laneState e l r }) z
      else setReleased e o p (fun r => { r with state := laneState e l r }) z).1 := by
    split
    · exact moveRoll_keeps h (fun _ => rfl)
    · exact setReleased_keeps h (fun _ => rfl)
  split
  · exact laneEntered_keeps h1
  · exact h1

theorem startVehicle_keeps {i e s p z} (h : SoundZone i z) : SoundZone i (startVehicle e s p z) := setPurpose_keeps (modVehicle_keeps h (fun _ => rfl))

theorem setDown_keeps {i e o p z} (h : SoundZone i z) : SoundZone i (setDown e o p z).1 := by
  unfold setDown; split
  · exact setIntoLane_keeps h
  · simp only
    rename_i r x
    have h1 := setReleased_keeps (e := e) (o := o) (p := .arm r x) (f := fun y => { y with state := .standby }) h (fun _ => rfl)
    split
    · exact rollSet_keeps h1
    · exact h1
  · split
    · exact erase_keeps (releaseCarried_keeps h)
    · split
      · simp only
        rename_i s _
        have h1 := setReleased_keeps (e := e) (o := o) (p := .vehicle s) (f := fun y => { y with state := .shipping }) h (fun _ => rfl)
        split
        · exact startVehicle_keeps h1
        · exact h1
      · exact erase_keeps (releaseCarried_keeps h)
  · exact h

theorem tellLoadDone_keeps {i o z} (h : SoundZone i z) : SoundZone i (tellLoadDone o z) := by
  unfold tellLoadDone; split
  all_goals first | exact h | exact push_keeps h

theorem endDone_keeps {i o z} (h : SoundZone i z) : SoundZone i (endDone o z) := tellLoadDone_keeps (idleCarriage_keeps (modStat_keeps (noteEnd_keeps (removeOrder_keeps h))))

theorem setCompleted_keeps {i e o z} (h : SoundZone i z) : SoundZone i (setCompleted e o z) := by
  unfold setCompleted; split
  · exact h
  · simp only; split
    · exact erase_keeps (releaseCarried_keeps (failOrder_keeps (setDown_keeps h)))
    · exact endDone_keeps (setDown_keeps h)

theorem carriageDone_keeps {i e z} (h : SoundZone i z) : SoundZone i (carriageDone e z) := by
  unfold carriageDone; split
  · exact h
  · simp only
    have h1 := withdrawCommand_keeps h
    split
    · exact beginStep_keeps h1
    · exact pickCompleted_keeps h1
    · exact beginStep_keeps h1
    · exact setCompleted_keeps h1
    · exact h1

theorem limitExpired_keeps {i e o r c l z} (h : SoundZone i z) : SoundZone i (limitExpired e o r c l z) := by
  unfold limitExpired; split
  · exact endFailed_keeps (raise_keeps (setCarriage_keeps (withdrawCommand_keeps h)))
  · exact failOrder_keeps (raise_keeps h)

theorem dropGripped_keeps {i e z} (h : SoundZone i z) : SoundZone i (dropGripped e z) := raise_keeps (erase_keeps (releaseCarried_keeps h))

theorem loadFromHalt_keeps {i e s v z} (h : SoundZone i z) : SoundZone i (loadFromHalt e s v z) := by
  unfold loadFromHalt; simp only; split
  · exact startVehicle_keeps (push_keeps (modOrder_keeps h))
  · exact startVehicle_keeps h

theorem placeGripped_keeps {i e p z} (h : SoundZone i z) : SoundZone i (placeGripped e p z) := by
  unfold placeGripped; simp only
  have h1 : ∀ (p : Place) (f : Roll → Roll), (∀ r, (f r).serial = r.serial) → SoundZone i (moveRoll e .carriage p (grippedSerial z) f (releaseCarried z)).1 :=
    fun p f hf => moveRoll_keeps (releaseCarried_keeps h) hf
  split
  · split
    · exact laneEntered_keeps (h1 _ _ (fun _ => rfl))
    · exact dropGripped_keeps h
  · split
    · exact rollSet_keeps (h1 _ _ (fun _ => rfl))
    · exact dropGripped_keeps h
  · split
    · exact erase_keeps (releaseCarried_keeps h)
    · split
      · split
        · exact loadFromHalt_keeps (h1 _ _ (fun _ => rfl))
        · exact dropGripped_keeps h
      · exact dropGripped_keeps h
  · exact dropGripped_keeps h

theorem haltedGone_keeps {i e o b z} (h : SoundZone i z) : SoundZone i (haltedGone e o b z) := by
  unfold haltedGone; split
  · exact offer_keeps h
  · exact h

theorem endHalted_keeps {i e z} (h : SoundZone i z) : SoundZone i (endHalted e z) := by
  unfold endHalted; split
  · split
    · exact haltedGone_keeps (setCarriage_keeps (placeGripped_keeps h))
    · exact h
  · exact h

theorem cancelForLane_keeps {i e l z} (h : SoundZone i z) : SoundZone i (cancelForLane e l z) := foldl_keeps h (fun z o _ hz => failOrder_keeps hz)

theorem filterHeld_keeps {i} {z : Zone} {p : OrderReq → Bool} (h : SoundZone i z) : SoundZone i { z with transfer := { z.transfer with heldP := z.transfer.heldP.filter p, heldO := z.transfer.heldO.filter p } } :=
  sound_of_transfer h ⟨h.transfer.p, h.transfer.o, le_trans (List.length_filter_le _ _) h.transfer.hp, le_trans (List.length_filter_le _ _) h.transfer.ho, h.transfer.n⟩

theorem cancelShip_keeps {i e s c z} (h : SoundZone i z) : SoundZone i (cancelShip e s c z) := by
  unfold cancelShip; simp only; split
  · split
    · exact filterHeld_keeps h
    · exact failOrder_keeps (filterHeld_keeps h)
  · exact filterHeld_keeps h

theorem endLoadOrder_keeps {i e c z} (h : SoundZone i z) : SoundZone i (endLoadOrder e c z) := by
  unfold endLoadOrder; simp only
  have h1 := foldl_keeps (f := fun z v => Zone.push z (Task.unload v)) (l := ((z.transfer.heldP ++ z.transfer.heldO).filter (fun (r : OrderReq) =>
    (decide (r.origin = .localLoad) || decide (r.origin = .callLoad) || decide (r.origin = .receive)) &&
      r.callRef.any fun ref => decide (ref.station = e.own) && decide (ref.call = c))).filterMap OrderReq.vehicle)
    (filterHeld_keeps (p := fun r => !(((decide (r.origin = .localLoad) || decide (r.origin = .callLoad) || decide (r.origin = .receive)) &&
      r.callRef.any fun ref => decide (ref.station = e.own) && decide (ref.call = c)))) h) (fun z v _ hz => push_keeps hz)
  split
  · exact h1
  · split
    · exact failOrder_keeps h1
    · split
      · exact redirectOrder_keeps h1
      · exact modOrder_keeps h1

theorem resumeOrder_keeps {i e o z} (h : SoundZone i z) : SoundZone i (resumeOrder e o z) := by
  unfold resumeOrder; split
  · exact beginOrder_keeps h
  · simp only
    have h1 : SoundZone i (setCarriage (.running o.number) (modOrder o.number (fun o => { o with state := .running }) z)) := setCarriage_keeps (modOrder_keeps h)
    split
    · exact beginTravel_keeps h1
    · split
      · exact failUnderrun_keeps (flagUnderrun_keeps h1)
      · exact failUnderrun_keeps h1

theorem select_keeps {i e z} (h : SoundZone i z) : SoundZone i (select e z) := by
  unfold select; split
  · exact beginOrder_keeps h
  · split
    · exact resumeOrder_keeps h
    · split
      · exact beginOrder_keeps h
      · exact h

theorem preempt_keeps {i e r p z} (h : SoundZone i z) : SoundZone i (preempt e r p z) := beginOrder_keeps (withdrawCommand_keeps (modOrder_keeps (clearHold_keeps h)))

theorem house_keeps {i e z} (h : SoundZone i z) : SoundZone i (house e z) := by
  unfold house; simp only
  have h1 := refreshTriggers_keeps (e := e) h
  split
  · exact h1
  · exact select_keeps h1
  · split
    · exact h1
    · split
      · split
        · exact preempt_keeps h1
        · exact wait_keeps h1
      · exact wait_keeps h1

theorem orderRequested_keeps {e q s a b z} (h : SoundZone e.img z) : SoundZone e.img (orderRequested e q s a b z).1 := by
  unfold orderRequested; split
  · simp only; split
    · exact bumpOverrun_keeps h
    · exact h
  · exact h
  · rename_i hn
    show SoundZone e.img (acceptOrder e (operatorRequest q s a b) z).1
    refine acceptOrder_keeps h ?_
    show queueFull e z q = false
    unfold operatorRefusal at hn
    split at hn; · cases hn
    split at hn; · cases hn
    split at hn; · cases hn
    split at hn; · cases hn
    split at hn; · cases hn
    rename_i hq; simpa using hq

theorem restartTransfer_keeps {i z} (h : SoundZone i z) : SoundZone i (restartTransfer z) :=
  sound_of_transfer h ⟨Nat.zero_le _, Nat.zero_le _, Nat.zero_le _, Nat.zero_le _, Tbl.sorted_map z.transfer.notices _ h.transfer.n⟩

theorem recreateOrders_keeps {e z} (h : SoundZone e.img z) : SoundZone e.img (recreateOrders e z) := foldl_keeps h (fun z r _ hz => requestOrder_keeps hz)

theorem capture_keeps {i e s v o z} (h : SoundZone i z) : SoundZone i (capture e s v o z) := setPurpose_keeps (modVehicle_keeps (modOrder_keeps h) (fun _ => rfl))

theorem offerVehicle_keeps {i e v w z} (h : SoundZone i z) : SoundZone i (offerVehicle e v w z) := by
  unfold offerVehicle; split
  · exact h
  · split
    · exact h
    · split
      · exact capture_keeps h
      · split
        · exact setPurpose_keeps h
        · exact setPurpose_keeps h
        · exact h

theorem assignVehicle_keeps {i e n z} (h : SoundZone i z) : SoundZone i (assignVehicle e n z) := by
  unfold assignVehicle; split
  · exact h
  · split
    · exact capture_keeps h
    · exact h

theorem moveHere_keeps {i e s k v z} (h : SoundZone i z) : SoundZone i (moveHere e s k v z) := by
  unfold moveHere; simp only
  exact routeAndGo_keeps (modVehicle_keeps (setSegState_keeps (foldl_keeps (withdrawGrant_keeps (leaveWaits_keeps h)) (fun z c _ hz => setPermit_keeps hz))) (fun v => by simp))

theorem adopt_keeps {i e s k t z} (h : SoundZone i z) (hs : freeVehicleSlot z = some s) (ho : findVehicle z t = none) : SoundZone i (adopt e s k t z) := by
  unfold adopt; simp only
  exact push_keeps (setSegState_keeps (sound_of_track h (soundTrack_new h.track (free_slot hs) (find_none ho))))

theorem redirect_keeps {i e s v z} (h : SoundZone i z) : SoundZone i (redirect e s v z) := by
  unfold redirect; simp only
  have h1 : SoundZone i (modVehicle s (fun v => { v with state := .held }) z) := modVehicle_keeps h (fun _ => rfl)
  split
  · exact setPurpose_keeps h1
  · have h2 : SoundZone i (modVehicle s (fun v => { v with home := e.own, order := none }) (match v.order with
      | some n => modOrder n (fun o => { o with vehicle := none }) (modVehicle s (fun v => { v with state := .held }) z)
      | none => modVehicle s (fun v => { v with state := .held }) z)) := by
      refine modVehicle_keeps ?_ (fun _ => rfl)
      split
      · exact modOrder_keeps h1
      · exact h1
    split
    · exact capture_keeps h2
    · exact setPurpose_keeps h2

theorem takeInHere_keeps {i e s k v z} (h : SoundZone i z) : SoundZone i (takeInHere e s k v z) := by
  unfold takeInHere; simp only; split
  · split
    · exact freeSegment_keeps (arriveIncoming_keeps h)
    · exact arriveIncoming_keeps h
  · exact arriveIncoming_keeps h

theorem releaseBlocked_keeps {i e k z} (h : SoundZone i z) : SoundZone i (releaseBlocked e k z).1 := by
  unfold releaseBlocked; split
  · simp only; split
    · split
      · exact takeInHere_keeps h
      · split
        · exact h
        · exact moveHere_keeps h
    · rename_i hf; split
      · rename_i hs; split
        · exact adopt_keeps h hs hf
        · exact h
      · exact h
  · split
    · exact setSegState_keeps h
    · exact freeSegment_keeps h

end Sys2Proof.Machine
end

