-- ==== Sys2Proof/Laws/TablesSupply.lean ====
section
/-! SUPPORT. Laws: the operations of calls, and the serving of the requests of an event, keep the tables sound. -/

namespace Sys2Proof.Machine

theorem setCall_keeps {i c z} (h : SoundZone i z) (hc : c.offers.length ≤ 6) : SoundZone i (setCall c z) :=
  sound_of_supply h ⟨Tbl.sorted_set _ _ _ h.supply.c, Tbl.all_set_of h.supply.c h.supply.o (by simpa using hc), h.supply.r, h.supply.n⟩

theorem freeCall_keeps {i n z} (h : SoundZone i z) : SoundZone i (freeCall n z) :=
  sound_of_supply h ⟨Tbl.sorted_erase _ _ h.supply.c, all_sub (Tbl.erase_sub _ _) h.supply.o, h.supply.r, h.supply.n⟩

theorem call_len {i z} {n : Need} {c : Call} (h : SoundZone i z) (hc : call? z n = some c) : c.offers.length ≤ 6 := by
  have := (Tbl.all_iff h.supply.c _).mp h.supply.o n.key c hc; simpa using this

theorem numbered_len {i z n} {c : Call} (h : SoundZone i z) (hc : callNumbered z n = some c) : c.offers.length ≤ 6 := by
  unfold callNumbered at hc
  obtain ⟨x, hx, rfl⟩ := Option.map_eq_some_iff.mp hc
  have := List.all_eq_true.mp h.supply.o x (List.mem_of_find?_eq_some hx); simpa using this

theorem enterNoStock_keeps {i e c z} (h : SoundZone i z) : SoundZone i (enterNoStock e c z) := raise_keeps (setCall_keeps h (by simp))

theorem broadcast_keeps {i e c z} (h : SoundZone i z) (hc : c.offers.length ≤ 6) : SoundZone i (broadcast e c z) := by
  unfold broadcast; split
  · exact enterNoStock_keeps h
  · exact offer_keeps (setCall_keeps h hc)

theorem issue_keeps {i e c z} (h : SoundZone i z) (hc : c.offers.length ≤ 6) : SoundZone i (issue e c z) := by
  unfold issue; split
  · split
    · exact push_keeps (setCall_keeps (reserve_keeps h) hc)
    · exact broadcast_keeps h hc
  · exact broadcast_keeps h hc

theorem nextCall_keeps {i n} {z : Zone} (h : SoundZone i z) : SoundZone i { z with supply := { z.supply with nextCall := n } } :=
  sound_of_supply h ⟨h.supply.c, h.supply.o, h.supply.r, h.supply.n⟩

theorem issueNew_keeps {i e n s z} (h : SoundZone i z) : SoundZone i (issueNew e n s z) := by
  unfold issueNew; exact issue_keeps (setCall_keeps (nextCall_keeps h) (by simp)) (by simp)

theorem raiseUnidentified_keeps {i e r z} (h : SoundZone i z) : SoundZone i (raiseUnidentified e r z) := by
  unfold raiseUnidentified; split
  · exact h
  · exact raise_keeps (sound_of_supply h ⟨h.supply.c, h.supply.o, h.supply.r, Tbl.sorted_set _ _ _ h.supply.n⟩)

theorem askCall_keeps {i e n z} (h : SoundZone i z) : SoundZone i (askCall e n z) := by
  unfold askCall; split
  · exact h
  · split
    · exact issueNew_keeps h
    · split
      · exact raiseUnidentified_keeps h
      · exact h

theorem reissueOrFree_keeps {i e c z} (h : SoundZone i z) : SoundZone i (reissueOrFree e c z) := by
  unfold reissueOrFree; split
  · exact issueNew_keeps h
  · exact freeCall_keeps h

theorem insert_len (o : Offer) (l : List Offer) : (insertOffer o l).length = l.length + 1 := by
  induction l with
  | nil => rfl
  | cons a t ih => simp only [insertOffer]; split <;> simp [ih]

theorem takeOffer_len {c : Call} {o : Offer} (hc : c.offers.length ≤ 6) : (c.takeOffer o).offers.length ≤ 6 := by
  unfold Call.takeOffer; split
  · exact hc
  · split
    · rename_i h; simp only [Config.callOffers] at h; simp [insert_len]; omega
    · split
      · rename_i w hw; split
        · have hm : w ∈ c.offers := by
            unfold worstOffer at hw
            exact List.mem_of_mem_filter (List.mem_of_getLast? hw)
          have : (c.offers.filter (· ≠ w)).length < c.offers.length := by
            apply List.length_filter_lt_length_iff_exists.mpr
            exact ⟨w, hm, by simp⟩
          simp only [insert_len]; omega
        · exact hc
      · exact hc

theorem takeBest_keeps {i e c z} (h : SoundZone i z) (hc : c.offers.length ≤ 6) : SoundZone i (takeBest e c z) := by
  unfold takeBest; split
  · exact enterNoStock_keeps h
  · exact offer_keeps (setCall_keeps h hc)

theorem dropChosen_keeps {i e c z} (h : SoundZone i z) (hc : c.offers.length ≤ 6) : SoundZone i (dropChosen e c z) :=
  takeBest_keeps h (le_trans (List.length_filter_le _ _) hc)

theorem answerTaken_keeps {i e s c x b z} (h : SoundZone i z) : SoundZone i (answerTaken e s c x b z) := by
  unfold answerTaken; simp only; split
  · rename_i d hd; split
    · have := numbered_len h (Option.filter_eq_some_iff.mp hd).1
      exact setCall_keeps h this
    · exact h
  · rename_i d hd; exact dropChosen_keeps h (numbered_len h (Option.filter_eq_some_iff.mp hd).1)
  · exact offer_keeps h
  · exact h

theorem sendWithdraw_keeps {i e c z} (h : SoundZone i z) (hc : c.offers.length ≤ 6) : SoundZone i (sendWithdraw e c z) := by
  unfold sendWithdraw; split
  · exact offer_keeps (setCall_keeps h hc)
  · exact freeCall_keeps h

theorem releaseOwn_keeps {i e c z} (h : SoundZone i z) : SoundZone i (releaseOwn e c z) := by
  unfold releaseOwn; split
  · exact release_keeps h
  · exact h

theorem withdrawCall_keeps {i e n z} (h : SoundZone i z) : SoundZone i (withdrawCall e n z) := by
  unfold withdrawCall; split
  · exact h
  · rename_i c hc; split
    · exact freeCall_keeps (endLoadOrder_keeps (releaseOwn_keeps h))
    · exact freeCall_keeps (withdrawWaiting_keeps h)
    · split
      · exact sendWithdraw_keeps h (call_len h hc)
      · exact freeCall_keeps (withdrawWaiting_keeps h)
    · exact sendWithdraw_keeps h (call_len h hc)
    · exact freeCall_keeps (endLoadOrder_keeps h)
    · exact freeCall_keeps h
    · exact h

theorem withdrawRunouts_keeps {i z} (h : SoundZone i z) : SoundZone i (withdrawRunouts z) := foldl_keeps h (fun z c _ hz => push_keeps hz)

theorem withdrawAll_keeps {i e z} (h : SoundZone i z) : SoundZone i (withdrawAll e z) := foldl_keeps h (fun z c _ hz => by
  split
  · exact freeCall_keeps hz
  · exact withdrawCall_keeps hz)

theorem delivered_len {i e z v} {c : Call} (h : SoundZone i z) (hc : deliveredCall e z v = some c) : c.offers.length ≤ 6 := by
  unfold deliveredCall at hc; split at hc
  · split at hc
    · exact numbered_len h (Option.filter_eq_some_iff.mp hc).1
    · cases hc
  · cases hc

theorem unload_keeps {i e v z} (h : SoundZone i z) : SoundZone i (unload e v z) := by
  unfold unload; split
  · split
    · simp only
      have h1 : SoundZone i { z with supply := { z.supply with retries := z.supply.retries.erase v } } :=
        sound_of_supply h ⟨h.supply.c, h.supply.o, Tbl.sorted_erase _ _ h.supply.r, h.supply.n⟩
      split
      · rename_i c hc; exact push_keeps (setCall_keeps h1 (by simpa using delivered_len h1 hc))
      · exact push_keeps h1
    · exact h
  · exact h

theorem loadDone_keeps {i n z} (h : SoundZone i z) : SoundZone i (loadDone n z) := by
  unfold loadDone; split
  · exact freeCall_keeps h
  · exact h

theorem loadFailed_keeps {i e n o s z} (h : SoundZone i z) : SoundZone i (loadFailed e n o s z) := by
  unfold loadFailed; split
  · exact reissueOrFree_keeps (raise_keeps h)
  · exact h

theorem loadRedirected_keeps {i e n z} (h : SoundZone i z) : SoundZone i (loadRedirected e n z) := by
  unfold loadRedirected; split
  · exact reissueOrFree_keeps h
  · exact h

theorem answerRollCall_keeps {i e a b c d f z} (h : SoundZone i z) : SoundZone i (answerRollCall e a b c d f z) := by
  unfold answerRollCall; split
  · split
    · exact offer_keeps h
    · exact h
  · exact h

theorem takeRoll_keeps {i e a b c d f z} (h : SoundZone i z) : SoundZone i (takeRoll e a b c d f z) := by
  unfold takeRoll; split
  · split
    · exact push_keeps (offer_keeps (reserve_keeps h))
    · exact offer_keeps h
  · exact offer_keeps h

theorem withdrawReservation_keeps {i e a b z} (h : SoundZone i z) : SoundZone i (withdrawReservation e a b z) := by
  unfold withdrawReservation; split
  · exact cancelShip_keeps (release_keeps h)
  · exact h

theorem reconfirm_keeps {i e z} (h : SoundZone i z) : SoundZone i (reconfirm e z) := foldl_keeps h (fun z c _ hz => by
  split
  · split
    · exact offer_keeps hz
    · exact hz
  · exact hz)

theorem runTask_keeps {e t z} (h : SoundZone e.img z) : SoundZone e.img (runTask e t z) := by
  cases t
  · exact restockCheck_keeps h
  · exact askCall_keeps h
  · exact withdrawCall_keeps h
  · exact loadDone_keeps h
  · exact loadFailed_keeps h
  · exact loadRedirected_keeps h
  · exact requestOrder_keeps h
  · exact invite_keeps h
  · exact assignVehicle_keeps h
  · exact offerVehicle_keeps h
  · exact unload_keeps h

theorem agenda_keeps {i l} {z : Zone} (h : SoundZone i z) : SoundZone i { z with agenda := l } := by
  obtain ⟨h1, h2, h3, h4, h5, h6, h7, h8, h9⟩ := h; exact ⟨h1, h2, h3, h4, h5, h6, h7, h8, h9⟩

theorem settle_keeps {e n z} (h : SoundZone e.img z) : SoundZone e.img (settle e n z) := by
  induction n generalizing z with
  | zero => exact h
  | succ n ih =>
    unfold settle; split
    · exact ih (agenda_keeps (runTask_keeps (agenda_keeps h)))
    · simp only; split
      · exact h
      · exact ih (house_keeps h)

theorem finish_keeps {e z} (h : SoundZone e.img z) : SoundZone e.img (finish e z) := by
  unfold finish; split
  · exact watches_keeps (settle_keeps h)
  · exact h

theorem sendAlert_keeps {i e s z} (h : SoundZone i z) : SoundZone i (sendAlert e s z) := offer_keeps (addAlert_keeps h)

theorem raiseAlert_keeps {i e s r b z} (h : SoundZone i z) : SoundZone i (raiseAlert e s r b z) := raise_keeps h

theorem raiseRateHigh_keeps {i e s z} (h : SoundZone i z) : SoundZone i (raiseRateHigh e s z) := by
  unfold raiseRateHigh; split
  · exact raise_keeps h
  · exact h

theorem copyPulse_keeps {i e s z} (h : SoundZone i z) : SoundZone i (copyPulse e s z).2 := by
  unfold copyPulse; simp only
  refine copyWindows_keeps ?_
  have h1 := copyArrivals_keeps (e := e) h
  refine ite_keeps (copyCharge_keeps (ite_keeps (raiseRateHigh_keeps h1) h1)) (ite_keeps (raiseRateHigh_keeps h1) h1)

theorem countBreak_keeps {i e r z} (h : SoundZone i z) : SoundZone i (countBreak e r z).1 := by
  unfold countBreak; split
  · exact h
  · simp only
    rename_i x _
    have h1 := writeRoll_keeps (e := e) (p := .arm r x) (s := armSerial z r x) (f := (·.broke e.img.lotThreshold)) h (fun _ => rfl)
    split
    · exact h1
    · split
      · split
        · exact raiseAlert_keeps (sendAlert_keeps h1)
        · exact raiseAlert_keeps h1
      · exact h1

theorem identifiedAlert_keeps {i e s r b z} (h : SoundZone i z) : SoundZone i (identifiedAlert e s r b z) := raiseAlert_keeps (sendAlert_keeps h)

end Sys2Proof.Machine
end

