-- ==== Sys2Proof/Laws/TablesEvents.lean ====
section
/-! SUPPORT. Laws: the effects of inputs, times and frames on the zone, the warm restart and the entering of ACTIVE keep the tables sound. -/

namespace Sys2Proof.Machine

theorem segmentReleased_keeps {i e k z} (h : SoundZone i z) : SoundZone i (segmentReleased e k z).1 := by
  unfold segmentReleased; split
  · exact h
  · exact releaseBlocked_keeps h
  · split
    · exact redirect_keeps h
    · split
      · split
        · exact h
        · exact deletePassed_keeps h
      · exact h

theorem numbers_map {t : Tbl Vehicle} {f : Nat × Vehicle → Vehicle} (hf : ∀ x, (f x).number = x.2.number) (h : numbersApart t = true) :
    numbersApart (t.map fun x => (x.1, f x)) = true := by
  unfold numbersApart at h ⊢
  rw [List.all_eq_true] at h ⊢
  intro x hx; obtain ⟨a, ha, rfl⟩ := List.mem_map.mp hx
  rw [List.all_eq_true]; intro y hy; obtain ⟨b, hb, rfl⟩ := List.mem_map.mp hy
  have := List.all_eq_true.mp (h a ha) b hb
  simpa [hf] using this

theorem slots_map {t : Tbl Vehicle} {f : Nat × Vehicle → Vehicle} (h : t.all (fun v => 1 ≤ v.1 && v.1 ≤ 8) = true) :
    List.all (t.map fun x => (x.1, f x)) (fun v => 1 ≤ v.1 && v.1 ≤ 8) = true := by
  rw [List.all_eq_true] at h ⊢; intro x hx; obtain ⟨a, ha, rfl⟩ := List.mem_map.mp hx; exact h a ha

theorem restartTrack_keeps {i z} (h : SoundZone i z) : SoundZone i (restartTrack z) := by
  unfold restartTrack; simp only
  refine sound_of_track h ⟨?_, h.track.p, Tbl.sorted_map z.track.vehicles _ h.track.v, ?_, Nat.zero_le _, slots_map h.track.n, numbers_map (fun x => ?_) h.track.a⟩
  · exact Tbl.sorted_map _ _ (Tbl.sorted_map z.track.segments _ h.track.s)
  · have := h.track.w; rw [List.all_eq_true] at this ⊢
    intro x hx; obtain ⟨a, ha, rfl⟩ := List.mem_map.mp hx; obtain ⟨b, hb, rfl⟩ := List.mem_map.mp ha
    have h1 := this b hb; simp only [decide_eq_true_eq] at h1 ⊢
    exact le_trans (List.length_filter_le _ _) h1
  · split <;> rfl

theorem dockFalls_keeps {i e d z} (h : SoundZone i z) : SoundZone i (dockFalls e d z) :=
  sound_of_track h ⟨h.track.s, h.track.p, Tbl.sorted_map z.track.vehicles _ h.track.v, h.track.w, h.track.d, slots_map h.track.n,
    numbers_map (fun x => by split <;> rfl) h.track.a⟩

theorem found_ok {i e k tag z} (h : SoundZone i z) (hn : findVehicle z tag = none) : SoundZone i (foundVehicle e k tag z) := by
  unfold foundVehicle; split
  · exact setSegState_keeps h
  · rename_i s hs
    exact setSegState_keeps (sound_of_track h (soundTrack_new h.track (free_slot hs) (find_none hn)))

theorem found_numbers {e k tag z} {n : Nat} (hs : z.track.vehicles.sorted = true) (h : ∀ j v, z.track.vehicles.get? j = some v → v.number ≠ n) (hn : tag ≠ n) :
    ∀ j v, (foundVehicle e k tag z).track.vehicles.get? j = some v → v.number ≠ n := by
  unfold foundVehicle; split
  · exact h
  · intro j v hv
    change (z.track.vehicles.set _ _).get? j = some v at hv
    rw [Tbl.get?_set] at hv; split at hv
    · cases hv; exact hn
    · exact h j v hv

theorem get_find {z : Zone} {n : Nat} (hs : z.track.vehicles.sorted = true) (h : ∀ j v, z.track.vehicles.get? j = some v → v.number ≠ n) : findVehicle z n = none := by
  unfold findVehicle; rw [List.find?_eq_none]
  rintro ⟨j, v⟩ hx; have := h j v (Tbl.get?_of_mem hs hx); simpa using this

theorem scanFold_keeps {i e} {g : Nat → List Nat} : ∀ (tags : List Nat) (z : Zone), tags.Nodup → SoundZone i z →
    (∀ t ∈ tags, ∀ j v, z.track.vehicles.get? j = some v → v.number ≠ t) →
    SoundZone i (tags.foldl (fun z tag => match g tag with | [k] => foundVehicle e k tag z | _ => z) z) := by
  intro tags; induction tags with
  | nil => intro z _ h _; exact h
  | cons t ts ih =>
    intro z hd h hn
    rw [List.foldl_cons]
    obtain ⟨h1, h2⟩ := List.nodup_cons.mp hd
    refine ih _ h2 ?_ ?_
    · split
      · exact found_ok h (get_find h.track.v (hn t (by simp)))
      · exact h
    · intro u hu
      split
      · exact found_numbers h.track.v (hn u (by simp [hu])) (fun he => h1 (he ▸ hu))
      · exact hn u (by simp [hu])

theorem fold_seg {l : List Nat} {z : Zone} : (l.foldl (fun z k => setSegState k .blocked z) z).track.vehicles = z.track.vehicles := by
  induction l generalizing z with
  | nil => rfl
  | cons x xs ih => rw [List.foldl_cons, ih]; rfl

theorem scanTrack_keeps {i e z} (h : SoundZone i z) : SoundZone i (scanTrack e z) := by
  unfold scanTrack; simp only
  have h0 : SoundZone i { z with track := { z.track with vehicles := [] } } := sound_of_track h ⟨h.track.s, h.track.p, rfl, h.track.w, h.track.d, rfl, rfl⟩
  refine scanFold_keeps _ _ ?_ (foldl_keeps h0 (fun z k _ hz => setSegState_keeps hz)) ?_
  · unfold upTo; exact List.Nodup.map (fun a b h => by simpa using h) List.nodup_range
  · intro t _ j v hv; rw [fold_seg] at hv; cases hv

theorem takeDifference_keeps {i e k z} (h : SoundZone i z) : SoundZone i (takeDifference e k z) := by
  unfold takeDifference; split
  · split
    · split
      · exact h
      · exact tagMismatch_keeps h
    · exact h
    · exact readTag_keeps h
    · exact h
  · exact clearSegment_keeps h

theorem resumeVehicle_keeps {i e s z} (h : SoundZone i z) : SoundZone i (resumeVehicle e s z) := by
  unfold resumeVehicle; split
  · exact h
  · rename_i v hv; simp only
    have hp : ∀ c : Option Nat, SoundZone i (match c with | some c => setPermit c true z | none => z) := by
      intro c; cases c
      · exact h
      · exact setPermit_keeps h
    split
    · exact h
    · exact hp _
    · exact computeRoute_keeps h
    · exact computeRoute_keeps h
    · split
      · exact computeRoute_keeps (ite_keeps h (modVehicle_keeps h (fun _ => rfl)))
      · exact computeRoute_keeps h
    · split
      · exact computeRoute_keeps (modVehicle_keeps (hp _) (fun _ => rfl))
      · exact routeAndGo_keeps h
    · split
      · exact computeRoute_keeps (modVehicle_keeps (hp _) (fun _ => rfl))
      · exact routeAndGo_keeps h

theorem resumeTrack_keeps {i e z} (h : SoundZone i z) : SoundZone i (resumeTrack e z) :=
  foldl_keeps (foldl_keeps h (fun z k _ hz => takeDifference_keeps hz)) (fun z k _ hz => resumeVehicle_keeps hz)

/-! events -/
theorem dockRises_keeps {i e d z} (h : SoundZone i z) : SoundZone i (dockRises e d z) := foldl_keeps h (fun z k _ hz => proceed_keeps hz)

theorem answerTimedOut_keeps {i e v z} (h : SoundZone i z) : SoundZone i (answerTimedOut e v z) := by
  unfold answerTimedOut; split
  · split
    · exact raise_keeps (modVehicle_keeps (strand_keeps h) (fun _ => rfl))
    · exact h
  · exact h

theorem offerRepeated_keeps {i e v z} (h : SoundZone i z) : SoundZone i (offerRepeated e v z) := by
  unfold offerRepeated; split
  · split
    · exact sendPassOffer_keeps (modVehicle_keeps h (fun _ => rfl))
    · exact h
  · exact h

theorem passOverdue_keeps {i e v z} (h : SoundZone i z) : SoundZone i (passOverdue e v z) := by
  unfold passOverdue; split
  · split
    · exact raise_keeps (modVehicle_keeps h (fun _ => rfl))
    · exact h
  · exact h

theorem positionDisagreed_keeps {i e l p z} (h : SoundZone i z) : SoundZone i (positionDisagreed e l p z) := by
  unfold positionDisagreed; simp only; split
  · exact raise_keeps (modLane_keeps (sound_of_stock h ⟨h.stock.r, h.stock.l, h.stock.s, h.stock.w, Tbl.sorted_set _ _ _ h.stock.d, h.stock.a⟩))
  · exact h

theorem restockAt_keeps {i t} {z : Zone} (h : SoundZone i z) : SoundZone i { z with stock := { z.stock with restockAt := t } } :=
  sound_of_stock h ⟨h.stock.r, h.stock.l, h.stock.s, h.stock.w, h.stock.d, h.stock.a⟩

theorem restockPeriod_keeps {i e z} (h : SoundZone i z) : SoundZone i (restockPeriod e z) := by
  unfold restockPeriod; split
  · exact restockCheck_keeps (restockAt_keeps h)
  · exact h

theorem stepLimitDue_keeps {i e z} (h : SoundZone i z) : SoundZone i (stepLimitDue e z) := by
  unfold stepLimitDue; split
  · split
    · exact limitExpired_keeps h
    · exact h
  · exact h

theorem holdLimitDue_keeps {i e z} (h : SoundZone i z) : SoundZone i (holdLimitDue e z) := by
  unfold holdLimitDue; split
  · split
    · exact limitExpired_keeps h
    · exact h
  · exact h

theorem windowEnded_keeps {i e c z} (h : SoundZone i z) : SoundZone i (windowEnded e c z) := by
  unfold windowEnded; split
  · rename_i d hd; split
    · exact takeBest_keeps h (numbered_len h hd)
    · exact h
  · exact h

theorem takeTimedOut_keeps {i e c z} (h : SoundZone i z) : SoundZone i (takeTimedOut e c z) := by
  unfold takeTimedOut; split
  · rename_i d hd; split
    · exact dropChosen_keeps h (numbered_len h hd)
    · exact h
  · exact h

theorem reissueDue_keeps {i e c z} (h : SoundZone i z) : SoundZone i (reissueDue e c z) := by
  unfold reissueDue; split
  · split
    · exact reissueOrFree_keeps h
    · exact h
  · exact h

theorem retryDue_keeps {i e v z} (h : SoundZone i z) : SoundZone i (retryDue e v z) := by
  unfold retryDue; split
  · exact push_keeps (sound_of_supply h ⟨h.supply.c, h.supply.o, Tbl.sorted_erase _ _ h.supply.r, h.supply.n⟩)
  · exact h

theorem armDisagreed_keeps {i e r x z} (h : SoundZone i z) : SoundZone i (armDisagreed e r x z) := by
  unfold armDisagreed; split
  · simp only
    have h1 : SoundZone i { z with splice := { z.splice with watch := z.splice.watch.erase (Place.arm r x).key } } :=
      sound_of_splice h ⟨h.splice.s, Tbl.sorted_erase _ _ h.splice.w⟩
    split
    · split
      · exact armFound_keeps h1
      · exact h1
    · split
      · exact armLost_keeps h1
      · exact h1
  · exact h

theorem matchTimedOut_keeps {i e r z} (h : SoundZone i z) : SoundZone i (matchTimedOut e r z) := by
  unfold matchTimedOut; exact ite_keeps (matchExpired_keeps h) h

theorem pasteTimedOut_keeps {i e r z} (h : SoundZone i z) : SoundZone i (pasteTimedOut e r z) := by
  unfold pasteTimedOut; exact ite_keeps (enterFailed_keeps h) h

theorem knifeFallbackDue_keeps {i e r z} (h : SoundZone i z) : SoundZone i (knifeFallbackDue e r z) := by
  unfold knifeFallbackDue; exact ite_keeps (fireKnife_keeps h) h

theorem knifeTimedOut_keeps {i e r z} (h : SoundZone i z) : SoundZone i (knifeTimedOut e r z) := by
  unfold knifeTimedOut; exact ite_keeps (enterFailed_keeps h) h

/-! frames -/
theorem deferOffer_keeps {i e o z} (h : SoundZone i z) : SoundZone i (deferOffer e o z) := by
  unfold deferOffer; split
  · rename_i hd
    have h1 := nextClaim_keeps h
    refine offer_keeps (sound_of_track h1 ⟨h1.track.s, h1.track.p, h1.track.v, h1.track.w, ?_, h1.track.n, h1.track.a⟩)
    simp only [Config.deferredLength] at hd; simp [nextClaim]; omega
  · exact h

theorem receiveOffer_keeps {i e o z} (h : SoundZone i z) : SoundZone i (receiveOffer e o z) := by
  unfold receiveOffer; split
  · exact h
  · split
    · split
      · exact offer_keeps h
      · split
        · exact offer_keeps h
        · exact deferOffer_keeps h
    · rename_i hf; split
      · exact offer_keeps h
      · split
        · rename_i hs; split
          · exact acceptOffer_keeps h hs hf
          · exact deferOffer_keeps h
        · exact deferOffer_keeps h

theorem acceptAnswered_keeps {i e a b c z} (h : SoundZone i z) : SoundZone i (acceptAnswered e a b c z) := by
  unfold acceptAnswered; split
  · split
    · exact passAccepted_keeps h
    · exact passAccepted_keeps h
    · exact passAccepted_keeps h
    · exact h
  · exact h

theorem deferAnswered_keeps {i e a b c z} (h : SoundZone i z) : SoundZone i (deferAnswered e a b c z) := by
  unfold deferAnswered; split
  · split
    · exact modVehicle_keeps h (fun _ => rfl)
    · exact modVehicle_keeps h (fun _ => rfl)
    · exact modVehicle_keeps h (fun _ => rfl)
    · exact h
  · exact h

theorem passDoneAnswered_keeps {i e a b c z} (h : SoundZone i z) : SoundZone i (passDoneAnswered e a b c z) := by
  unfold passDoneAnswered; split
  · exact ite_keeps (deletePassed_keeps h) h
  · exact h

theorem alertIdentified_keeps {i e o n r z} (h : SoundZone i z) : SoundZone i (alertIdentified e o n r z) := by
  unfold alertIdentified; exact ite_keeps (identifiedAlert_keeps h) h

theorem enterLane_keeps {i e l p n z} (h : SoundZone i z) (hn : findSerial z n.serial = none) : SoundZone i (enterLane e l p n z).1 := by
  unfold enterLane; split
  · split
    · exact alertIdentified_keeps (setNew_keeps h hn)
    · exact h
  · split
    · exact laneEntered_keeps (setNew_keeps h hn)
    · exact h

theorem tellIdentified_keeps {i e r x n z} (h : SoundZone i z) : SoundZone i (tellIdentified e r x n z) := by
  unfold tellIdentified; exact ite_keeps (modWeb_keeps (identifyRunning_keeps h) (fun _ => identified_len)) (identifyRunning_keeps h)

theorem enterArm_keeps {i e r x n z} (h : SoundZone i z) (hn : findSerial z n.serial = none) : SoundZone i (enterArm e r x n z).1 := by
  unfold enterArm; split
  · split
    · exact alertIdentified_keeps (tellIdentified_keeps (setNew_keeps h hn))
    · exact h
  · exact h

theorem enterVehicle_keeps {i e s n z} (h : SoundZone i z) (hn : findSerial z n.serial = none) : SoundZone i (enterVehicle e s n z).1 := by
  unfold enterVehicle; split
  · split
    · exact setPurpose_keeps (modVehicle_keeps (setNew_keeps h hn) (fun _ => rfl))
    · exact h
  · exact h

theorem enterCarriage_keeps {i e n z} (h : SoundZone i z) (hn : findSerial z n.serial = none) : SoundZone i (enterCarriage e n z).1 := by
  unfold enterCarriage; split
  · rename_i r _; split
    · simp only
      have h1 : SoundZone i (setRoll .carriage (r.identify n) z) := setNew_keeps h hn
      refine alertIdentified_keeps ?_
      split
      · exact ite_keeps (modOrder_keeps h1) h1
      · exact h1
    · exact h
  · exact h

theorem rollEntered_keeps {i e c n z} (h : SoundZone i z) : SoundZone i (rollEntered e c n z).1 := by
  unfold rollEntered; split
  · exact h
  · split
    · exact h
    · split
      · exact h
      · rename_i hc
        have hn : findSerial z n.serial = none := by
          cases hf : findSerial _ n.serial with
          | none => rfl
          | some q => exact absurd (by simp [hf]) hc
        split
        · exact enterLane_keeps h hn
        · exact enterArm_keeps h hn
        · exact enterVehicle_keeps h hn
        · exact enterCarriage_keeps h hn
        · exact h

theorem removeRoll_keeps {i e p z} (h : SoundZone i z) : SoundZone i (removeRoll e p z) := by
  unfold removeRoll; simp only; split
  · exact laneLeft_keeps (erase_keeps h)
  · exact recordLeft_keeps (erase_keeps h)
  · exact setPurpose_keeps (modVehicle_keeps (erase_keeps h) (fun _ => rfl))
  · exact erase_keeps h

theorem rollRemoved_keeps {i e s c z} (h : SoundZone i z) : SoundZone i (rollRemoved e s c z).1 := by
  unfold rollRemoved; split
  · exact h
  · split
    · exact h
    · exact removeRoll_keeps h

theorem orderAsked_keeps {e q s a b z} (h : SoundZone e.img z) : SoundZone e.img (orderAsked e q s a b z).1 := by
  unfold orderAsked; split
  · exact orderRequested_keeps h
  · exact h

theorem laneTakenOut_keeps {i e l z} (h : SoundZone i z) : SoundZone i (laneTakenOut e l z).1 := by
  unfold laneTakenOut; split
  · exact h
  · split
    · exact push_keeps (cancelForLane_keeps (modLane_keeps h))
    · exact h

theorem comparePosition_keeps {i e l p z} (h : SoundZone i z) : SoundZone i (comparePosition e l p z) := by
  unfold comparePosition; split
  · exact place0_keeps h
  · exact raise_keeps (erase_keeps (release_keeps h))
  · exact h

theorem laneBroughtIn_keeps {i e l z} (h : SoundZone i z) : SoundZone i (laneBroughtIn e l z) := by
  unfold laneBroughtIn
  have h1 := foldl_keeps (modLane_keeps (l := l) (f := fun c => { c with overrun := false, underrun := false }) h)
    (l := upTo (lanePositions e l)) (f := fun z p => comparePosition e l p z) (fun z p _ hz => comparePosition_keeps hz)
  exact push_keeps (laneFound_keeps (modLane_keeps (ite_keeps (closeUp_keeps h1) h1)))

theorem laneServed_keeps {i e l z} (h : SoundZone i z) : SoundZone i (laneServed e l z).1 := by
  unfold laneServed; split
  · exact h
  · split
    · exact modLane_keeps h
    · exact laneBroughtIn_keeps h

theorem quarantineWritten_keeps {i a b c z} (h : SoundZone i z) : SoundZone i (quarantineWritten a b c z).1 := by
  unfold quarantineWritten; split
  · exact h
  · split
    · split
      · exact writeSlot_keeps h
      · exact h
    · split
      · exact h
      · exact writeSlot_keeps h

theorem quarantineCleared_keeps {i a z} (h : SoundZone i z) : SoundZone i (quarantineCleared a z).1 := by
  unfold quarantineCleared; split
  · exact h
  · split
    · exact h
    · split
      · exact h
      · exact push_keeps (sound_of_stock h ⟨h.stock.r, h.stock.l, Tbl.sorted_erase _ _ h.stock.s, h.stock.w, h.stock.d, h.stock.a⟩)

theorem faultsAcknowledged_keeps {i e z} (h : SoundZone i z) : SoundZone i (faultsAcknowledged e z).1 :=
  ackSplices_keeps (endHalted_keeps (sound_of_faults h rfl))

theorem clearLaneFlags_keeps {i z} (h : SoundZone i z) : SoundZone i (clearLaneFlags z) :=
  sound_of_stock h ⟨h.stock.r, Tbl.sorted_map z.stock.lanes _ h.stock.l, h.stock.s, h.stock.w, h.stock.d, h.stock.a⟩

theorem zoneRestarted_keeps {i z} (h : SoundZone i z) : SoundZone i z.restarted := by
  have h1 := restartTransfer_keeps (restartTrack_keeps h)
  unfold Zone.restarted
  exact ⟨⟨Nat.zero_le _, Nat.zero_le _⟩, h1.track, ⟨h1.stock.r, Tbl.sorted_map _ _ h1.stock.l, h1.stock.s, rfl, rfl, h1.stock.a⟩, h1.transfer,
    ⟨h1.supply.c, h1.supply.o, h1.supply.r, h1.supply.n⟩, h1.reels, ⟨h1.splice.s, rfl⟩, h1.folder, h1.faults⟩

/-! entering ACTIVE -/
theorem offerHeld_keeps {i e t l z} (h : SoundZone i z) : SoundZone i (offerHeld e t l z) := by
  unfold offerHeld; simp only
  refine foldl_keeps ?_ (fun z f _ hz => offer_keeps hz)
  split
  · exact answer_keeps h
  · exact h

theorem scanLane_keeps {i e l z} (h : SoundZone i z) : SoundZone i (scanLane e l z) :=
  laneFound_keeps (foldl_keeps h (fun z p _ hz => ite_keeps (place0_keeps hz) hz))

theorem startBlocks_keeps {i e z} (h : SoundZone i z) : SoundZone i (startBlocks e z) :=
  push_keeps (scanReelstands_keeps (foldl_keeps (scanTrack_keeps h) (fun z l _ hz => scanLane_keeps hz)))

theorem resumeBlocks_keeps {e z} (h : SoundZone e.img z) : SoundZone e.img (resumeBlocks e z) :=
  reconfirm_keeps (withdrawAll_keeps (recreateOrders_keeps (resumeReelstands_keeps (resumeTrack_keeps h))))

theorem presentAll_keeps {i e z} (h : SoundZone i z) : SoundZone i (presentAll e z) := by
  unfold presentAll
  refine foldl_keeps (sound_of_supply h ⟨h.supply.c, h.supply.o, h.supply.r, h.supply.n⟩) (fun z n _ hz => ?_)
  unfold presentAsked; split
  · exact ite_keeps (push_keeps hz) hz
  · exact push_keeps hz

theorem activate_keeps {e w t l z} (h : SoundZone e.img z) : SoundZone e.img (activate e w t l z) := by
  unfold activate
  have h1 : SoundZone e.img { z with line := z.line.activated e.now } := sound_of_line h ⟨h.line.q, h.line.w⟩
  have h2 := restockAt_keeps (t := e.now + Config.restockPeriod) (offerHeld_keeps (e := e) (t := t) (l := z.line.heldFrames) h1)
  exact presentAll_keeps (foldl_keeps (ite_keeps (resumeBlocks_keeps h2) (startBlocks_keeps h2)) (fun z a _ hz => sendAlert_keeps hz))

theorem offerInert_keeps {i o z} (h : SoundZone i z) : SoundZone i (offerInert o z) := by
  unfold offerInert; split
  · exact h
  · split
    · rename_i hq; refine sound_of_line h ⟨?_, h.line.w⟩; simp only [Config.queueEntries] at hq; simp; omega
    · exact sound_of_line h (drop_keeps h.line)

end Sys2Proof.Machine
end

