-- ==== Sys2Proof/Tests/Demo.lean ====
section
/-! SUPPORT. One small zone, station 4 with four segments, three lanes and one reelstand, as it stands in ACTIVE;
the tests and witnesses start from it. -/

namespace Sys2Proof.Tests

open Sys2Proof.Machine

/-- The image of the demo zone: 4 segments, 1 points, 4 docks, 3 lanes, 1 reelstand. -/
def demoImage : Image :=
  { segments := [⟨50, ⟨0, 2⟩, ⟨0, 0⟩, 0, 0⟩, ⟨60, ⟨0, 3⟩, ⟨0, 0⟩, 0, 1⟩, ⟨70, ⟨0, 4⟩, ⟨8, 1⟩, 1, 2⟩, ⟨80, ⟨0, 1⟩, ⟨0, 0⟩, 0, 3⟩]
    points := [3]
    docks := [⟨2, .loading⟩, ⟨3, .receiving⟩, ⟨4, .parking⟩, ⟨0, .scrap⟩]
    boundary := [⟨8, 1⟩]
    exits := [⟨8, 3, 2, 1⟩]
    lanes := [⟨.through, 4, .stock, 0, 0, 0⟩, ⟨.pick, 2, .butt, 0, 0, 0⟩, ⟨.pick, 2, .staging, 3, 1600, 1⟩]
    reels := [⟨300, 700, 400, 80, 100, 900, 20000, true⟩]
    locked := [(0x01000000, 0x010000FF)]
    meanTransit := 40, transferTime := 100, penalty := 200, minLength := 2000, cutoff := 560, ejectCount := 10, rateX := 0,
    rateY := 2, rateM := 1, lotThreshold := 2, level := 3, console := 20, permission := [21, 22], queueB := 8,
    resume := .resumeStep, acceptAlerts := true, buttReturn := 0, polarity := List.replicate 19 255 }

/-- Station 4 in START with no image yet. -/
def started : State := { State.reset with loader := { Loader.initial with number := 4 } }

/-- JOINING after a good image. -/
def joined : State := started.withImage demoImage

/-- The next state of a command; every command has one. -/
def after (s : State) (c : Instr) : State :=
  match exec c s with
  | .next t => t
  | _ => s

/-- ACTIVE at zone time 10, nothing in the zone. -/
def bare : State :=
  { joined with time := 10
                loader := { joined.loader with station := .active }
                zone := { joined.zone with line := { joined.zone.line with periodStart := 10 } } }

/-- INERT by straps of 0. -/
def dead : State := { State.reset with loader := { Loader.initial with station := .inert } }

/-- Vehicle 5 on segment 4, at the parking dock. -/
def vehicle5 : Vehicle :=
  { number := 5, state := .held, current := some 4, granted := none, trailing := none, loaded := false, purpose := .none,
    order := none, home := 4, route := [], handOver := .none, handOverTime := 10, offeredTo := none, repeatAt := 0,
    unconfirmed := false, offeredBy := none, carried := none, claim := 0 }

def someRoll : Roll :=
  { serial := 0x200, data := some ⟨3, 1600, 80, 4000⟩, state := .stock, reservation := none, breaks := 0, waste := 0,
    defect := false }
def roll105 : Roll := { someRoll with serial := 0x105, data := some ⟨3, 1600, 80, 5000⟩ }
def roll106 : Roll := { someRoll with serial := 0x106, data := some ⟨3, 1600, 80, 6000⟩ }
def roll107 : Roll := { someRoll with serial := 0x107, data := some ⟨3, 1600, 80, 3000⟩, state := .running }

def seeded107 : Meas :=
  { Meas.initial with serial := 0x107, state := .seeded, seed := .fromRecord, caliper := 80, loadLength := 3000000, countLength := 3000000,
                      remaining := 3000000, spliceLength := 397885, minLength := 69629 }

/-- The line report of a vehicle and two rolls on lane 1 and one on arm A, all as the detectors show them. -/
def demoInputs : Inputs :=
  { occupancy := [(4, 5)], atDock := [(3, true)], lanes := [(273, true), (274, true)],
    reels := [(1, { ReelIns.idle with presentA := true, openB := true })], wasteGate := false }

/-- ACTIVE with the demo zone filled: the three rolls with the records given. -/
def filled (a b c : Roll) : State :=
  { bare with
      inputs := demoInputs
      zone := { bare.zone with
        track := { bare.zone.track with
          segments := [(1, ⟨.free, [], false⟩), (2, ⟨.free, [], false⟩), (3, ⟨.free, [], false⟩), (4, ⟨.occupied 5, [], false⟩)]
          vehicles := [(1, vehicle5)] }
        stock := { bare.zone.stock with rolls := [(273, a), (274, b), (529, c)], restockAt := 610 }
        splice := { bare.zone.splice with stands := [(1, { Splice.initial with state := .single, running := some .a })] }
        reels := [(1, ⟨seeded107, Meas.initial, 65535⟩)] } }

/-- The three rolls identified. -/
def stocked : State := filled roll105 roll106 roll107

/-- The three rolls as the detectors found them. -/
def ready : State := filled (unidentified .stock) (unidentified .stock) (unidentified .running)

def terminal : Header := ⟨21, 4⟩
def peer : Header := ⟨8, 4⟩
def console : Header := ⟨20, 0⟩

/-! ### Small changes of a state -/

def afterAll (s : State) (l : List Instr) : State := l.foldl after s
def zoned (s : State) (f : Zone → Zone) : State := { s with zone := f s.zone }
def timed (s : State) (t : Time) : State := { s with time := t }
def held (s : State) : State := { s with loader := { s.loader with held := true } }
def lined (s : State) (f : Line → Line) : State := s.modLine f
def withCall (s : State) (c : Call) : State := zoned s (setCall c)
def withRoll (s : State) (p : Place) (r : Roll) : State := zoned s (setRoll p r)
def withVehicle (s : State) (slot : Nat) (v : Vehicle) : State :=
  zoned s fun z => { z with track := { z.track with vehicles := z.track.vehicles.set slot v } }
def withSegment (s : State) (k : Nat) (x : Segment) : State :=
  zoned s fun z => { z with track := { z.track with segments := z.track.segments.set k x } }
def withSplice (s : State) (f : Splice → Splice) : State := zoned s (modSplice 1 f)
def withMeas (s : State) (f : Meas → Meas) : State :=
  zoned s (modReel 1 fun y => { y with measA := f y.measA })
def withOrder (s : State) (o : Order) : State :=
  zoned s fun z => { z with transfer := { z.transfer with ordersP := [o], carriage := .running o.number } }
def withWeb (s : State) (f : WebPath → WebPath) : State :=
  zoned s (modWeb 1 f)

def offer1 : Offer := ⟨8, 0x905, 4000, 300, true⟩
def offer2 : Offer := ⟨9, 0x906, 4100, 310, true⟩

/-- A call for lane 3, number 1. -/
def call1 : Call :=
  { number := 1, need := .restock 3, urgency := .routine, grade := 3, width := 1600, minLength := 2000, deadline := 65535,
    state := .collecting, offers := [], chosen := none, takeTime := none, windowStart := some 0, reissueAt := none,
    late := false }
def taking1 : Call := { call1 with state := .taking, offers := [offer1, offer2], chosen := some offer1, takeTime := some 0 }

/-- Vehicle 6 on segment 3, the exit segment to station 8. -/
def vehicle6 : Vehicle :=
  { number := 6, state := .held, current := some 3, granted := none, trailing := none, loaded := false, purpose := .home,
    order := none, home := 8, route := [], handOver := .none, handOverTime := 0, offeredTo := none, repeatAt := 0,
    unconfirmed := false, offeredBy := none, carried := none, claim := 0 }
def offered6 : Vehicle := { vehicle6 with handOver := .offered, offeredTo := some (8, 1) }
def passing6 : Vehicle := { offered6 with handOver := .accepted, state := .passing }
/-- The demo zone with a vehicle 6 on segment 3. -/
def with6 (v : Vehicle) : State := withSegment (withVehicle stocked 2 v) 3 ⟨.occupied 6, [], false⟩

/-- An operator order for the roll of lane 1 position 1 to lane 2 position 1. -/
def order1 : Order :=
  { number := 1
    req := { queue := .p, origin := .operator, serial := 0x105, source := .lane 1 1, dest := .place (.lane 2 1),
             dockTrigger := none, armTrigger := none, vehicle := none, callRef := none }
    serial := 0x105, vehicle := none, target := some (.lane 2 1), state := .running, step := 1, stepStart := 0,
    holding := false, overrunRaised := false, accepted := 0 }
def at' (k : Nat) : State := withOrder stocked { order1 with step := k }

/-- Nothing is some. -/
theorem none_some {α : Type} {o : Option α} {p : α → Prop} (h : o = none) : ∀ x, o = some x → p x := by
  rintro x hx
  rw [h] at hx
  cases hx

/-- One thing is some. -/
theorem one_some {α : Type} {o : Option α} {p : α → Prop} (y : α) (h : o = some y) (hp : p y) : ∀ x, o = some x → p x := by
  rintro x hx
  rw [h] at hx
  cases hx
  exact hp

end Sys2Proof.Tests
end

