-- ==== Sys2Proof/Tests/Slice0.lean ====
section
/-! SUPPORT. Tests: every check of WellFormed refuses an ill-formed command; bytes written out by hand from Chapter 11; single
commands against results worked out from the rules. -/

namespace Sys2Proof.Tests

set_option Elab.async false

open Sys2Proof.Machine

/-! ### WellFormed: the check refuses, for every numbering of 0-5 and the body length of 1-1 -/

theorem test_wf_body_of_duplicate : Instr.wf (.duplicateStation 0 1 (List.replicate 25 0)) = false := by decide
theorem test_wf_body_of_frame : Instr.wf (.frameDiscard ⟨8, 0, 1, List.replicate 25 0⟩) = false := by decide
theorem test_wf_tag_segment : Instr.wf (.tagRead 17 5) = false := by decide
theorem test_wf_clear_segment : Instr.wf (.occupancyClear 0) = false := by decide
theorem test_wf_rise_dock : Instr.wf (.atDockRise 13) = false := by decide
theorem test_wf_fall_dock : Instr.wf (.atDockFall 0) = false := by decide
theorem test_wf_answer_vehicle : Instr.wf (.passAnswerTimeout 64) = false := by decide
theorem test_wf_repeat_vehicle : Instr.wf (.passOfferRepeat 0) = false := by decide
theorem test_wf_unconfirmed_vehicle : Instr.wf (.passUnconfirmed 64) = false := by decide
theorem test_wf_retry_vehicle : Instr.wf (.unloadRetry 0) = false := by decide
theorem test_wf_detector_lane : Instr.wf (.laneDetectorChange 9 1 true) = false := by decide
theorem test_wf_detector_position : Instr.wf (.laneDetectorChange 1 5 true) = false := by decide
theorem test_wf_disagree_lane : Instr.wf (.laneDisagreeTimeout 0 1) = false := by decide
theorem test_wf_travel_lane : Instr.wf (.travelComplete (some (.lane 1 5))) = false := by decide
theorem test_wf_travel_dock : Instr.wf (.travelComplete (some (.dock 13))) = false := by decide
theorem test_wf_pick_arm : Instr.wf (.pickComplete (some (.arm 5 .a))) = false := by decide
theorem test_wf_set_vehicle : Instr.wf (.setComplete (some (.vehicle 9))) = false := by decide
theorem test_wf_window_call : Instr.wf (.offerWindowEnd 0) = false := by decide
theorem test_wf_take_call : Instr.wf (.takeAnswerTimeout 256) = false := by decide
theorem test_wf_reissue_call : Instr.wf (.reissueTime 0) = false := by decide

/-- Reelstands 0 and 5 are no reelstands of any zone. -/
theorem test_wf_reelstands :
    ∀ i ∈ ([.armOpenChange 5 .a true, .encoderPulse 0, .missingIndexPoint 5, .speedGateEnd 0,
        .revolutionIndex 5 .b, .rollPresentChange 0 .a true, .armDisagreeTimeout 5 .a, .standbyReadyChange 0 true,
        .speedMatchedChange 5 true, .matchTimeout 0, .pasteDone 5, .pasteTimeout 0,
        .knifeFallback 5, .knifeDone 0, .knifeTimeout 5, .webBreak 0,
        .webBreakClear 5] : List Instr), i.wf = false := by
  decide

/-- A ZONE REPORT part carries at most 20 bytes of data (R192). -/
theorem test_wf_body : (Body.zoneReport 1 1 1 1 (List.replicate 21 0)).wf = false := by decide

/-- The ends of the numberings are well formed. -/
theorem test_wf_accepts :
    ∀ i ∈ ([.tagRead 16 63, .atDockRise 12, .unloadRetry 63, .laneDetectorChange 8 4 true, .travelComplete (some .carriage),
        .travelComplete none, .reissueTime 255, .encoderPulse 4, .frameDiscard ⟨8, 0, 1, List.replicate 24 0⟩] : List Instr),
      i.wf = true := by
  decide

/-! ### Bytes (Chapter 11) -/

/-- The CRC of the nine ASCII bytes 1 to 9 is 0x29B1 (R189). -/
theorem test_crc : crc16 [0x31, 0x32, 0x33, 0x34, 0x35, 0x36, 0x37, 0x38, 0x39] = 0x29B1#16 := by decide +kernel

/-- ROLL CALL of call 7, urgency ROUTINE, grade 3, width 1,600 mm and 2,000 m (Table 11-2-2). -/
theorem test_body_rollCall :
    decodeBody .rollCall [7, 2, 3, 0x06, 0x40, 0x00, 0x07, 0xD0] = some (.rollCall 7 2 3 1600 2000) := by decide

/-- ROLL ENTRY of serial 0x105 on lane 1 position 2, whose value byte is 16 times the lane plus the position
(Table 11-1-1). -/
theorem test_body_rollEntry :
    decodeBody .rollEntry [1, 0x12, 0, 0, 1, 5, 3, 0x06, 0x40, 80, 0, 0x13, 0x88] =
      some (.rollEntry ⟨1, 0x12⟩ 0x105 3 1600 80 5000) ∧ (⟨1, 0x12⟩ : PlaceCode).decode = some (.lane 1 2) := by decide

/-- PASS ACCEPT of vehicle 6 for segment 1. -/
theorem test_body_passAccept : decodeBody .passAccept [6, 1] = some (.passAccept 6 1) := by decide

/-! ### Single commands -/

/-- START, INERT at once and no report, by strap value (R11, R20). -/
theorem test_reset_straps :
    (after State.reset (.powerOnReset 4)).loader.station = .start ∧ (after State.reset (.powerOnReset 31)).loader.station = .inert := by
  decide +kernel

/-- Ten deciseconds after JOINING was entered ACTIVE is entered, not at nine (R15). -/
theorem test_joining :
    (after (timed joined 10) .joiningEnd).loader.station = .active ∧ (after (timed joined 9) .joiningEnd).loader.station = .joining := by
  decide +kernel

/-- A frame of report class needs 24 bit times of quiet (R2). -/
theorem test_transmit :
    let s := lined stocked fun l => { l with queue := [⟨0, .faultReport 0 0 3⟩] }
    (after s (.transmitStart 23 4)).zone.line.sending = none ∧ (after s (.transmitStart 24 4)).zone.line.sending.isSome = true ∧
      (after s (.transmitStart 24 5)).zone.line.sending = none := by decide +kernel

/-- A ROLL CALL gets the roll of least remaining length among those long enough (R61, R106). -/
theorem test_rollCall :
    (after stocked (.rollCall peer 7 2 3 1600 2000)).zone.line.queue.map (fun f => (f.dest, bodyKind f.body)) = [(8, .rollOffer)] := by
  decide +kernel

/-- A ROLL TAKE of an unreserved roll reserves it (R107). -/
theorem test_rollTake :
    ((after stocked (.rollTake peer 7 0x105 2 1)).zone.stock.rolls.get? 273).bind (·.reservation) = some ⟨8, 7, 1⟩ := by
  decide +kernel

/-- A tag on a FREE segment blocks it and is an intrusion (R31). -/
theorem test_intrusion :
    let t := after stocked (.tagRead 1 9)
    segState t.zone 1 = some .blocked ∧ (t.zone.faults.entries.get? 1).map (·.latest.code) = some .intrusion := by decide +kernel

/-- QUARANTINE SET without a slot number takes the lowest free one (R65). -/
theorem test_quarantine :
    ((after stocked (.quarantineSet terminal 0 0x500 0x5FF)).zone.stock.slots.get? 2).map (·.origin) = some .terminal := by
  decide +kernel

/-- An encoder pulse is 1 mm of the web counter, which wraps at 2^40 (R117). -/
theorem test_encoder_wraps :
    let s : State := { stocked with webs := [(1, ⟨0xFFFFFFFFFF#40, 0, 0, 0⟩)] }
    ((after s (.encoderPulse 1)).webs.get? 1).map (·.counter) = some 0 := by decide +kernel

/-- A gate of 150 pulses is 1,500 mm/s (R118). -/
theorem test_gate :
    let s : State := { stocked with webs := [(1, ⟨0, 150, 9, 0⟩)] }
    ((after s (.speedGateEnd 1)).webs.get? 1).map (·.speed) = some 1500 := by decide +kernel

/-- A break of a web in use puts a run in BREAK, and the running roll counts it (R168, R175). -/
theorem test_webBreak :
    let s : State := { stocked with spoilage := { stocked.spoilage with condition := .production } }
    let t := after s (.webBreak 1)
    t.spoilage.condition = .broken ∧ (t.zone.stock.rolls.get? 529).map (·.breaks) = some 1 := by decide +kernel

/-- A copy in IDLE counts as idle and nothing else (R170). -/
theorem test_idle_copy :
    (after stocked .folderCopyPulse).spoilage.idleCopies = 1 ∧ (after stocked .folderCopyPulse).spoilage.windowCopies = 0 := by
  decide +kernel

/-- RUN START opens the run and its first edition and enters MAKEREADY (R171). -/
theorem test_runStart :
    (after stocked (.runStart console 7 1)).spoilage.condition = .makeready ∧
      (after stocked (.runStart console 7 1)).spoilage.run.number = 7 := by decide +kernel

/-- The rate window of x = 0, y = 2 holds 4 copies (R174). -/
theorem test_window : (4 + demoImage.rateX) * 2 ^ demoImage.rateY / 4 = 4 := by decide

end Sys2Proof.Tests
end

