-- ==== Sys2Proof/Tests/Witnesses.lean ====
section
/-! SUPPORT. For every statement with hypotheses a state and operands that meet them, clause by clause, at the edges of the
ranges where a clause has a range; chapters 1 to 5. Expected values come from the rules the statement cites. -/

namespace Sys2Proof.Tests

set_option Elab.async false

open Sys2Proof.Machine

/-! ### An image of 151 bytes, laid out by hand from R193 -/

def imageHead : List Byte :=
  [0, 151, 3, 4, 1, 4, 3, 1, 1, 1, 1, 0, 40, 0, 100, 0, 200, 0, 7, 208, 2, 48, 10, 0, 2, 0, 1, 2, 3, 20, 21, 22, 0, 0, 8, 1, 1,
   0]
def imagePolarity : List Byte := List.replicate 19 255
def imageSegments : List Byte :=
  [0, 50, 0, 2, 0, 0, 0, 0, 0, 60, 0, 3, 0, 0, 0, 1, 0, 70, 0, 4, 8, 1, 1, 2, 0, 80, 0, 1, 0, 0, 0, 3]
def imageYard : List Byte := [3, 2, 1, 3, 2, 4, 3, 0, 4, 8, 1, 8, 3, 2, 1, 1, 4, 1, 0, 0, 0, 0, 2, 2, 3, 0, 0, 0, 0]
def imageReels : List Byte :=
  [2, 2, 2, 3, 6, 64, 1, 1, 44, 2, 188, 1, 144, 80, 0, 100, 3, 132, 0, 0, 78, 32, 1, 1, 0, 0, 0, 1, 0, 0, 255]
/-- The image; its two closing bytes, 100 and 250, are the CRC of R189 worked out apart from the model. -/
def image : List Byte := imageHead ++ imagePolarity ++ imageSegments ++ imageYard ++ imageReels ++ [100, 250]

theorem crc16_append (a b : List Byte) : crc16 (a ++ b) = b.foldl crcByte (crc16 a) := by simp [crc16]

theorem image_crc : crc16 (imageHead ++ imagePolarity ++ imageSegments ++ imageYard ++ imageReels) = 0x64FA#16 := by
  have h1 : crc16 imageHead = 35050#16 := by decide +kernel
  have h2 : imagePolarity.foldl crcByte 35050#16 = 1557#16 := by decide +kernel
  have h3 : imageSegments.foldl crcByte 1557#16 = 14856#16 := by decide +kernel
  have h4 : imageYard.foldl crcByte 14856#16 = 12732#16 := by decide +kernel
  have h5 : imageReels.foldl crcByte 12732#16 = 0x64FA#16 := by decide +kernel
  rw [crc16_append, crc16_append, crc16_append, crc16_append, h1, h2, h3, h4, h5]

/-- The image is good for station 4, and it reads as the demo zone's. -/
theorem image_good : checkImage image 4 = .good demoImage := by
  have hb : ((List.range 149).map fun i => image.getD i 0xFF#8) =
      imageHead ++ imagePolarity ++ imageSegments ++ imageYard ++ imageReels := by decide +kernel
  have hc : (crc16 ((List.range (readMem image 0 2 - 2)).map fun i => image.getD i 0xFF#8)).toNat = 25850 := by
    show (crc16 ((List.range 149).map fun i => image.getD i 0xFF#8)).toNat = 25850
    rw [hb, image_crc]
    decide
  simp only [checkImage]
  rw [hc, if_neg (by decide +kernel), if_neg (by decide +kernel), if_neg (by decide +kernel)]
  have hr : (rangeChecks image 4).find? (fun v => !v.2) = none := by
    rw [List.find?_eq_none]
    have : (rangeChecks image 4).all (·.2) = true := by decide +kernel
    intro x hx
    simpa using List.all_eq_true.1 this x hx
  rw [hr]
  decide +kernel

/-! ### Machine, reset and image -/

theorem witness_StepRunsFrontCommand :
    ({ ready with pending := [.rateWindowEnd, .frameSent] } : State).pending = Instr.rateWindowEnd :: [.frameSent] ∧
      ready.pending = [] ∧ (held ready).loader.held = true ∧ ready.loader.held = false ∧ dead.pending = [] ∧
      dead.loader.held = false ∧ dead.loader.station = .inert := by decide +kernel

/-- In INERT with a report due a step does queue the repeat. -/
theorem witness_StepRunsFrontCommand_inert :
    let s : State := { State.reset with loader := { Loader.initial with station := .inert, number := 4, inertNext := some 1 } }
    s.pending = [] ∧ s.loader.held = false ∧ s.loader.station = .inert ∧
      (s.tick.time, s.tick.pending) = (1, [.inertReportRepeat]) := by decide +kernel

theorem witness_CommandsKeepTimeNumberAndQueue :
    (∀ straps, Instr.joiningEnd ≠ .powerOnReset straps) ∧ movesInput .joiningEnd = false ∧
      touchesCounters (.encoderPulse 1) = false := ⟨by simp, by decide, by decide⟩

/-- Strap values at both ends of the range of numbers and outside it (R11). -/
theorem witness_ResetTaken :
    (after ready (.powerOnReset 1)).loader.station = .start ∧ (after ready (.powerOnReset 30)).loader.station = .start ∧
      (after ready (.powerOnReset 0)).loader.station = .inert ∧ (after ready (.powerOnReset 31)).loader.station = .inert := by
  decide +kernel

theorem witness_GoodImageEntersJoining :
    started.loader.held = false ∧ started.loader.station = .start ∧ 1 ≤ started.loader.number ∧ started.loader.number ≤ 30 ∧
      checkImage image started.loader.number = .good demoImage :=
  ⟨by decide +kernel, by decide +kernel, by decide +kernel, by decide +kernel, image_good⟩

/-- A memory that does not answer fails stage 1. -/
theorem witness_ImageCheckFails :
    let s := started
    s.loader.held = false ∧ s.loader.station = .start ∧ 1 ≤ s.loader.number ∧ s.loader.number ≤ 30 ∧
      s.zone.line.queue = [] ∧ checkImage [] s.loader.number = .bad 1 none := by decide +kernel

/-- Each stage at the edge of its range: lengths 73, 74, 1,024 and 1,025, a wrong CRC, a format number 0, a good image. -/
theorem witness_ImageCheckFails_stages :
    readMem [0, 73] 0 2 < 74 ∧ 1024 < readMem [4, 1] 0 2 ∧
      (let m : List Byte := [0, 74] ++ List.replicate 72 0
       74 ≤ readMem m 0 2 ∧ readMem m 0 2 ≤ m.length ∧ readMem m 0 2 ≤ 1024 ∧
         (crc16 (m.take (readMem m 0 2 - 2))).toNat ≠ readMem m (readMem m 0 2 - 2) 2) ∧
      (let m : List Byte := [0, 74] ++ List.replicate 70 0 ++ [13, 255]
       74 ≤ readMem m 0 2 ∧ readMem m 0 2 ≤ m.length ∧ readMem m 0 2 ≤ 1024 ∧
         (crc16 (m.take (readMem m 0 2 - 2))).toNat = readMem m (readMem m 0 2 - 2) 2 ∧ readMem m 2 1 ≠ 3) := by
  have hz : (crc16 ([0, 74] ++ List.replicate 70 0)).toNat = 3583 := by
    have h1 : crc16 ([0, 74] ++ List.replicate 35 0) = 19720#16 := by decide +kernel
    have h2 : (List.replicate 35 (0 : Byte)).foldl crcByte 19720#16 = 3583#16 := by decide +kernel
    rw [show List.replicate 70 (0 : Byte) = List.replicate 35 0 ++ List.replicate 35 0 by decide +kernel, ← List.append_assoc,
      crc16_append, h1, h2]
    decide
  refine ⟨by decide +kernel, by decide +kernel, ⟨by decide +kernel, by decide +kernel, by decide +kernel, ?_⟩,
    ⟨by decide +kernel, by decide +kernel, by decide +kernel, ?_, by decide +kernel⟩⟩
  · show (crc16 ([0, 74] ++ List.replicate 70 0)).toNat ≠ 0
    rw [hz]
    decide
  · show (crc16 ([0, 74] ++ List.replicate 70 0)).toNat = 3583
    exact hz

theorem witness_ImageCheckFails_longest :
    74 ≤ readMem ([4, 0] ++ List.replicate 1022 0) 0 2 ∧ readMem ([4, 0] ++ List.replicate 1022 0) 0 2 ≤ 1024 ∧
      ([4, 0] ++ List.replicate 1022 (0 : Byte)).length = 1024 := by
  refine ⟨by decide +kernel, by decide +kernel, ?_⟩
  rw [List.length_append, List.length_replicate]
  rfl

/-- INERT with a report due now, with one due next, and another station state. -/
theorem witness_ImageCheckFails_repeat :
    (let s : State := { State.reset with time := 100
                                         loader := { Loader.initial with station := .inert, number := 30, inertNext := some 100 } }
     s.loader.held = false ∧ s.loader.station = .inert ∧ s.loader.inertNext = some 100 ∧ liesAfter 100 s.time = false ∧
       1 ≤ s.loader.number ∧ s.loader.number ≤ 30 ∧ s.zone.line.queue.length < 16 ∧ liesAfter 101 s.time = true) ∧
      ready.loader.station ≠ .inert := by decide +kernel

/-- JOINING with its 10 ds run, and at 9 ds. -/
theorem witness_ActiveEntered :
    (let s := timed joined 10
     s.loader.held = false ∧ s.loader.station = .joining ∧ liesAfter (s.loader.joinedAt + 10) s.time = false) ∧
      liesAfter (joined.loader.joinedAt + 10) (timed joined 9).time = true ∧
      (ready.env.station = .active ∧ bare.zone.line.queue = [] ∧ bare.zone.line.waiting = [] ∧
        (List.replicate 15 (⟨0, .callWithdraw 1⟩ : TxFrame)).length + 1 ≤ 16) ∧
      (bare.zone.stock.rolls = [] ∧ 1 ≤ 1 ∧ 3 ≤ ready.env.img.lanes.length ∧ lanePositions ready.env 1 = 4 ∧
        laneDetector ready.env 1 2 = true ∧ laneDetector ready.env 1 3 = false) := by decide +kernel

theorem witness_ActiveEntered_lanes : ∀ k, lanePositions ready.env k ≤ 4 := by
  intro k
  have : ∀ j < 4, lanePositions ready.env j ≤ 4 := by decide +kernel
  by_cases h : k < 4
  · exact this k h
  · have hk : lanePositions ready.env k = 0 := by
      have hl : ready.env.img.lanes.length = 3 := by decide +kernel
      obtain ⟨j, rfl⟩ : ∃ j, k = j + 1 := ⟨k - 1, by omega⟩
      simp only [lanePositions, Image.lane?, nth]
      rw [List.getElem?_eq_none (by omega)]
      rfl
    omega

theorem witness_StepKeepsStationSound : ready.stationSound = true ∧ ∃ t, step ready = .next t :=
  ⟨by decide +kernel, _, rfl⟩

theorem witness_InertAndImageLast :
    dead.stationSound = true ∧ dead.loader.station = .inert ∧ ready.stationSound = true ∧ ready.loader.image ≠ none ∧
      ready.loader.station ≠ .start ∧ (∀ straps, Instr.frameSent ≠ .powerOnReset straps) :=
  ⟨by decide +kernel, by decide +kernel, by decide +kernel, by decide +kernel, by decide +kernel, by simp⟩

/-! ### Frames on the line -/

/-- Bodies of one byte, of 11 and of the greatest length, and places at the ends of their numbering and past it. -/
theorem witness_BodyAndPlaceRoundTrip :
    (Body.callWithdraw 255).wf = true ∧ (Body.rollOffer 255 0xFFFFFFFF 0xFFFFFF 0xFFFF 255).wf = true ∧
      (Body.zoneReport 1 2 3 4 (List.replicate 20 255)).wf = true ∧
      (Place.lane 8 4).wf = true ∧ (Place.lane 1 1).wf = true ∧ (Place.arm 4 .b).wf = true ∧ (Place.vehicle 8).wf = true ∧
      Place.carriage.wf = true ∧ (Place.dock 12).wf = true ∧ (Place.dock 1).wf = true := by decide

/-- A code that no place has: dock 13. -/
theorem witness_BodyAndPlaceRoundTrip_none : ∀ p : Place, p.wf = true → p.encode ≠ ⟨5, 13⟩ := by
  intro p hp he
  have hd : (⟨5, 13⟩ : PlaceCode).decode = none := by decide
  cases p with
  | lane l q =>
    simp only [Place.wf, inNumbering, Bool.and_eq_true, decide_eq_true_eq] at hp
    obtain ⟨⟨h1, h2⟩, h3, h4⟩ := hp
    interval_cases l <;> interval_cases q <;> revert he <;> decide
  | arm r x =>
    simp only [Place.wf, inNumbering, Bool.and_eq_true, decide_eq_true_eq] at hp
    obtain ⟨h1, h2⟩ := hp
    interval_cases r <;> cases x <;> revert he <;> decide
  | vehicle v =>
    simp only [Place.wf, inNumbering, Bool.and_eq_true, decide_eq_true_eq] at hp
    obtain ⟨h1, h2⟩ := hp
    interval_cases v <;> revert he <;> decide
  | carriage => revert he; decide
  | dock d =>
    simp only [Place.wf, inNumbering, Bool.and_eq_true, decide_eq_true_eq] at hp
    obtain ⟨h1, h2⟩ := hp
    interval_cases d <;> revert he <;> decide

/-- Frames of one station to all and to station 30; bytes with each failing in turn. -/
theorem witness_FramesPassTheLineCheck :
    ((4 : Nat) < 256 ∧ (0 : Nat) < 256 ∧ (255 : Nat) < 256 ∧ (Body.faultAck).wf = true) ∧
      ((⟨0xA4, true⟩ : HeardByte).value ≠ 0xA5#8 ∧ (0xA5#8 = (⟨0xA5, true⟩ : HeardByte).value ∧ 24 < (25#8).toNat)) ∧
      (([] : List HeardByte).length < (0#8).toNat + 2 ∧ ([] : List HeardByte).length < 4) ∧
      ((⟨1, false⟩ : HeardByte) ∈ [(⟨0xA5, true⟩ : HeardByte), ⟨1, false⟩] ∧ (⟨1, false⟩ : HeardByte).stopBit = false) ∧
      bytes16 (crc16 [4, 0, 1, 0]) ≠ [0#8, 0#8] := by decide +kernel

/-- A line that is ignored, a passing frame, a failed one and a bad start byte; the 64th and the 65th error; a period at its
end and 1 ds before. -/
theorem witness_LineErrors :
    ready.loader.held = false ∧ (lined ready fun l => { l with ignoring := true }).zone.line.ignoring = true ∧
      ready.zone.line.ignoring = false ∧
      lineCheck ((encodeFrame 8 ⟨0, .callWithdraw 7⟩).map fun b => ⟨b, true⟩) = .frame ⟨8, 0, Kind.callWithdraw.code, [7]⟩ ∧
      lineCheck [⟨0xA5, false⟩] = .failed ∧ lineCheck [⟨0x5A, true⟩] = .badStart ∧ joined.loader.station ≠ .active ∧
      ready.loader.station = .active ∧
      (lined ready fun l => { l with periodErrors := 64 }).zone.line.periodErrors + 1 = 65 ∧
      (lined ready fun l => { l with periodErrors := 65 }).zone.line.periodErrors + 1 ≠ 65 ∧
      liesAfter (ready.zone.line.periodStart + 100) (timed ready 110).time = false ∧
      liesAfter (ready.zone.line.periodStart + 100) (timed ready 109).time = true := by decide +kernel

/-- The own number on a frame just sent and on another; in ACTIVE and in JOINING. -/
theorem witness_FramesHeard_own :
    let sent := lined ready fun l => { l with justSent := some ⟨8, .callWithdraw 7⟩ }
    sent.hears = true ∧ sent.loader.number < 256 ∧
      ownFrame sent.zone.line ⟨BitVec.ofNat 8 sent.loader.number, 8, Kind.callWithdraw.code, [7]⟩ = true ∧
      ownFrame ready.zone.line ⟨4, 8, Kind.callWithdraw.code, [7]⟩ = false ∧ ready.loader.station = .active ∧
      joined.hears = true ∧ joined.loader.number < 256 ∧ ownFrame joined.zone.line ⟨4, 8, 1, []⟩ = false ∧
      joined.loader.station = .joining ∧ 1 ≤ joined.loader.number ∧ joined.loader.number ≤ 30 ∧
      joined.zone.line.queue.length < 16 := by decide +kernel

/-- Frames that fail each check of R8 in turn, the sender at 0, 1, 30 and 31. -/
theorem witness_FramesHeard_judged :
    ready.hears = true ∧ (8#8).toNat ≠ ready.loader.number ∧ judge ready.env ⟨8, 9, 1, []⟩ ≠ .accepted ∧
      kindOf 0 = none ∧ Kind.rollCall.lengthOk 9 = false ∧ ((0#8).toNat < 1) ∧ (30 < (31#8).toNat) ∧
      ¬ ((1#8).toNat < 1 ∨ 30 < (30#8).toNat) ∧
      (Kind.faultAck.cls = .terminal ∧ (8#8).toNat ∉ ready.env.img.permission) ∧
      (Kind.pressState.cls = .console ∧ ready.env.img.console ≠ (8#8).toNat) ∧ Kind.faultReport.cls = .report := by
  decide +kernel

/-- The queue at 15 and 16 frames, the waiting list at 31 and 32, a report frame to displace and none. -/
theorem witness_FrameOffered :
    let pf : TxFrame := ⟨8, .callWithdraw 1⟩
    let rf : TxFrame := ⟨0, .faultReport 0 0 3⟩
    ready.env.station = .active ∧ pf.isProtocol = true ∧ rf.isProtocol = false ∧
      (List.replicate 15 pf).length < 16 ∧ 16 ≤ (List.replicate 16 pf).length ∧
      (let q := rf :: List.replicate 15 pf
       16 ≤ q.length ∧ q = [] ++ rf :: List.replicate 15 pf ∧ (∀ g ∈ List.replicate 15 pf, g.isProtocol = true)) ∧
      (let q := pf :: rf :: List.replicate 14 pf
       16 ≤ q.length ∧ q = [pf] ++ rf :: List.replicate 14 pf ∧ ([pf] : List TxFrame) ≠ []) ∧
      (∀ g ∈ List.replicate 16 pf, g.isProtocol = true) ∧
      (List.replicate 31 pf ≠ [] ∧ (List.replicate 31 pf).length < 32) ∧ 32 ≤ (List.replicate 32 pf).length := by
  decide +kernel

/-- The quiet at 15, 16, 23 and 24 bit times; a read-back that differs; a frame under way. -/
theorem witness_FramesSent :
    let pf : TxFrame := ⟨8, .callWithdraw 1⟩
    let rf : TxFrame := ⟨0, .faultReport 0 0 3⟩
    let q := lined ready fun l => { l with queue := [pf] }
    q.zone.line.queue = [pf] ∧ (if pf.isProtocol then 16 else 24) ≤ 16 ∧ 15 < (if pf.isProtocol then 16 else 24) ∧
      (if rf.isProtocol then 16 else 24) ≤ 24 ∧ 23 < (if rf.isProtocol then 16 else 24) ∧ q.loader.held = false ∧
      q.loader.station = .active ∧ q.zone.line.sending = none ∧ (4 : Byte) = BitVec.ofNat 8 q.loader.number ∧
      (5 : Byte) ≠ BitVec.ofNat 8 q.loader.number ∧
      (let s := lined ready fun l => { l with sending := some ⟨pf, true⟩, queue := List.replicate 16 pf, waiting := [pf] }
       s.zone.line.sending = some ⟨pf, true⟩ ∧ s.zone.line.waiting = pf :: [] ∧ s.zone.line.queue.tail.length < 16) ∧
      (let s := lined ready fun l => { l with sending := some ⟨pf, false⟩ }
       s.zone.line.sending = some ⟨pf, false⟩ ∧ s.zone.line.waiting = []) ∧ ready.zone.line.sending = none := by
  decide +kernel

/-! ### Frames taken -/

/-- Each kind of frame is taken from a station that may send it. -/
theorem witness_takes :
    (∀ k ∈ [Kind.rollCall, .rollOffer, .rollTake, .takeAnswer, .callWithdraw, .passOffer, .passAccept, .passDefer, .passDone,
        .rollWaste, .lotAlert], stocked.takes peer k = true) ∧
      (∀ k ∈ [Kind.rollEntry, .rollRemove, .orderRequest, .laneService, .quarantineSet, .quarantineClear, .segmentRelease,
        .spliceNow, .faultAck, .logClear, .reportRequest, .zoneRestart], stocked.takes terminal k = true) ∧
      stocked.takes console .pressState = true := by decide +kernel

/-- A zone with a candidate and a zone without. -/
theorem witness_CallsChosenAndIssued_choice :
    choose stocked.env stocked.zone ⟨.peer, 3, 1600, 5000⟩ = some (273, { someRoll with serial := 0x105, data := some ⟨3, 1600, 80, 5000⟩ }) ∧
      choose stocked.env stocked.zone ⟨.peer, 3, 1600, 6001⟩ = none := by decide +kernel

/-- A call number 0, the least and the greatest call number, a roll found, and none. -/
theorem witness_RollCallAnswered :
    stocked.takes peer .rollCall = true ∧ (1#8 ≠ 0) ∧ (255#8 ≠ 0) ∧
      (choose stocked.env stocked.heard ⟨.peer, max 1 (3#8).toNat, max 200 (min 2600 (1600#16).toNat), min 99999 (2000#24).toNat⟩).isSome ∧
      (deliveryEstimate stocked.env stocked.heard peer.sender.toNat).isSome ∧ reservedCount stocked.heard < 8 ∧
      choose stocked.env stocked.heard ⟨.peer, max 1 (0#8).toNat, max 200 (min 2600 (1600#16).toNat), min 99999 (2000#24).toNat⟩ = none := by
  decide +kernel

/-- Eight reservations refuse a ROLL CALL. -/
theorem witness_RollCallAnswered_full :
    let s := zoned stocked fun z => { z with stock := { z.stock with
      rolls := (upTo 8).map fun k => (256 + k, { someRoll with reservation := some ⟨8, k, 1⟩ }) } }
    s.takes peer .rollCall = true ∧ 8 ≤ reservedCount s.heard := by decide +kernel

/-- A call with no offer, with one of the same station, with 5 of others and with 6. -/
theorem witness_RollOfferTaken :
    let offers := fun n => (upTo n).map fun k => (⟨k + 10, 0x900, 4000, 300, true⟩ : Offer)
    let s := fun n => withCall stocked { call1 with offers := offers n }
    (s 0).takes peer .rollOffer = true ∧ callNumbered (s 0).heard 1 = some { call1 with offers := offers 0 } ∧
      callNumbered (s 0).heard 2 = none ∧ call1.state = .collecting ∧
      (∃ y ∈ [offer1], y.station = peer.sender.toNat) ∧
      ((∀ y ∈ offers 5, y.station ≠ peer.sender.toNat) ∧ (offers 5).length < 6) ∧
      ((∀ y ∈ offers 6, y.station ≠ peer.sender.toNat) ∧ 6 ≤ (offers 6).length ∧
        worstOffer { call1 with offers := offers 6 } = some ⟨16, 0x900, 4000, 300, true⟩) := by decide +kernel

theorem witness_RollOfferTaken_order : ([offer1, offer2] : List Offer).Pairwise (fun a b => b.before a = false) := by
  decide +kernel

/-- A roll fit to be taken; one on an arm; a serial unknown; urgencies 0 and 3; a reserved roll. -/
theorem witness_TakesAnsweredAndWithdrawn :
    let z := stocked.heard
    let e := stocked.env
    stocked.takes peer .rollTake = true ∧ ((0#8 ≠ 1 ∧ 0#8 ≠ 2) ∧ (3#8 ≠ 1 ∧ 3#8 ≠ 2)) ∧ findSerial z 0x999 = none ∧
      ((findSerial z 0x105).map (·.1) = some 273 ∧ laneOfKey 273 = some (1, 1) ∧ (e.img.lane? 1).map (·.role) = some .stock ∧
        (laneRec z 1).map (fun c => (c.inService, c.mismatch)) = some (true, false) ∧
        (rollAt z (.lane 1 1)).map (fun r => (r.state, r.reservation, r.defect)) = some (.stock, none, false) ∧
        reservedCount z < 8 ∧ quarantined z 0x105 = false ∧ serialOrdered z 0x105 = false ∧ e.img.loadingDock ≠ none ∧
        e.img.exit? 8 ≠ none) ∧
      ((findSerial z 0x107).map (·.1) = some 529 ∧ laneOfKey 529 = none) ∧
      (let s := withRoll stocked (.lane 1 1) { someRoll with state := .reserved, reservation := some ⟨8, 7, 1⟩ }
       s.takes peer .callWithdraw = true ∧ reservationKey s.heard 8 7 = some 273 ∧ reservationKey s.heard 8 6 = none ∧
         s.heard.transfer.heldP = [] ∧ s.heard.transfer.heldO = [] ∧ allOrders s.heard = []) := by decide +kernel

/-- A call in TAKING whose chosen offer answers; with a second offer and alone; a confirmed one; a stranger's answer. -/
theorem witness_TakeAnswerTaken :
    let s := withCall stocked taking1
    s.takes peer .takeAnswer = true ∧ callNumbered s.heard 1 = some taking1 ∧ taking1.chosen = some offer1 ∧
      offer1.station = peer.sender.toNat ∧ offer1.serial = 0x905 ∧
      taking1.offers.filter (fun y => taking1.chosen ≠ some y) = offer2 :: [] ∧
      [offer1].filter (fun y => taking1.chosen ≠ some y) = [] ∧
      callNumbered (withCall stocked { taking1 with state := .confirmed }).heard 1 = some { taking1 with state := .confirmed } ∧
      callNumbered s.heard 9 = none := by decide +kernel

/-! ### Hand-over frames -/

def passV : PassVehicle := ⟨6, 8, 1, 3, 0, 0, 0⟩
def passR : PassRoll := ⟨0, 0, 0, 0, 0, 0, 0, 0, 0, 0⟩
def pass1 : PassOffer :=
  { number := 6, home := 8, target := 1, purpose := .home, roll := none, station := 8, time := 10, claim := 0 }

/-- An offer well formed; vehicle numbers 0 and 64, homes 0 and 31, purposes above 4. -/
theorem witness_PassOfferReceived :
    stocked.takes peer .passOffer = true ∧ passOfferOf stocked.env 8 0 passV passR = some pass1 ∧
      passOfferOf stocked.env 8 0 { passV with number := 64 } passR = none ∧ 63 < (64#8).toNat ∧ 30 < (31#8).toNat ∧
      4 < (5#8).toNat ∧ 1 < (2#8).toNat ∧
      boundaryEntry stocked.env.img 8 2 = false ∧ boundaryEntry stocked.env.img 8 1 = true ∧
      findVehicle stocked.heard 6 = none ∧ (∀ d ∈ stocked.heard.track.deferred, d.number ≠ 6 ∧ d.target ≠ 1) ∧
      freeVehicleSlot stocked.heard = some 2 ∧ segState stocked.heard 1 = some .free ∧
      (let s := withVehicle stocked 2 { vehicle6 with state := .incoming, current := some 1, offeredBy := some 8 }
       (findVehicle s.heard 6).map (fun x => (x.2.state, x.2.offeredBy, x.2.current)) = some (.incoming, some 8, some 1)) ∧
      (let s := withSegment stocked 1 ⟨.blocked, [], false⟩
       segState s.heard 1 ≠ some .free ∧ s.heard.track.deferred.length < 4) ∧
      (let s := withSegment (zoned stocked fun z => { z with track := { z.track with
         deferred := (upTo 4).map fun k => { pass1 with number := k + 20, target := k + 20 } } }) 1 ⟨.blocked, [], false⟩
       segState s.heard 1 ≠ some .free ∧ 4 ≤ s.heard.track.deferred.length ∧
         ∀ d ∈ s.heard.track.deferred, d.number ≠ 6) := by decide +kernel

/-- A vehicle offered to station 8, in each status; the vehicle numbers 0 and 64. -/
theorem witness_HandOverAnswersTaken :
    stocked.takes peer .passAccept = true ∧ (63 < (64#8).toNat) ∧ answered stocked.heard 8 6 1 = none ∧
      answered (with6 offered6).heard 8 6 1 = some (2, offered6) ∧ offered6.handOver = .offered ∧ offered6.current = some 3 ∧
      stocked.env.img.segment? 3 ≠ none ∧
      answered (with6 { offered6 with handOver := .timedOut }).heard 8 6 1 = some (2, { offered6 with handOver := .timedOut }) ∧
      answered (with6 { offered6 with handOver := .deferred }).heard 8 6 1 = some (2, { offered6 with handOver := .deferred }) ∧
      answered (with6 passing6).heard 8 6 1 = some (2, passing6) ∧ passing6.handOver = .accepted ∧
      segState (with6 passing6).heard 3 = some (.occupied 6) ∧ (with6 passing6).heard.track.deferred = [] := by
  decide +kernel

/-! ### Waste and alerts -/

/-- A roll in the own table, one carried by an INCOMING vehicle, and an unknown one. -/
theorem witness_WasteAndAlertsTaken_waste :
    stocked.takes peer .rollWaste = true ∧ ownPlace stocked.heard 0x105 = some 273 ∧
      (let s := withVehicle stocked 2 { vehicle6 with state := .incoming, carried := some someRoll }
       (0x200#32 ≠ 0) ∧ ownPlace s.heard 0x200 = none ∧ carriedSlot s.heard 0x200 = some 2) ∧
      (ownPlace stocked.heard 0x999 = none ∧ carriedSlot stocked.heard 0x999 = none) ∧
      joined.loader.station = .joining := by decide +kernel

/-- Alerts not accepted, a lot that the locked range covers, a free slot, and no free slot. -/
theorem witness_WasteAndAlertsTaken_alert :
    Image.absent.acceptAlerts = false ∧ stocked.env.img.acceptAlerts = true ∧
      (∃ x ∈ stocked.zone.stock.slots, x.2.covers (0x01000007#32 &&& 0xFFFFFF00#32) = true ∧
        x.2.covers (0x01000007#32 ||| 0x000000FF#32) = true) ∧
      (¬ ∃ x ∈ stocked.zone.stock.slots, x.2.covers (0x105#32 &&& 0xFFFFFF00#32) = true ∧
        x.2.covers (0x105#32 ||| 0x000000FF#32) = true) ∧
      freeSlot stocked.zone = some 2 ∧
      (let z : Zone := { stocked.zone with stock := { stocked.zone.stock with
         slots := (upTo 4).map fun k => (k, ⟨BitVec.ofNat 32 (0x5000 + k), BitVec.ofNat 32 (0x5000 + k), .terminal⟩) } }
       freeSlot z = none ∧ ¬ ∃ x ∈ z.stock.slots, x.2.covers (0x105#32 &&& 0xFFFFFF00#32) = true ∧
         x.2.covers (0x105#32 ||| 0x000000FF#32) = true) := by decide +kernel

/-! ### Terminal frames -/

/-- Values at the ends of their ranges and just past them, and each kind of place. -/
theorem witness_RollEntryDecided :
    stocked.takes terminal .rollEntry = true ∧
      (200 ≤ (200#16).toNat ∧ (2600#16).toNat ≤ 2600 ∧ (99999#24).toNat ≤ 99999 ∧ ¬ (200 ≤ (199#16).toNat) ∧
        ¬ ((2601#16).toNat ≤ 2600) ∧ ¬ ((100000#24).toNat ≤ 99999)) ∧
      (Place.dock 1).encode.decode = some (.dock 1) ∧ (⟨9, 9⟩ : PlaceCode).decode = none ∧
      ((Place.lane 4 1).encode.decode = some (.lane 4 1) ∧ stocked.env.img.hasPlace (.lane 4 1) = false) ∧
      findSerial stocked.heard 0x105 ≠ none ∧ findSerial stocked.heard 0x300 = none ∧ runningOrder stocked.heard = none ∧
      ((rollAt ready.heard (.lane 1 1)).map (·.serial) = some 0 ∧ (rollAt ready.heard (.arm 1 .a)).map (·.serial) = some 0) ∧
      (rollAt stocked.heard (.lane 2 1) = none ∧ laneDetector stocked.env 2 1 = false) ∧
      (let s := after stocked (.laneDetectorChange 2 2 true)
       rollAt s.heard (.lane 2 2) = none ∧ laneDetector s.env 2 2 = true ∧ s.takes terminal .rollEntry = true) ∧
      rollAt stocked.heard .carriage = none ∧ rollAt stocked.heard (.arm 1 .b) = none ∧
      ((rollAt (withRoll stocked .carriage (unidentified .inTransfer)).heard .carriage).map (·.serial) = some 0) ∧
      ((vehicle? stocked.heard 1).map mayBeLoaded = some true ∧ rollAt stocked.heard (.vehicle 1) = none) ∧
      vehicle? stocked.heard 2 = none ∧ stocked.env.img.hasPlace (.vehicle 2) = true := by decide +kernel

theorem witness_RollEntryDecided_ordered :
    let s := at' 1
    s.takes terminal .rollEntry = true ∧
      (runningOrder s.heard).map (fun o => orderNames s.env s.heard o (.lane 2 1)) = some true := by decide +kernel

/-- A serial unknown, one free to go from a lane, an arm and a vehicle, one running, and serial 0 with and without an entry. -/
theorem witness_RollRemoveDecided :
    stocked.takes terminal .rollRemove = true ∧ findSerial stocked.heard 0x999 = none ∧
      (⟨9, 9⟩ : PlaceCode).decode = none ∧ tableHas stocked.env (.dock 1) = false ∧
      (tableHas stocked.env (.lane 1 3) = true ∧ rollAt stocked.heard (.lane 1 3) = none) ∧
      (∃ r, removeNamed stocked.env stocked.heard 0x107 ⟨0, 0⟩ = .roll (.arm 1 .a) r ∧ r.state = .running) ∧
      (∃ r, removeNamed stocked.env stocked.heard 0x105 ⟨0, 0⟩ = .roll (.lane 1 1) r ∧ r.state ≠ .running ∧
        r.reservation = none ∧ serialOrdered stocked.heard r.serial = false ∧ armSplicing stocked.heard (.lane 1 1) = false ∧
        onPassing stocked.heard (Place.lane 1 1).key = false) ∧
      allOrders stocked.heard = [] := by
  refine ⟨by decide +kernel, by decide +kernel, by decide, by decide +kernel, by decide +kernel, ?_, ?_, by decide +kernel⟩
  · exact ⟨{ someRoll with serial := 0x107, data := some ⟨3, 1600, 80, 3000⟩, state := .running }, by decide +kernel, rfl⟩
  · exact ⟨{ someRoll with serial := 0x105, data := some ⟨3, 1600, 80, 5000⟩ }, by decide +kernel, by decide, rfl,
      by decide +kernel, by decide +kernel, by decide +kernel⟩

theorem witness_RollRemoveDecided_places :
    (let s := withRoll stocked (.arm 1 .b) { someRoll with state := .standby }
     removeNamed s.env s.heard 0x200 ⟨0, 0⟩ = .roll (.arm 1 .b) { someRoll with state := .standby } ∧
       armSplicing s.heard (.arm 1 .b) = false) ∧
      (let s := withRoll stocked (.vehicle 1) { someRoll with state := .shipping }
       removeNamed s.env s.heard 0x200 ⟨0, 0⟩ = .roll (.vehicle 1) { someRoll with state := .shipping } ∧
         onPassing s.heard (Place.vehicle 1).key = false) ∧
      (let s := withRoll stocked .carriage { someRoll with state := .inTransfer }
       removeNamed s.env s.heard 0x200 ⟨0, 0⟩ = .roll .carriage { someRoll with state := .inTransfer }) ∧
      (let s := withRoll stocked (.lane 2 1) (unidentified .butt)
       removeNamed s.env s.heard 0 (Place.lane 2 1).encode = .roll (.lane 2 1) (unidentified .butt)) := by decide +kernel

/-- Queue codes 0 and 3, equal places, an unknown serial, one already ordered, a full queue, and an order accepted. -/
theorem witness_OrderRequestsDecided :
    stocked.takes terminal .orderRequest = true ∧ ((0#8 ≠ 1 ∧ 0#8 ≠ 2) ∧ (3#8 ≠ 1 ∧ 3#8 ≠ 2)) ∧ queueOf 1 = some .p ∧
      queueOf 2 = some .o ∧ (Place.lane 1 1).encode.decode = some (.lane 1 1) ∧
      operatorPlaces stocked.env (.lane 1 1) (.lane 1 1) = false ∧ operatorPlaces stocked.env (.lane 1 1) (.lane 2 1) = true ∧
      findSerial stocked.heard 0x999 = none ∧
      (findSerial (at' 1).heard 0x105 ≠ none ∧ serialOrdered (at' 1).heard 0x105 = true) ∧
      operatorRefusal stocked.env stocked.heard .p 0x105 (.lane 1 1) (.lane 2 1) = none ∧
      (let s := zoned stocked fun z => { z with transfer := { z.transfer with
         ordersP := (upTo 8).map fun k => { order1 with number := k, serial := BitVec.ofNat 32 (0x700 + k),
                                                        req := { order1.req with serial := BitVec.ofNat 32 (0x700 + k) } } } }
       operatorRefusal s.env s.heard .p 0x105 (.lane 1 1) (.lane 2 2) = some .refusedFull ∧ s.env.img.queueB = 8) := by
  decide +kernel

/-- Lane 0 and lane 4 outside the make-up, lane 3 in service and out of it. -/
theorem witness_LaneServiceDecided :
    stocked.takes terminal .laneService = true ∧ laneRec stocked.heard 0 = none ∧ laneRec stocked.heard 4 = none ∧
      (laneRec stocked.heard 3).map (·.inService) = some true ∧ allOrders stocked.heard = [] ∧
      (let s := after stocked (.laneServiceOut terminal 3)
       s.takes terminal .laneService = true ∧ (laneRec s.heard 3).map (·.inService) = some false) ∧
      (stocked.env.station = .active ∧ laneMode? stocked.env 2 = some .pick ∧ lanePositions stocked.env 2 ≤ 4 ∧
        stocked.zone.stock.rolls.sorted = true ∧ laneDetector stocked.env 2 1 = false) ∧
      (let e := (after stocked (.laneDetectorChange 2 2 true)).env
       laneDetector e 2 2 = true ∧ rollAt stocked.zone (.lane 2 2) = none ∧
         rollAt (withRoll stocked (.lane 2 2) someRoll).zone (.lane 2 2) = some someRoll ∧ someRoll.reservation = none) := by
  decide +kernel

/-- Slots 0, 1, 4 and 5, a limit a lot below the base and one in the same lot, a slot of the image, no free slot. -/
theorem witness_QuarantineDecided :
    stocked.takes terminal .quarantineSet = true ∧ stocked.takes terminal .quarantineClear = true ∧ 4 < (5#8).toNat ∧
      (1#8).toNat ≤ 4 ∧ (4#8).toNat ≤ 4 ∧
      ¬ ((0x200#32 &&& 0xFFFFFF00#32).toNat ≤ (0x1FF#32 &&& 0xFFFFFF00#32).toNat) ∧
      (0x2FF#32 &&& 0xFFFFFF00#32).toNat ≤ (0x200#32 &&& 0xFFFFFF00#32).toNat ∧
      freeSlot stocked.heard = some 2 ∧ (stocked.heard.stock.slots.get? 1).map (·.origin) = some .image ∧
      stocked.heard.stock.slots.get? 4 = none ∧ stocked.heard.stock.slots.sorted = true ∧
      (let s := after stocked (.quarantineSet terminal 2 0x500 0x500)
       (s.heard.stock.slots.get? 2).map (·.origin) = some .terminal ∧ s.takes terminal .quarantineClear = true) ∧
      (let s := afterAll stocked [.quarantineSet terminal 0 0x500 0x500, .quarantineSet terminal 0 0x600 0x600,
         .quarantineSet terminal 0 0x700 0x700]
       freeSlot s.heard = none ∧ s.takes terminal .quarantineSet = true) ∧
      (Slot.covers ⟨0x500, 0x500, .terminal⟩ 0x600 = false ∧ ∀ y ∈ stocked.heard.stock.slots, y.1 ≠ 2 → y.2.covers 0x600 = false) := by
  decide +kernel

/-- A segment outside the make-up; a BLOCKED one empty, with a known tag and with an unknown one; a stranded vehicle; an
unconfirmed hand-over; a FREE segment. -/
theorem witness_SegmentReleaseDecided :
    let block := withSegment stocked 1 ⟨.blocked, [], false⟩
    let tagged := fun (n : Nat) => ({ block with inputs := { block.inputs with occupancy := block.inputs.occupancy.set 1 n } } : State)
    stocked.takes terminal .segmentRelease = true ∧ segState stocked.heard 0 = none ∧ segState stocked.heard 5 = none ∧
      segState block.heard 1 = some .blocked ∧ occupied block.env 1 = false ∧
      (block.heard.track.vehicles.find? fun v => v.2.state = .incoming && v.2.current = some 1) = none ∧
      (let s := withVehicle block 2 { vehicle6 with state := .incoming, current := some 1 }
       ((s.heard.track.vehicles.find? fun v => v.2.state = .incoming && v.2.current = some 1).map (·.1)) = some 2) ∧
      occupied (tagged 5).env 1 = true ∧ presentTag (tagged 5).env 1 = 5 ∧
      ((findVehicle (tagged 5).heard 5).map (·.2.state) = some .held) ∧
      (findVehicle (tagged 63).heard (presentTag (tagged 63).env 1) = none ∧ freeVehicleSlot (tagged 63).heard = some 2 ∧
        1 ≤ presentTag (tagged 63).env 1 ∧ presentTag (tagged 63).env 1 ≤ 63) ∧
      presentTag (tagged 0).env 1 = 0 ∧
      (let s := with6 { vehicle6 with state := .stranded }
       segState s.heard 3 = some (.occupied 6) ∧ (findVehicle s.heard 6).map (fun x => (x.2.state, x.2.handOver)) = some (.stranded, .none)) ∧
      (let s := with6 { passing6 with unconfirmed := true }
       strandedAt s.heard 3 = none ∧ unconfirmedAt s.heard 3 = some (2, { passing6 with unconfirmed := true }) ∧ occupied s.env 3 = false) ∧
      (segState stocked.heard 1 = some .free ∧ strandedAt stocked.heard 1 = none ∧ unconfirmedAt stocked.heard 1 = none) := by
  decide +kernel

/-- The occupying INCOMING and PASSING vehicles of a release. -/
theorem witness_SegmentReleaseDecided_tags :
    let s := fun (v : Vehicle) => withSegment (withVehicle { stocked with inputs :=
      { stocked.inputs with occupancy := stocked.inputs.occupancy.set 1 6 } } 2 v) 1 ⟨.blocked, [], false⟩
    (let t := s { vehicle6 with state := .incoming, current := some 1 }
     segState t.heard 1 = some .blocked ∧ occupied t.env 1 = true ∧ (findVehicle t.heard (presentTag t.env 1)).map (·.2.state) = some .incoming) ∧
      (let t := s passing6
       segState t.heard 1 = some .blocked ∧ occupied t.env 1 = true ∧ (findVehicle t.heard (presentTag t.env 1)).map (·.2.state) = some .passing) := by
  decide +kernel

/-- Reelstands 0 and 2 outside the make-up; PREPARED with the speed matched and not; ACCELERATING, MATCHED and SINGLE. -/
theorem witness_SpliceNowDecided :
    stocked.takes terminal .spliceNow = true ∧ splice? stocked.heard 0 = none ∧ splice? stocked.heard 2 = none ∧
      (splice? stocked.heard 1).map (·.state) = some .single ∧
      (∀ st ∈ [SpliceState.prepared, .accelerating, .matched],
        (splice? (withSplice stocked fun x => { x with state := st }).heard 1).map (·.state) = some st) ∧
      (reelIns stocked.env 1).speedMatched = false ∧
      (reelIns (after stocked (.speedMatchedChange 1 true)).env 1).speedMatched = true := by decide +kernel

theorem witness_FaultAckDecided :
    stocked.takes terminal .faultAck = true ∧ stocked.heard.transfer.carriage = .idle ∧
      (∀ x ∈ stocked.heard.splice.stands, x.2.state ≠ .spliceFailed) ∧ stocked.heard.splice.stands.sorted = true := by
  decide +kernel

theorem witness_LogClearDecided :
    stocked.takes terminal .logClear = true ∧ joined.loader.station = .joining ∧ ∃ t, exec (.logClear terminal) joined = .next t :=
  ⟨by decide +kernel, by decide +kernel, _, rfl⟩

/-- The first and the last part of the edition page, one past it, part 0, and a page and an index outside their ranges. -/
theorem witness_ReportRequestAnswered :
    stocked.takes terminal .reportRequest = true ∧
      ((pageData stocked.env stocked.spoilage stocked.heard 1 1).map fun d => (d.length + 19) / 20) = some 4 ∧
      1 ≤ (1#8).toNat ∧ (4#8).toNat ≤ 4 ∧ 4 < (5#8).toNat ∧
      pageData stocked.env stocked.spoilage stocked.heard 0 1 = none ∧ pageData stocked.env stocked.spoilage stocked.heard 8 1 = none ∧
      pageData stocked.env stocked.spoilage stocked.heard 1 0 = none ∧ 1 < partCount (List.replicate 21 0) := by decide +kernel

/-- A zone at rest; a splice under way; a carriage in step 3, in step 4 and HALTED. -/
theorem witness_ZoneRestartDecided :
    stocked.takes terminal .zoneRestart = true ∧
      (¬ ∃ x ∈ stocked.heard.splice.stands, x.2.state ∈ [SpliceState.accelerating, .matched, .pasting, .cutting]) ∧
      stocked.heard.transfer.carriage = .idle ∧
      (let s := withSplice stocked fun x => { x with state := .accelerating }
       ∃ x ∈ s.heard.splice.stands, x.2.state ∈ [SpliceState.accelerating, .matched, .pasting, .cutting]) ∧
      (runningOrder (at' 4).heard).map (·.step) = some 4 ∧ (runningOrder (at' 3).heard).map (·.step) = some 3 ∧
      (zoned stocked fun z => { z with transfer := { z.transfer with carriage := .halted order1 } }).heard.transfer.carriage =
        .halted order1 := by decide +kernel

/-- PRESS STATE in IDLE, in PRODUCTION and in BREAK. -/
theorem witness_PressStateTaken :
    stocked.takes console .pressState = true ∧ stocked.spoilage.condition = .idle ∧
      (let s := after stocked (.runStart console 7 1)
       s.takes console .pressState = true ∧ s.spoilage.condition ≠ .idle) := by decide +kernel

end Sys2Proof.Tests
end

