-- ==== Sys2Proof/Tests/Witnesses2.lean ====
section
/-! SUPPORT. For every statement with hypotheses a state and operands that meet them, clause by clause; the events of chapters
2 to 10. -/

namespace Sys2Proof.Tests

set_option Elab.async false

open Sys2Proof.Machine

/-! ### Events of the track -/

/-- A line active already; each state of the segment read; the vehicle's own tag, another and none. -/
theorem witness_TagReadTaken :
    stocked.inputs.occupancy.has 4 = true ∧ joined.isActive = false ∧ stocked.inputs.occupancy.has 1 = false ∧
      stocked.isActive = true ∧ segState stocked.zone 5 = none ∧ segState stocked.zone 1 = some .free ∧
      (let s := withVehicle (withSegment (withSegment stocked 1 ⟨.granted 6, [], false⟩) 3 ⟨.occupied 6, [], true⟩) 2
         { vehicle6 with state := .moving, granted := some 1 }
       segState s.zone 1 = some (.granted (6#6).toNat) ∧ (findVehicle s.zone (6#6).toNat).map (·.1) = some 2 ∧
         6 ≠ (63#6).toNat ∧ (findVehicle s.zone 6).map (·.2.current) = some (some 3) ∧
         segState s.zone 3 = some (.occupied 6)) ∧
      (let s := withVehicle (withSegment stocked 1 ⟨.reserved 6, [], false⟩) 2
         { vehicle6 with state := .incoming, current := some 1, offeredBy := some 8 }
       segState s.zone 1 = some (.reserved (6#6).toNat) ∧ (findVehicle s.zone (6#6).toNat).map (·.1) = some 2 ∧
         6 ≠ (0#6).toNat) ∧
      segState (withSegment stocked 1 ⟨.blocked, [], false⟩).zone 1 = some .blocked ∧
      segState (withSegment stocked 1 ⟨.occupied 6, [], false⟩).zone 1 = some (.occupied 6) ∧
      (vehicle? stocked.zone 1 = some vehicle5 ∧ vehicle5.current = some 4 ∧ (4 : Nat) ≠ 1 ∧
        segState stocked.zone 4 = some (.occupied vehicle5.number) ∧ occupied stocked.env 4 = true) := by decide +kernel

/-- A segment that was not occupied, one trailing, one current with a grant, with a permit, in PASSING and with none. -/
theorem witness_OccupancyClears :
    stocked.inputs.occupancy.has 1 = false ∧ stocked.inputs.occupancy.has 4 = true ∧ stocked.isActive = true ∧
      segState stocked.zone 4 = some (.occupied 5) ∧ findVehicle stocked.zone 5 = some (1, vehicle5) ∧
      findVehicle (withSegment stocked 4 ⟨.occupied 9, [], false⟩).zone 9 = none ∧
      segState (withSegment stocked 4 ⟨.blocked, [], false⟩).zone 4 = some .blocked ∧
      (vehicle5.trailing ≠ some 4 ∧ vehicle5.current = some 4 ∧ vehicle5.granted = none ∧ vehicle5.state ≠ .passing ∧
        (stocked.zone.track.segments.get? 4).map (·.permit) = some false) ∧
      (let v := { vehicle5 with trailing := some 4, current := some 1 }
       findVehicle (withVehicle stocked 1 v).zone 5 = some (1, v) ∧ v.trailing = some 4) ∧
      (let v := { vehicle5 with current := some 1 }
       findVehicle (withVehicle stocked 1 v).zone 5 = some (1, v) ∧ v.trailing ≠ some 4 ∧ v.current ≠ some 4) ∧
      (let v := { vehicle5 with granted := some 1 }
       findVehicle (withVehicle stocked 1 v).zone 5 = some (1, v) ∧ v.granted ≠ none) ∧
      ((withSegment stocked 4 ⟨.occupied 5, [], true⟩).zone.track.segments.get? 4).map (·.permit) = some true ∧
      (deferredFor stocked.zone 4 = none ∧ (stocked.zone.track.segments.get? 4).map (·.wait) = some []) := by decide +kernel

/-- An input active already, a vehicle that waits for dock 3, a dock that none waits for, a DOCKED vehicle. -/
theorem witness_DockInputsTaken :
    let v := { vehicle5 with purpose := Purpose.ship 8 1 1 1, order := none, current := some 2 }
    let s := withVehicle stocked 1 v
    stocked.inputs.atDock.pin 3 = true ∧ joined.isActive = false ∧ stocked.inputs.atDock.pin 1 = false ∧
      s.zone.track.vehicles.sorted = true ∧
      (let up := { s with inputs := { s.inputs with atDock := s.inputs.atDock.set 2 true } }
       atDockSlots up.env s.zone 2 = [] ∧ atDockSlots up.env s.zone 1 = [1]) ∧
      vehicle? s.zone 1 = some v ∧ v.state = .held ∧ v.granted = none ∧ v.trailing = none := by decide +kernel

/-- An empty vehicle of purpose FETCH whose destination is the receiving dock 2. -/
theorem witness_DockInputsTaken_goal :
    let v := { vehicle5 with purpose := Purpose.fetch 2, current := some 3 }
    let s := withVehicle stocked 1 v
    let up := { s with inputs := { s.inputs with atDock := s.inputs.atDock.set 2 true } }
    s.inputs.atDock.pin 2 = false ∧ s.isActive = true ∧ s.zone.track.vehicles.sorted = true ∧
      atDockSlots up.env s.zone 2 = [1] ∧ vehicle? s.zone 1 = some v ∧ v.state = .held ∧ v.granted = none ∧
      v.trailing = none ∧ goalOf up.env v = .dock 2 := by decide +kernel

/-- Vehicle numbers in the table and not; 20, 300 and 100 ds at their ends and one decisecond before. -/
theorem witness_HandOverTimes :
    stocked.isActive = true ∧ findVehicle stocked.zone 6 = none ∧ findVehicle (with6 offered6).zone 6 = some (2, offered6) ∧
      offered6.handOver = .offered ∧ liesAfter (offered6.handOverTime + 20) (timed (with6 offered6) 20).time = false ∧
      liesAfter (offered6.handOverTime + 20) (timed (with6 offered6) 19).time = true ∧
      (let v := { offered6 with handOver := .deferred, repeatAt := 300 }
       findVehicle (with6 v).zone 6 = some (2, v) ∧ liesAfter v.repeatAt 300 = false ∧ liesAfter v.repeatAt 299 = true) ∧
      (findVehicle (with6 passing6).zone 6 = some (2, passing6) ∧ passing6.handOver = .accepted ∧ passing6.state = .passing ∧
        passing6.unconfirmed = false ∧ liesAfter (passing6.handOverTime + 100) 100 = false ∧
        liesAfter (passing6.handOverTime + 100) 99 = true) := by decide +kernel

/-! ### Events of lanes, carriage and calls -/

/-- A watch 50 ds old and 49 ds old, a disagreeing position, and the restock period at its end and before. -/
theorem witness_LaneEvents :
    let k := (Place.lane 1 3).key
    let watched := zoned stocked fun z => { z with stock := { z.stock with watch := z.stock.watch.set k 0 } }
    stocked.isActive = true ∧ joined.isActive = false ∧ watched.zone.stock.watch.get? k = some 0 ∧
      watched.zone.stock.disagreeing.has k = false ∧ liesAfter (0 + 50) (timed watched 50).time = false ∧
      liesAfter (0 + 50) (timed watched 49).time = true ∧ stocked.zone.stock.watch.get? k = none ∧
      (zoned watched fun z => { z with stock := { z.stock with disagreeing := z.stock.disagreeing.set k () } }).zone.stock.disagreeing.has k
        = true ∧
      liesAfter stocked.zone.stock.restockAt (timed stocked 610).time = false ∧
      liesAfter stocked.zone.stock.restockAt (timed stocked 609).time = true := by decide +kernel

/-- An order in each of its six steps, an input active already, and no running order. -/
theorem witness_CarriageDoneTaken :
    (zoned stocked fun z => { z with transfer := { z.transfer with doneInput := true } }).zone.transfer.doneInput = true ∧
      stocked.zone.transfer.doneInput = false ∧ stocked.isActive = true ∧ runningOrder stocked.zone = none ∧
      (∀ k ∈ [1, 2, 3, 4, 5, 6], runningOrder (at' k).zone = some { order1 with step := k }) := by decide +kernel

/-- PICK at lane 2, and SET there. -/
theorem witness_CarriageDoneTaken_moves :
    (let o := { order1 with step := 3, serial := 0x200, req := { order1.req with serial := 0x200, source := .lane 2 1 } }
     let s := withRoll (withOrder stocked o) (.lane 2 1) { someRoll with state := .butt }
     runningOrder s.zone = some o ∧ sourcePlace s.env o = .lane 2 1 ∧ laneMode? s.env 2 = some .pick ∧
       rollAt s.zone .carriage = none ∧ rollAt s.zone (.lane 2 1) = some { someRoll with state := .butt } ∧
       someRoll.serial = o.serial) ∧
      (let o := { order1 with step := 6, serial := 0x200 }
       let s := withRoll (withOrder stocked o) .carriage { someRoll with state := .inTransfer }
       runningOrder s.zone = some o ∧ o.target = some (.lane 2 1) ∧ o.req.origin = .operator ∧ rollAt s.zone (.lane 2 1) = none ∧
         rollAt s.zone .carriage = some { someRoll with state := .inTransfer } ∧ someRoll.serial = o.serial) := by
  decide +kernel

/-- Each kind of step at its limit and one decisecond before. -/
theorem witness_LimitsExpire :
    stocked.isActive = true ∧ runningOrder stocked.zone = none ∧
      (∀ k ∈ [1, 2, 3, 4, 5, 6], runningOrder (timed (at' k) 1200).zone = some { order1 with step := k }) ∧
      liesAfter (order1.stepStart + 600) 600 = false ∧ liesAfter (order1.stepStart + 600) 599 = true ∧
      liesAfter (order1.stepStart + 1200) 1200 = false ∧ liesAfter (order1.stepStart + 1200) 1199 = true := by decide +kernel

/-- A COLLECTING call at 15 and 14 ds, with offers and without; a TAKING call at 10 and 9 ds; a NO_STOCK call at its time and
before, its need standing and not; a retry at its time and before. -/
theorem witness_CallTimes :
    let late := withCall (timed stocked 300) { call1 with state := .noStock, reissueAt := some 300 }
    (withCall stocked call1).isActive = true ∧ callNumbered (withCall stocked call1).zone call1.number = some call1 ∧
      call1.state = .collecting ∧ call1.windowStart = some 0 ∧ liesAfter (0 + 15) 15 = false ∧ liesAfter (0 + 15) 14 = true ∧
      call1.offers = [] ∧ taking1.offers = offer1 :: [offer2] ∧
      callNumbered (withCall stocked taking1).zone taking1.number = some taking1 ∧ taking1.takeTime = some 0 ∧
      liesAfter (0 + 10) 10 = false ∧ liesAfter (0 + 10) 9 = true ∧
      (taking1.offers.filter fun o => taking1.chosen ≠ some o) = offer2 :: [] ∧
      ([offer1].filter fun o => taking1.chosen ≠ some o) = [] ∧
      callNumbered late.zone 1 = some { call1 with state := .noStock, reissueAt := some 300 } ∧
      liesAfter 300 late.time = false ∧ liesAfter 301 late.time = true ∧ needStands late.env late.zone (.restock 3) = true ∧
      (let full := withRoll late (.lane 3 1) someRoll
       needStands full.env full.zone (.restock 3) = false) ∧
      callNumbered stocked.zone 9 = none ∧
      (let s := zoned late fun z => { z with supply := { z.supply with retries := z.supply.retries.set 5 300 } }
       s.zone.supply.retries.get? 5 = some 300 ∧ s.zone.supply.retries.get? 6 = none) := by decide +kernel

/-! ### Events of the reelstands -/

/-- Arm B found with a roll, with the reelstand SINGLE and EMPTY; a record on it and no roll; agreement; 50 and 49 ds. -/
theorem witness_ArmEvents :
    let k := (Place.arm 1 .b).key
    let watched := fun (s : State) => zoned s fun z => { z with splice := { z.splice with watch := z.splice.watch.set k 0 } }
    let seen := fun (s : State) =>
      ({ s with inputs := { s.inputs with reels := [(1, { ReelIns.idle with presentA := true, presentB := true })] } } : State)
    stocked.isActive = true ∧ joined.isActive = false ∧
      (watched stocked).zone.splice.watch.get? k = some 0 ∧ liesAfter (0 + 50) (timed (watched stocked) 50).time = false ∧
      liesAfter (0 + 50) (timed (watched stocked) 49).time = true ∧
      (let s := seen (watched stocked)
       rollPresent s.env 1 .b = true ∧ rollAt s.zone (.arm 1 .b) = none) ∧
      (let s := withSplice (seen (watched bare)) fun x => { x with state := .empty }
       rollPresent s.env 1 .b = true ∧ rollAt s.zone (.arm 1 .b) = none ∧
         (s.zone.splice.stands.get? 1).map (·.state) = some .empty) ∧
      (let s := withRoll (watched stocked) (.arm 1 .b) { someRoll with state := .standby }
       rollPresent s.env 1 .b = false ∧ rollAt s.zone (.arm 1 .b) = some { someRoll with state := .standby } ∧
         (s.zone.splice.stands.get? 1).map (fun y => (y.state, y.running)) = some (.single, some .a) ∧
         someRoll.reservation = none) ∧
      rollPresent (watched stocked).env 1 .b = (rollAt (watched stocked).zone (.arm 1 .b)).isSome := by decide +kernel

/-- START, INERT, JOINING and ACTIVE; a gate at its end and before. -/
theorem witness_EncoderCounts :
    started.loader.held = false ∧ started.loader.station = .start ∧ dead.loader.station = .inert ∧
      joined.loader.station = .joining ∧ stocked.loader.station = .active ∧
      missingIndexDue stocked.env stocked.zone 1 = false ∧ missingIndexDue joined.env joined.zone 1 = false ∧
      stocked.webs.get? 1 = some ⟨0, 0, 0, 0⟩ ∧ liesAfter ((0 : Time) + 1) (timed stocked 1).time = false ∧
      liesAfter ((0 : Time) + 1) (timed stocked 0).time = true := by decide +kernel

/-- The running arm NO_ROLL, speeds 99 and 100, a seeded and an unseeded record, L_rem at L_splice and 1 mm above. -/
theorem witness_EstimatesAndMeasurements_estimate :
    let y : Reel := ⟨seeded107, Meas.initial, 65535⟩
    (⟨Meas.initial, Meas.initial, 0⟩ : Reel).running = none ∧ y.running = some .a ∧ (99 : Nat) < 100 ∧ (100 : Nat) ≤ 100 ∧
      (y.meas .a).seed ≠ .unseeded ∧ (y.meas .a).spliceLength < (y.meas .a).remaining ∧
      ((⟨{ seeded107 with remaining := 397885 }, Meas.initial, 0⟩ : Reel).meas .a).remaining ≤ 397885 ∧
      (let u : Reel := ⟨{ seeded107 with seed := .unseeded }, Meas.initial, 0⟩
       u.running = some .a ∧ (u.meas .a).seed = .unseeded ∧ (u.meas .a).state = .seeded) := by decide +kernel

/-- Records with and without a reference, in SEEDED and in MEASURING; a reading at each edge of the range, 301 and 6,000, and
outside it, 300 and 6,001; at each edge of the band about an average of 1,600, 1,500 and 1,625, and outside it. -/
theorem witness_EstimatesAndMeasurements_point :
    let m := { seeded107 with state := .measuring, average := some 1600, readings := [1600, 1600, 1600, 1600], reference := some 0 }
    seeded107.seed = .fromRecord ∧ seeded107.reference = none ∧ m.reference = some 0 ∧ m.state = .measuring ∧
      (6000 < 6001 ∧ ¬ (6000 < 6000) ∧ 300 ≤ 300 ∧ ¬ (301 ≤ 300)) ∧
      ((1600 - 1600 / 16 ≤ 1500 ∧ 1500 ≤ 1600 + 1600 / 64) ∧ ¬ (1600 - 1600 / 16 ≤ 1499) ∧ 1625 ≤ 1600 + 1600 / 64 ∧
        ¬ (1626 ≤ 1600 + 1600 / 64)) ∧
      ((1500#40) - (0#40)).toNat = 1500 ∧ seeded107.readings.length ≠ 3 ∧
      ({ seeded107 with readings := [1600, 1600, 1600] } : Meas).readings.length = 3 ∧ m.rejects + 1 ≠ 3 ∧
      ({ m with rejects := 2 } : Meas).rejects + 1 = 3 ∧ Meas.initial.state = .noRoll ∧
      ({ m with state := .deadReckoning } : Meas).state = .deadReckoning := by decide +kernel

/-- An index of the running arm that sets the first reference, in SINGLE and in CUTTING; one of the standby arm in MATCHED with
the paste armed and not; a missing-index point at 6,001 mm and at 6,000. -/
theorem witness_RevolutionIndexTaken :
    stocked.measures = true ∧ stocked.zone.reels.get? 1 = some ⟨seeded107, Meas.initial, 65535⟩ ∧
      stocked.env.img.reel? 1 = some ⟨300, 700, 400, 80, 100, 900, 20000, true⟩ ∧
      (stocked.zone.splice.stands.get? 1).isSome ∧
      (⟨seeded107, Meas.initial, 65535⟩ : Reel).running = some .a ∧ seeded107.reference = none ∧
      (seeded107.point 300 0 false).remaining = seeded107.remaining ∧ (seeded107.point 300 0 false).state = seeded107.state ∧
      ((withSplice stocked fun w => { w with state := .cutting, knifeArmed := some 0 }).zone.splice.stands.get? 1).map
        (fun w => (w.state, w.knifeArmed)) = some (.cutting, some 0) ∧
      ((withSplice stocked fun w => { w with state := .matched, pasteArmed := true }).zone.splice.stands.get? 1).map
        (fun w => (w.state, w.pasteArmed, w.running)) = some (.matched, true, some Arm.b.other) ∧
      (let m := { seeded107 with reference := some 0 }
       let y : Reel := ⟨m, Meas.initial, 65535⟩
       y.running = some .a ∧ 6001 ≤ ((6001#40) - (0#40)).toNat ∧ ¬ (6001 ≤ ((6000#40) - (0#40)).toNat) ∧
         (m.point 300 6001 true).state = m.state ∧ (m.point 300 6001 true).remaining = m.remaining) ∧
      (let m := { seeded107 with reference := some 0, fed := 10000 }
       (m.point 300 6001 true).state = m.state ∧ (m.point 300 6001 true).remaining ≠ m.remaining) := by decide +kernel

/-- Each level as it is and changed; each splice state of the clauses; the match timer at its end and before. -/
theorem witness_AccelerationInputs :
    let st := fun (x : SpliceState) => withSplice stocked fun w => { w with state := x, matchTimer := some 300 }
    stocked.isActive = true ∧ (stocked.zone.splice.stands.get? 1).isSome ∧
      ((stocked.inputs.reels.get? 1).map fun i => (i.standbyReady, i.speedMatched)) = some (false, false) ∧
      (∀ x ∈ [SpliceState.loaded, .prepared, .accelerating, .matched, .single],
        ((st x).zone.splice.stands.get? 1).map (·.state) = some x) ∧
      ((st .accelerating).zone.splice.stands.get? 1).map (fun w => (w.matchTimer, w.deferred)) = some (some 300, []) ∧
      liesAfter 300 (timed (st .accelerating) 300).time = false ∧ liesAfter 300 (timed (st .accelerating) 299).time = true := by
  decide +kernel

/-- PASTING, CUTTING and SPLICE_FAILED with their flags; each timer at its end and before. -/
theorem witness_PasteAndKnife :
    let st := fun (f : Splice → Splice) => ((withSplice stocked f).zone.splice.stands.get? 1)
    stocked.isActive = true ∧ (st id).map (fun w => (w.state, w.running, w.deferred)) = some (.single, some .a, []) ∧
      (st fun w => { w with state := .pasting, pasteTimer := some 20 }).map (fun w => (w.state, w.pasteTimer)) =
        some (.pasting, some 20) ∧
      (st fun w => { w with state := .spliceFailed, pasteFired := true }).map (fun w => (w.state, w.pasteFired, w.pasteDone)) =
        some (.spliceFailed, true, false) ∧
      (st fun w => { w with state := .cutting, knifeArmed := some 0, knifeTimer := some 20, knifeFired := true }).map
        (fun w => (w.state, w.knifeArmed, w.knifeTimer, w.knifeFired, w.knifeDone)) =
          some (.cutting, some 0, some 20, true, false) ∧
      liesAfter 20 20 = false ∧ liesAfter 20 19 = true ∧ liesAfter (0 + 10) 10 = false ∧ liesAfter (0 + 10) 9 = true := by
  decide +kernel

/-! ### Events of the press -/

/-- A reelstand in the make-up and one outside; a running roll at its first break, at the threshold and unidentified; an input
active already; no running arm; JOINING. -/
theorem witness_WebBreaksTaken :
    let broken := ({ stocked with inputs := { stocked.inputs with reels := [(1, { ReelIns.idle with webBreak := true })] } } : State)
    ((stocked.inputs.reels.get? 1).getD ReelIns.idle).webBreak = false ∧
      ((broken.inputs.reels.get? 1).getD ReelIns.idle).webBreak = true ∧ dead.measures = false ∧
      stocked.env.img.reel? 2 = none ∧ stocked.measures = true ∧ stocked.loader.image ≠ none ∧
      stocked.env.img.reel? 1 ≠ none ∧ runningArm bare.zone 1 = none ∧ runningArm stocked.zone 1 = some .a ∧
      rollAt stocked.zone (.arm 1 .a) = some roll107 ∧
      ¬ (0 < stocked.env.img.lotThreshold ∧ stocked.env.img.lotThreshold ≤ min 7 (roll107.breaks + 1)) ∧
      (let w := { roll107 with breaks := 1 }
       rollAt (withRoll stocked (.arm 1 .a) w).zone (.arm 1 .a) = some w ∧ 0 < stocked.env.img.lotThreshold ∧
         stocked.env.img.lotThreshold ≤ min 7 (w.breaks + 1) ∧ w.defect = false ∧ w.serial ≠ 0) ∧
      (let s := withRoll { stocked with loader := { stocked.loader with station := .joining } } (.arm 1 .a) { roll107 with breaks := 7 }
       s.isActive = false ∧ s.measures = true ∧ runningArm s.zone 1 = some .a ∧
         rollAt s.zone (.arm 1 .a) = some { roll107 with breaks := 7 } ∧ min 7 (7 + 1) = 7) ∧
      (rollAt ready.zone (.arm 1 .a)).map (·.serial) = some 0 := by decide +kernel

/-- A gate that changes to good in each condition that it opens, and in the others. -/
theorem witness_WasteGateTaken :
    let s := fun (c : PressCondition) =>
      ({ stocked with inputs := { stocked.inputs with wasteGate := true }
                      spoilage := { stocked.spoilage with condition := c } } : State)
    (s .makeready).inputs.wasteGate = true ∧ (s .makeready).measures = true ∧ (s .makeready).env.img.reels ≠ [] ∧
      (s .makeready).spoilage.condition = .makeready ∧ (s .changeover).spoilage.condition = .changeover ∧
      ((s .broken).spoilage.condition = .broken ∧
        breakActive ({ s .broken with inputs := { (s .broken).inputs with wasteGate := false } } : State).env = false) ∧
      (s .idle).spoilage.condition ≠ .makeready ∧ stocked.inputs.wasteGate = false := by decide +kernel

/-- A copy that does not fill the window of 4 copies and one that does; a window already full. -/
theorem witness_CopyPulseTaken :
    stocked.measures = true ∧ stocked.env.img.reels ≠ [] ∧ stocked.loader.image ≠ none ∧
      (4 + stocked.env.img.rateX) * 2 ^ stocked.env.img.rateY / 4 = 4 ∧
      (let run := { stocked.spoilage with condition := .production, windowCopies := 2 }
       (run.countCopy .good false 560 [1]).windowCopies = 3) ∧
      (let run := { stocked.spoilage with condition := .production, windowCopies := 3 }
       (run.countCopy .good false 560 [1]).windowCopies = 4) ∧
      stocked.spoilage.windowCopies < 4 ∧ (4 : Nat) ≤ ({ stocked.spoilage with windowCopies := 4 } : Spoilage).windowCopies ∧
      dead.measures = false := by decide +kernel

/-- Every category but IDLE and GOOD is waste; a length that carries and one at its greatest. -/
theorem witness_CopiesCounted :
    (PressCondition.production = .production ∧ Category.splice ≠ .idle ∧ Category.good ≠ .idle ∧ Category.running ≠ .good) ∧
      ((⟨5, 999⟩ : Metres).rest < 1000 ∧ 5 + (999 + 560 * 1) / 1000 ≤ 4294967295) ∧
      (4294967295 + (0 + 560 * 1) / 1000 ≤ 4294967295) ∧ ([1, 2] : List Nat).Nodup ∧ (1 : Nat) ∈ [1, 2] ∧ (3 : Nat) ∉ [1, 2] := by
  decide +kernel

/-- A mark at the path length and 1 mm short of it; accounts of 0 m, of serial 0, of an own roll and of a stranger's, and of a
roll on a vehicle in PASSING. -/
theorem witness_MarkArrivesAndAccountCloses :
    let w : WebPath := { WebPath.initial with marks := [⟨0, 0x107, 0x105⟩], folderRoll := some 0x107, wasteLength := 1000 }
    let s := withWeb stocked fun _ => w
    s.zone.folder.webs.get? 1 = some w ∧ (s.env.img.reel? 1).map (·.path) = some 20000 ∧ w.marks = ⟨0, 0x107, 0x105⟩ :: [] ∧
      (20000 ≤ ((20000#40) - (0#40)).toNat ∧ ((19999#40) - (0#40)).toNat < 20000) ∧
      stocked.zone.folder.webs.get? 1 = some WebPath.initial ∧ WebPath.initial.marks = [] ∧
      999 / 1000 = 0 ∧ w.wasteLength / 1000 ≠ 0 ∧
      ((findSerial s.zone 0x107).map (·.1) = some 529 ∧ onPassing s.zone 529 = false) ∧ findSerial s.zone 0x999 = none ∧
      (let p := withRoll (with6 passing6) (.vehicle 2) someRoll
       findSerial p.zone 0x200 = some (770, someRoll) ∧ onPassing p.zone 770 = true) := by decide +kernel

/-! ### Faults -/

def occurred (c : FaultCode) : Occurrence := ⟨c, 0, []⟩

/-- A class without an entry and one at its greatest count; a lead context that is graver, equal and absent. -/
theorem witness_FaultsRecorded :
    let f : FaultRecord := ⟨[(1, ⟨.degrading, 255, occurred .stranded⟩)], some (occurred .stranded), some 3⟩
    f.entries.get? FaultCode.noStock.cls.index = none ∧
      f.entries.get? FaultCode.intrusion.cls.index = some ⟨.degrading, 255, occurred .stranded⟩ ∧ f.entries.sorted = true ∧
      f.lead = some (occurred .stranded) ∧
      FaultCode.stranded.severity.code ≤ FaultCode.intrusion.severity.code ∧
      FaultCode.rateHigh.severity.code < FaultCode.stranded.severity.code ∧ (⟨[], none, none⟩ : FaultRecord).lead = none := by
  decide +kernel

/-- Every level with a code of every severity. -/
theorem witness_FaultsReported :
    stocked.zone.faults.level = some 3 ∧ (3 : Nat) ≤ 3 ∧ FaultCode.intrusion.severity = .stopping ∧
      FaultCode.stranded.severity = .degrading ∧ FaultCode.rateHigh.severity = .notice ∧
      (∀ l ∈ [0, 1, 2], ({ stocked.zone with faults := ⟨[], none, some l⟩ } : Zone).faults.level = some l) := by
  decide +kernel

/-- A zone at rest in ACTIVE, and one in JOINING. -/
theorem witness_EventsAtRestEnd :
    stocked.loader.station = .active ∧ stocked.zone.atRest stocked.env = true ∧ joined.loader.station ≠ .active ∧
      activeOnly (.pasteDone 1) = true ∧ joined.isActive = false := by decide +kernel

end Sys2Proof.Tests
end

