-- ==== Sys2Proof/Tests/Witnesses3.lean ====
section
/-! SUPPORT. Witnesses for the clauses on shared operations: orders, splices, hand-over, calls, restart, outputs and pages. For
every clause with hypotheses a state and operands that meet them, at the edges of the ranges where it has a range. -/

namespace Sys2Proof.Tests

set_option Elab.async false

open Sys2Proof.Machine

/-! ### Invariant and outputs -/

theorem witness_StepKeepsTablesSound : stocked.tablesSound = true ∧ ∃ t, step stocked = .next t :=
  ⟨by decide +kernel, _, rfl⟩

/-- RESET held, JOINING and ACTIVE; a permit, points and a reelstand with their records; a line with its bit. -/
theorem witness_ResetTaken_outputs :
    (held stocked).loader.held = true ∧ joined.loader.station ≠ .active ∧ stocked.loader.held = false ∧
      stocked.loader.station = .active ∧ stocked.zone.track.segments.get? 1 = some ⟨.free, [], false⟩ ∧
      stocked.zone.track.points.get? 1 = some 1 ∧ (stocked.zone.splice.stands.get? 1).isSome ∧
      stocked.outputActive (.permit 1) = some false ∧ started.loader.image = none ∧ stocked.loader.image = some demoImage ∧
      FieldLine.bit (.permit 1) = some 16 ∧ FieldLine.bit .pressStop = some 146 := by decide +kernel

/-! ### Frames: offers, slots and segments -/

def taken6 : PassOffer :=
  { number := 6, home := 8, target := 1, purpose := .home, roll := none, station := 8, time := 0, claim := 3 }
/-- Offers deferred, with the segment 1 FREE. -/
def deferring (l : List PassOffer) : State := zoned stocked fun z => { z with track := { z.track with deferred := l } }

/-- An offer deferred already; its number in another record, with 3 and 4 offers deferred. -/
theorem witness_PassOfferReceived_repeated :
    boundaryEntry stocked.env.img taken6.station taken6.target = true ∧
      ((deferring [taken6]).zone.track.deferred = [taken6] ∧ findVehicle (deferring [taken6]).zone taken6.number = none) ∧
      (let l := fun n => (upTo n).map fun k => { taken6 with number := k + 20 }
       let s := fun n => withVehicle (deferring (l n)) 2 vehicle6
       findVehicle (s 3).zone 6 = some (2, vehicle6) ∧ vehicle6.state ≠ .incoming ∧
         (∀ d ∈ (s 3).zone.track.deferred, d.number ≠ taken6.number) ∧ (s 3).zone.track.deferred.length < 4 ∧
         4 ≤ (s 4).zone.track.deferred.length ∧ ∀ d ∈ (s 4).zone.track.deferred, d.number ≠ taken6.number) := by
  decide +kernel

/-- Slot 2 free and every slot taken; an offer that fits, and one whose target is not FREE; the number that left. -/
theorem witness_HandOverAnswersTaken_freed :
    let full := zoned stocked fun z => { z with track := { z.track with
      vehicles := (upTo 8).map fun k => (k, { vehicle5 with number := k }) } }
    let s := deferring [{ taken6 with number := 7, target := 4 }, taken6]
    freeVehicleSlot full.zone = none ∧ freeVehicleSlot s.zone = some 2 ∧
      s.zone.track.deferred = [{ taken6 with number := 7, target := 4 }] ++ taken6 :: [] ∧
      (segState s.zone 1 = some .free ∧ findVehicle s.zone 6 = none) ∧ segState s.zone 4 ≠ some .free ∧
      (passing6.current = some 3 ∧ segState (with6 passing6).zone 3 = some (.occupied passing6.number) ∧
        segState (withSegment (with6 passing6) 3 ⟨.blocked, [], false⟩).zone 3 = some .blocked) := by decide +kernel

/-- A wait list with no deferred offer, with an older and a younger one, with one that cannot be accepted; an offer alone. -/
theorem witness_OccupancyClears_handed :
    let s := fun (c : Nat) (l : List PassOffer) =>
      withSegment (withVehicle (deferring l) 2 { vehicle6 with claim := c }) 1 ⟨.occupied 9, [6], false⟩
    let o := { taken6 with number := 7 }
    (s 2 []).zone.track.segments.get? 1 = some ⟨.occupied 9, [6], false⟩ ∧
      findVehicle (s 2 []).zone 6 = some (2, { vehicle6 with claim := 2 }) ∧ deferredFor (s 2 []).zone 1 = none ∧
      (deferredFor (s 2 [o]).zone 1 = some o ∧ 2 < o.claim) ∧
      (deferredFor (s 4 [o]).zone 1 = some o ∧ ¬ 4 < o.claim ∧ freeVehicleSlot (s 4 [o]).zone = some 3 ∧
        findVehicle (s 4 [o]).zone o.number = none) ∧
      (let w := deferring [o]
       deferredFor w.zone 1 = some o ∧ (w.zone.track.segments.get? 1).map (·.wait) = some [] ∧
         freeVehicleSlot w.zone = some 2 ∧ findVehicle w.zone 7 = none) ∧
      (deferredFor (s 4 [taken6]).zone 1 = some taken6 ∧ findVehicle (s 4 [taken6]).zone taken6.number ≠ none) := by
  decide +kernel

/-! ### Events of the track -/

/-- An empty and a loaded incoming vehicle; a carried roll that is new and one that the table holds. -/
theorem witness_TagReadTaken_arrives :
    let v := { vehicle6 with state := .incoming, current := some 1, offeredBy := some 8 }
    let s := fun r => withVehicle stocked 2 { v with loaded := true, carried := some r }
    vehicle? (withVehicle stocked 2 v).zone 2 = some v ∧ v.offeredBy = some 8 ∧ v.carried = none ∧ v.loaded = false ∧
      vehicle? (s someRoll).zone 2 = some { v with loaded := true, carried := some someRoll } ∧
      findSerial (s someRoll).zone someRoll.serial = none ∧
      (roll105.serial ≠ 0 ∧ findSerial (s roll105).zone roll105.serial ≠ none) := by decide +kernel

/-- A route, no route and a HOME vehicle without a PARKING dock; each case of asking for a grant. -/
theorem witness_TagReadTaken_routes :
    let img := { demoImage with docks := [⟨2, .loading⟩, ⟨3, .receiving⟩] }
    let e := { stocked.env with img := img }
    let go := { vehicle5 with route := [1], state := VehState.held }
    (vehicle? stocked.zone 1 = some vehicle5 ∧ vehicle5.granted = none ∧ vehicle5.current = some 4) ∧
      (routeFor stocked.env (.dock 2) 4).isSome ∧ routeFor stocked.env (.dock 9) 4 = none ∧
      (let h := { vehicle5 with purpose := .home }
       goalOf e h = .nearestPark ∧ parkingDocks e.img = [] ∧ h.state = .held ∧ (routeFor e (goalOf e h) 4).isSome) ∧
      (vehicle5.route = [] ∧ vehicle5.trailing = none ∧ ({ vehicle5 with state := .docked } : Vehicle).state ≠ .moving) ∧
      (go.route = 1 :: [] ∧ inWaitList (withVehicle stocked 1 go).zone go.number = false ∧
        (withVehicle stocked 1 go).zone.track.segments.get? 1 = some ⟨.free, [], false⟩) ∧
      (let s := fun n => withSegment (withVehicle stocked 1 go) 1 ⟨.blocked, (upTo n).map (· + 10), false⟩
       ((s 6).zone.track.segments.get? 1).map (fun x => x.wait.length) = some 6 ∧
         ((s 7).zone.track.segments.get? 1).map (fun x => x.wait.length) = some 7 ∧ inWaitList (s 7).zone 5 = false) ∧
      (demoImage.segment? 4).isSome := by decide +kernel

/-- A vehicle at the receiving dock with a load and without; an order whose dock trigger is its dock. -/
theorem witness_DockInputsTaken_docked :
    let v := { vehicle5 with purpose := Purpose.returnTo 4, current := some 3 }
    let s := withVehicle stocked 1 v
    let o : Order := { order1 with vehicle := some 5, req := { order1.req with dockTrigger := some 2, armTrigger := none } }
    vehicle? s.zone 1 = some v ∧ v.purpose = .returnTo 4 ∧ s.env.img.receivingDock = some 2 ∧
      s.env.img.receivingDock ≠ some 1 ∧ o.req.dockTrigger = some 2 ∧ o.req.armTrigger = none ∧ o.vehicle = some v.number ∧
      findVehicle s.zone v.number = some (1, v) ∧ v.current ≠ none ∧ v.current = dockSegment s.env.img 2 := by decide +kernel

/-- The cases of SEGMENT RELEASE: a record that names this segment and another; an old segment that shows occupancy and one
that does not; loaded, and empty with and without an order that waits; a grant and none. -/
theorem witness_SegmentReleaseDecided_placed :
    let v := { vehicle6 with state := .incoming, current := some 1, offeredBy := some 8 }
    v.current = some 1 ∧
      (let t := arriveIncoming stocked.env 2 2 (withSegment (withVehicle stocked 2 v) 1 ⟨.reserved 6, [], false⟩).zone
       segState t 1 = some (.reserved v.number)) ∧
      (let s := withVehicle stocked 1 { vehicle5 with state := .stranded }
       let left := withdrawGrant s.env 1 (leaveWaits s.env 5 s.zone)
       vehicle5.current = some 4 ∧ vehicle5.trailing = none ∧ segState left 4 = some (.occupied 5) ∧ occupied s.env 4 = true ∧
         occupied s.env 3 = false) ∧
      oldestWaiting stocked.zone = none ∧
      (let o : Order := { order1 with state := .waitingTrigger, step := 0, target := none,
                                      req := { order1.req with origin := .ship, dockTrigger := some 1 } }
       let s := zoned stocked fun z => { z with transfer := { z.transfer with ordersP := [o] } }
       oldestWaiting s.zone = some o ∧ o.req.dockTrigger = some 1) ∧
      (vehicle5.loaded = false ∧ vehicle5.order = none ∧ ({ vehicle5 with loaded := true } : Vehicle).loaded = true ∧
        inWaitList stocked.zone 5 = false ∧ vehicle5.granted = none) ∧
      (let g := { vehicle5 with granted := some 1 }
       vehicle? (withVehicle stocked 1 g).zone 1 = some g ∧ g.granted = some 1 ∧ g.current = some 4 ∧
         segState (withVehicle stocked 1 g).zone 4 = some (.occupied g.number)) := by decide +kernel

/-! ### Orders -/

/-- An order of P that is READY, a SUSPENDED and a READY one of O, and none; the carriage HALTED, IDLE and RUNNING in steps
2 and 5. -/
theorem witness_OrdersSelected :
    let o := { order1 with number := 2, state := .suspended, req := { order1.req with queue := .o, serial := 0x106 }, serial := 0x106 }
    let s := fun (p q : List Order) (c : Carriage) =>
      (zoned stocked fun z => { z with transfer := { z.transfer with ordersP := p, ordersO := q, carriage := c } }).zone
    let ready := fun (x : Order) => { x with state := .ready, step := 0 }
    let t := fun p q c => (refreshTriggers stocked.env (s p q c)).transfer
    (s [] [] (.halted order1)).transfer.carriage = .halted order1 ∧ (s [] [] .idle).transfer.carriage = .idle ∧
      (t [ready order1] [] .idle).ordersP = [] ++ ready order1 :: [] ∧
      ((t [] [o] .idle).ordersP = [] ∧ (t [] [o] .idle).ordersO = [] ++ o :: []) ∧
      ((t [] [ready o] .idle).ordersO = [] ++ ready o :: [] ∧ ∀ x ∈ (t [] [ready o] .idle).ordersO, x.state ≠ .suspended) ∧
      (∀ k ∈ [1, 2, 3, 5], runningOrder (refreshTriggers stocked.env
        (s [ready order1] [{ o with state := .running, step := k }] (.running 2))) = some { o with state := .running, step := k }) ∧
      triggerHolds stocked.env (s [ready order1] [] .idle) (ready order1) = true := by decide +kernel

/-- A source that is a THROUGH lane and one that is not; serial 0 with a record at position 1, one behind it only, one whose
serial another order has, and an empty lane. -/
theorem witness_OrdersSelected_begin :
    let through := { order1 with req := { order1.req with serial := 0 } }
    let pick := { order1 with req := { order1.req with serial := 0, source := .lane 2 1 } }
    laneMode? stocked.env 1 = some .through ∧ laneMode? stocked.env 2 = some .pick ∧ order1.req.serial ≠ 0 ∧
      through.req.serial = 0 ∧ through.req.source = .lane 1 1 ∧ pick.req.source = .lane 2 1 ∧
      (rollAt stocked.zone (.lane 1 1) = some roll105 ∧ roll105.serial ≠ 0) ∧
      (let s := zoned stocked fun z => eraseRoll (.lane 1 1) z
       rollAt s.zone (.lane 1 1) = none ∧ 1 ≤ 2 ∧ 2 ≤ lanePositions s.env 1 ∧ rollAt s.zone (.lane 1 2) ≠ none) ∧
      (let s := zoned stocked fun z => { z with transfer := { z.transfer with
         ordersP := [through, { order1 with number := 3, serial := 0x105 }] } }
       ∃ x ∈ allOrders s.zone, x.number ≠ through.number ∧ x.serial = roll105.serial) ∧
      (lanePositions stocked.env 1 = 4 ∧ ∀ p ∈ upTo 4, rollAt bare.zone (.lane 1 p) = none) ∧
      stocked.env.img.resume = .resumeStep ∧ ({ demoImage with resume := .restartOrder } : Image).resume = .restartOrder := by
  decide +kernel

/-- The sources of a resumed order: each with its serial there and gone. -/
theorem witness_OrdersSelected_resume :
    let v := { vehicle5 with loaded := true }
    let s := withRoll (withVehicle stocked 1 v) (.vehicle 1) someRoll
    (rollAt stocked.zone (.lane 1 1) = some roll105 ∧ roll105.serial = order1.serial ∧ (1 : Nat) ≤ lanePositions stocked.env 1) ∧
      (∀ p ∈ upTo 4, (rollAt stocked.zone (.lane 1 p)).map (·.serial) ≠ some 0x999) ∧
      rollAt stocked.zone (.lane 2 1) = none ∧ rollAt stocked.zone (.arm 1 .a) = some roll107 ∧
      rollAt stocked.zone (.arm 1 .b) = none ∧
      ((some 5).bind (findVehicle s.zone) = some (1, v) ∧ rollAt s.zone (.vehicle 1) = some someRoll) ∧
      rollAt stocked.zone (.vehicle 1) = none := by decide +kernel

/-- Step 2 at a lane in service and out of it, with its roll there and its detector on and off; at an arm; at a dock. -/
theorem witness_OrdersSelected_take :
    let o := { order1 with step := 2 }
    let dock := { order1 with vehicle := some 5, req := { order1.req with source := .dock 3 } }
    (sourcePlace stocked.env o = .lane 1 1 ∧ (laneRec stocked.zone 1).map (·.inService) = some true ∧
      (rollAt stocked.zone (.lane 1 1)).map (·.serial) = some o.serial ∧ laneDetector stocked.env 1 1 = true ∧
      laneDetector (after stocked (.laneDetectorChange 1 1 false)).env 1 1 = false) ∧
      (rollAt stocked.zone (.lane 1 2)).map (·.serial) = some 0x106 ∧
      (laneRec (after stocked (.laneServiceOut terminal 1)).zone 1).map (·.inService) = some false ∧
      (let p := { o with req := { o.req with source := .lane 2 1 } }
       sourcePlace stocked.env p = .lane 2 1 ∧ laneMode? stocked.env 2 = some .pick ∧ rollAt stocked.zone (.lane 2 1) = none) ∧
      (let a := { o with serial := 0x107, req := { o.req with source := .arm 1 .a } }
       sourcePlace stocked.env a = .arm 1 .a ∧ mayEmpty stocked.env stocked.zone 1 .a = false ∧
         (let s := withSplice (after stocked (.armOpenChange 1 .a true)) fun w => { w with running := some .b }
          mayEmpty s.env (setRoll (.arm 1 .a) { roll107 with state := .butt } s.zone) 1 .a = true)) ∧
      (sourcePlace stocked.env dock = .dock 3 ∧ dock.vehicle.bind (findVehicle stocked.zone) = some (1, vehicle5) ∧
        dockedAt stocked.env stocked.zone 5 3 = false ∧
        dockedAt stocked.env (withVehicle stocked 1 { vehicle5 with state := .docked }).zone 5 3 = true ∧
        order1.vehicle.bind (findVehicle stocked.zone) = none) := by decide +kernel

/-- Step 5 at a lane free and taken, at a THROUGH lane with a free position and full, at an arm that may be loaded and not, with
a quarantined roll gripped, at a SCRAP dock and another, and with no target. -/
theorem witness_OrdersSelected_put :
    let gripping := withRoll stocked .carriage { someRoll with state := .inTransfer }
    (order1.target = some (.lane 2 1) ∧ rollAt stocked.zone (.lane 2 1) = none ∧ laneDetector stocked.env 2 1 = false ∧
      (laneRec stocked.zone 2).map (·.inService) = some true) ∧
      (rollAt stocked.zone (.lane 1 3) = none ∧ laneDetector stocked.env 1 3 = false ∧
        rollAt stocked.zone (.lane 1 1) ≠ none ∧ rollAt stocked.zone (.lane 1 2) ≠ none) ∧
      (let full := withRoll (withRoll stocked (.lane 1 3) someRoll) (.lane 1 4) { someRoll with serial := 0x201 }
       ∀ k ∈ upTo 4, rollAt full.zone (.lane 1 k) ≠ none) ∧
      (quarantined gripping.zone 0x200 = false ∧ mayLoad stocked.env stocked.zone 1 .b = true ∧
        rollAt stocked.zone (.arm 1 .b) = none ∧ mayLoad stocked.env stocked.zone 1 .a = false) ∧
      (let s := after gripping (.quarantineSet terminal 2 0x200 0x200)
       quarantined s.zone (((rollAt s.zone .carriage).map Roll.serial).getD 0) = true ∧
         (storageChoice s.env s.zone .stock).isSome) ∧
      ((stocked.env.img.dock? 4).map (·.role) = some .scrap ∧ (stocked.env.img.dock? 2).map (·.role) = some .receiving) ∧
      (({ order1 with target := none, req := { order1.req with dest := .anyStock } } : Order).target = none ∧
        storageChoice stocked.env stocked.zone .stock = some (.lane 1 3) ∧
        storageChoice (after stocked (.laneServiceOut terminal 2)).env (after stocked (.laneServiceOut terminal 2)).zone .butt = none) := by
  decide +kernel

/-- A CALL_LOAD order with its reservation and a captured vehicle. -/
theorem witness_LimitsExpire_ends :
    let o := { order1 with vehicle := some 5, req := { order1.req with origin := .callLoad, callRef := some ⟨4, 1, 0⟩ } }
    let r := { roll105 with reservation := some ⟨4, 1, 0⟩, state := .reserved }
    let s := withRoll (withVehicle stocked 1 { vehicle5 with order := some 1 }) (.lane 1 1) r
    reservationKey s.zone 4 1 = some 273 ∧ s.zone.stock.rolls.get? 273 = some r ∧ r.reservation ≠ none ∧
      (let g := withRoll stocked .carriage { r with serial := 0x200 }
       reservationKey g.zone 4 1 = some 1024) ∧
      findVehicle s.zone 5 = some (1, { vehicle5 with order := some 1 }) ∧ o.vehicle = some 5 ∧
      (noticeKey order1.req.source).isSome ∧ Reason.stepLimit ≠ .withdrawn ∧
      (withOrder stocked order1).zone.transfer.carriage = .running order1.number := by decide +kernel

/-- Requests of the blocks: ordered already, a full queue with 31 and 32 held, room; a freed slot with and without one held. -/
theorem witness_OrderRequestsDecided_internal :
    let r := { order1.req with origin := .buttClear, serial := 0x300, source := .arm 1 .a, dest := .anyButt }
    let many := fun (n : Nat) => (upTo n).map fun k => { order1 with number := k, serial := BitVec.ofNat 32 (0x700 + k) }
    let s := fun (n h : Nat) => (zoned stocked fun z => { z with transfer := { z.transfer with
      ordersP := many n, heldP := List.replicate h r } }).zone
    (roll105.serial ≠ 0 ∧ ∃ o ∈ allOrders (at' 1).zone, o.serial = 0x105) ∧ stocked.env.img.queueB = 8 ∧
      (ordersOf (s 8 0) .p).length = 8 ∧ (ordersOf (s 7 0) .p).length < 8 ∧ (heldOf (s 8 31) .p).length < 32 ∧
      32 ≤ (heldOf (s 8 32) .p).length ∧ (∀ o ∈ allOrders (s 8 0), o.serial ≠ r.serial) ∧
      heldOf (s 7 1) .p = r :: [] ∧ heldOf (s 7 0) .p = [] ∧
      (demoImage.loadingDock = some 1 ∧ demoImage.buttReturn = 0 ∧ (∃ c ∈ demoImage.lanes, c.role = .butt) ∧
        demoImage.firstDock .scrap = some 4) := by decide +kernel

/-- Lane 1 touched by an order that does not grip, by one that does, and by none. -/
theorem witness_LaneServiceDecided_orders :
    (∀ o ∈ allOrders (at' 4).zone, touchesLane o 1 = false ∨ ((at' 4).zone.transfer.carriage = .running o.number ∧ 4 ≤ o.step)) ∧
      (allOrders (at' 3).zone).filter (fun o => touchesLane o 1 && !gripsFor (at' 3).zone o) = [{ order1 with step := 3 }] ∧
      touchesLane order1 3 = false := by decide +kernel

/-- A position that holds a record and reads empty, with a reservation and without; a THROUGH lane of 4 positions. -/
theorem witness_LaneServiceDecided_closed :
    let s := withRoll stocked (.lane 1 4) someRoll
    rollAt s.zone (.lane 1 4) = some someRoll ∧ laneDetector s.env 1 4 = false ∧ someRoll.reservation = none ∧
      ({ someRoll with reservation := some ⟨8, 1, 1⟩ } : Roll).reservation ≠ none ∧ lanePositions s.env 1 ≤ 4 ∧ 1 ≤ 1 ∧
      4 ≤ lanePositions s.env 1 ∧ laneMode? s.env 1 = some .through := by decide +kernel

/-! ### FAULT ACK -/

/-- A HALTED carriage at each place that the carriage place input can name, with carriage-done active and inactive. -/
theorem witness_FaultAckDecided_halted :
    let s := fun (d : Bool) (p : Option Place) => withRoll (zoned stocked fun z => { z with transfer :=
      { z.transfer with carriage := .halted { order1 with step := 4 }, doneInput := d, placeInput := p } }) .carriage
      { someRoll with state := .inTransfer }
    let docked := fun (l : Bool) => withVehicle (s true (some (.dock 3))) 1 { vehicle5 with state := .docked, loaded := l }
    (s false none).zone.transfer.carriage = .halted { order1 with step := 4 } ∧ (s false none).zone.transfer.doneInput = false ∧
      (s true none).zone.transfer.doneInput = true ∧ (s true none).zone.transfer.placeInput = none ∧
      rollAt (s true none).zone .carriage = some { someRoll with state := .inTransfer } ∧
      ((laneRec (s true (some (.lane 2 1))).zone 2).map (·.inService) = some true ∧ 2 ≤ lanePositions stocked.env 2 ∧
        rollAt (s true (some (.lane 2 1))).zone (.lane 2 1) = none ∧ lanePositions stocked.env 2 < 3 ∧
        rollAt (s true (some (.lane 1 1))).zone (.lane 1 1) ≠ none) ∧
      ((s true (some (.arm 1 .b))).zone.splice.stands.get? 1 ≠ none ∧
        rollAt (s true (some (.arm 1 .b))).zone (.arm 1 .b) = none ∧
        (s true (some (.arm 2 .b))).zone.splice.stands.get? 2 = none) ∧
      ((demoImage.dock? 4).map (·.role) = some .scrap ∧ (demoImage.dock? 3).map (·.role) = some .parking) ∧
      (∀ v ∈ (docked true).zone.track.vehicles, dockedAt (docked true).env (docked true).zone v.2.number 3 = false ∨ v.2.loaded = true) ∧
      ((docked false).zone.track.vehicles.find? (fun v => dockedAt (docked false).env (docked false).zone v.2.number 3 && !v.2.loaded) =
        some (1, { vehicle5 with state := .docked }) ∧ rollAt (docked false).zone (.vehicle 1) = none ∧ vehicle5.order = none) := by
  decide +kernel

/-- A failed splice with its break active and inactive; a roll on the running arm, on the other, on both and on neither. -/
theorem witness_FaultAckDecided_failed :
    let failed := fun (s : State) => withSplice s fun w => { w with state := .spliceFailed }
    let roll := fun (s : State) => withRoll s (.arm 1 .b) { someRoll with state := .standby }
    let gone := fun (s : State) => zoned s fun z => eraseRoll (.arm 1 .a) z
    (∀ s ∈ [failed stocked, failed (roll stocked), failed (roll (gone stocked)), failed (gone stocked)],
      (s.zone.splice.stands.get? 1).map (fun w => (w.state, w.running)) = some (.spliceFailed, some .a)) ∧
      (reelIns stocked.env 1).webBreak = false ∧ (reelIns (after joined (.webBreak 1)).env 1).webBreak = true ∧
      rollAt stocked.zone (.arm 1 .a) = some roll107 ∧ rollAt stocked.zone (.arm 1 .b) = none ∧
      rollAt (roll stocked).zone (.arm 1 .b) = some { someRoll with state := .standby } ∧
      rollAt (gone stocked).zone (.arm 1 .a) = none ∧
      (∃ x ∈ ((upTo 1).foldl (fun z r => leaveFailed (after joined (.webBreak 1)).env r z) (failed stocked).zone).splice.stands,
        x.2.state = .spliceFailed) ∧
      (∀ x ∈ ((upTo 1).foldl (fun z r => leaveFailed stocked.env r z) (failed stocked).zone).splice.stands,
        x.2.state ≠ .spliceFailed) := by decide +kernel

/-! ### Reelstands -/

/-- Each splice state at a break, with no deferred fault, one and two. -/
theorem witness_WebBreaksTaken_splices :
    let h : HeldFault := ⟨1, ⟨.mismatch, 0, []⟩⟩
    let st := fun (f : Splice → Splice) => (withSplice stocked f).zone.splice.stands.get? 1
    (∀ x ∈ [SpliceState.accelerating, .matched, .pasting, .cutting, .single],
      (st fun w => { w with state := x }).map (fun w => (w.state, w.deferred)) = some (x, [])) ∧
      (st fun w => { w with deferred := [h] }).map (·.deferred) = some [h] ∧
      (st fun w => { w with deferred := [h, h] }).map (·.deferred) = some [h, h] ∧
      (reelIns (after joined (.webBreak 1)).env 1).webBreak = true := by decide +kernel

/-- A running arm that has lost its record in a failed splice. -/
theorem witness_WebBreaksTaken_lost :
    let s := zoned (withSplice stocked fun w => { w with state := .spliceFailed }) fun z => eraseRoll (.arm 1 .a) z
    ((s.inputs.reels.get? 1).getD ReelIns.idle).webBreak = false ∧ runningArm s.zone 1 = some .a ∧
      rollAt s.zone (.arm 1 .a) = none ∧ s.isActive = true := by decide +kernel

/-- CUTTING with a roll on each arm. -/
theorem witness_PasteAndKnife_swap :
    let s := withRoll (withSplice stocked fun w => { w with state := .cutting }) (.arm 1 .b) { someRoll with state := .standby }
    (s.zone.splice.stands.get? 1).map (fun w => (w.state, w.running, w.deferred)) = some (.cutting, some .a, []) ∧
      (s.zone.reels.get? 1).map (fun y => (y.meas Arm.a.other).state) = some .noRoll ∧ (s.env.img.reel? 1).isSome ∧
      rollAt s.zone (.arm 1 .a) = some roll107 ∧ rollAt s.zone (.arm 1 Arm.a.other) = some { someRoll with state := .standby } := by
  decide +kernel

/-- Rolls identified with a length, with the length 0, and unidentified; L_rem at L_min and 1 mm above; in SINGLE, MATCHED and
PASTING. -/
theorem witness_EstimatesAndMeasurements_runout :
    roll107.data = some ⟨3, 1600, 80, 3000⟩ ∧ (unidentified .running).data = none ∧
      (let y := (withMeas stocked fun m => { m with remaining := 69629 }).zone.reels.get? 1
       y.map (fun y => (y.running, (y.meas .a).remaining ≤ (y.meas .a).minLength)) = some (some .a, True)) ∧
      ¬ (69630 ≤ seeded107.minLength) ∧
      (∀ x ∈ [SpliceState.single, .matched, .pasting],
        ((withSplice stocked fun w => { w with state := x }).zone.splice.stands.get? 1).map
          (fun w => (w.state, w.runoutRaised, w.deferred)) = some (x, false, [])) := by
  refine ⟨rfl, rfl, ?_, by decide, by decide +kernel⟩
  have h : ((withMeas stocked fun m => { m with remaining := 69629 }).zone.reels.get? 1).map
      (fun y => (y.running, (y.meas .a).remaining, (y.meas .a).minLength)) = some (some .a, 69629, 69629) := by decide +kernel
  revert h
  cases (withMeas stocked fun m => { m with remaining := 69629 }).zone.reels.get? 1 with
  | none => simp
  | some y => simp only [Option.map_some, Option.some.injEq, Prod.mk.injEq]; rintro ⟨h1, h2, h3⟩; simp [h1, h2, h3]

/-- A point that lowers L_rem in SEEDED, in MEASURING and in DEAD_RECKONING; the fourth accepted reading of a record with its
length and of an UNSEEDED one; the third reject in a row, in SINGLE and in PASTING; an index with a missing-index point due and
one that finds it 1 mm short; a lowered record whose roll stands on the arm, was replaced and was lost. -/
theorem witness_RevolutionIndexTaken_points :
    let run := fun (f : Meas → Meas) => withMeas stocked f
    let meas := fun (f : Meas → Meas) => ((run f).zone.reels.get? 1).map fun y => (y.running, y.meas .a)
    let fed := { seeded107 with reference := some 0, fed := 10000 }
    let third := { fed with readings := [1600, 1600, 1600] }
    let bare := { third with seed := .unseeded, loadLength := 0, countLength := 0, remaining := 0, fed := 4800 }
    let rejected := { seeded107 with rejects := 2, reference := some 0 }
    (meas fun _ => fed) = some (some .a, fed) ∧ (fed.point 300 1600 false).remaining = 2990000 ∧
      (fed.point 300 1600 false).state = .seeded ∧
      ((third.point 300 1600 false).state = .measuring ∧ (third.point 300 1600 false).average = some 1600 ∧
        (third.point 300 1600 false).remaining < third.remaining) ∧
      ((bare.point 300 1600 false).state = .measuring ∧ (bare.point 300 1600 false).seed = .fromRecord) ∧
      ((rejected.point 300 6001 true).state = .deadReckoning ∧ rejected.state ≠ .deadReckoning ∧
        (rejected.point 300 300 false).state = .deadReckoning) ∧
      (missingIndexDue stocked.env stocked.zone 1 = false ∧
        (let webs := fun (n : WebPos) => { (run fun _ => fed) with webs := [(1, ⟨n, 0, 0, 0⟩)] }
         missingIndexDue (webs 6001).env (webs 6001).zone 1 = true ∧ missingIndexDue (webs 6000).env (webs 6000).zone 1 = false)) ∧
      (∀ x ∈ [SpliceState.single, .pasting], ((withSplice (run fun _ => rejected) fun w => { w with state := x }).zone.splice.stands.get? 1).map
        (fun w => w.state) = some x) ∧
      (seeded107.serial ≠ 0 ∧ rollAt stocked.zone (.arm 1 .a) = some roll107 ∧ roll107.serial = seeded107.serial) ∧
      rollAt (zoned stocked fun z => eraseRoll (.arm 1 .a) z).zone (.arm 1 .a) = none ∧ Meas.initial.serial = 0 ∧
      ((withSplice stocked fun w => { w with state := .matched, pasteArmed := true, manual := true }).zone.splice.stands.get? 1).map
        (fun w => (w.pasteArmed, w.manual)) = some (true, true) ∧ ¬ (seeded107.remaining ≤ seeded107.spliceLength) := by decide +kernel

/-! ### Calls and restart -/

/-- A need with a filled entry; with a spec and a roll found, none found, and none to be reserved; an unidentified roll. -/
theorem witness_CallsChosenAndIssued :
    (withCall stocked call1).zone.supply.calls.get? (Need.restock 3).key ≠ none ∧
      stocked.zone.supply.calls.get? (Need.restock 3).key = none ∧
      needSpec stocked.env stocked.zone (.restock 3) = some (3, 1600) ∧
      (choose stocked.env stocked.zone ⟨.ownRestock, 3, 1600, 2000⟩).map (·.1) = some 273 ∧
      canReserve stocked.zone 273 = true ∧ laneOfKey 273 = some (1, 1) ∧
      choose bare.env bare.zone ⟨.ownRestock, 3, 1600, 2000⟩ = none ∧ stocked.env.img.receivingDock ≠ none ∧
      ({ demoImage with docks := [] } : Image).receivingDock = none ∧ needSpec ready.env ready.zone (.runout 1) = none ∧
      ready.zone.supply.noStockRaised.get? 1 = none ∧ stocked.zone.supply.calls.length ≤ 12 ∧ stocked.env.station = .active ∧
      (withCall stocked call1).zone.supply.calls.get? (Need.restock 3).key = some call1 ∧ call1.state = .collecting ∧
      call1.number < 256 ∧ stocked.zone.line.queue.length < 16 ∧ stocked.zone.line.waiting = [] ∧
      (List.replicate 31 (⟨0, .callWithdraw 1⟩ : TxFrame)).length < 32 := by decide +kernel

/-- A call in each state, its load order pending, gripped on its way to an arm and gripped in its SET. -/
theorem witness_WarmRestartResumes_withdrawn :
    (∀ x ∈ [CallState.noStock, .collecting, .taking, .confirmed, .localService, .delivered, .withdrawn],
      ((withCall stocked { taking1 with state := x }).zone.supply.calls.get? (Need.restock 3).key).map
        (fun c => (c.state, c.need, c.chosen)) = some (x, .restock 3, some offer1)) ∧
      taking1.takeTime ≠ none ∧ call1.takeTime = none ∧
      (let o := fun (k : Nat) (d : Dest) => { order1 with
        step := k
        req := { order1.req with origin := .callLoad, dest := d, callRef := some ⟨4, 1, 0⟩ } }
       let s := fun k d => (withOrder stocked (o k d)).zone
       (∀ k ∈ [3, 4, 6], allOrders (s k (.place (.arm 1 .b))) = [] ++ o k (.place (.arm 1 .b)) :: []) ∧
         (s 4 (.place (.arm 1 .b))).transfer.carriage = .running (o 4 (.place (.arm 1 .b))).number ∧
         (s 4 .anyStock).transfer.heldP ++ (s 4 .anyStock).transfer.heldO = [] ∧ stocked.env.own = 4) := by decide +kernel

/-- Segments that agree with their inputs and that do not; a vehicle in each state that a restart finds; reelstands LOADED and
PREPARED; a queue with room for the answers. -/
theorem witness_WarmRestartResumes :
    (occupied stocked.env 1 = false ∧ occupied stocked.env 4 = true ∧ segState stocked.zone 4 = some (.occupied 5) ∧
      presentTag stocked.env 4 = 5 ∧ segState (withSegment stocked 4 ⟨.free, [], false⟩).zone 4 = some .free ∧
      (withSegment stocked 4 ⟨.occupied 9, [], false⟩).zone.track.segments.get? 4 = some ⟨.occupied 9, [], false⟩) ∧
      (∀ x ∈ [VehState.incoming, .stranded, .parked, .docked, .moving, .held, .passing],
        ((withVehicle stocked 1 { vehicle5 with state := x }).zone.track.vehicles.get? 1).map (fun v => (v.state, v.granted, v.current)) =
          some (x, none, some 4)) ∧
      (let v := { vehicle5 with state := .docked, purpose := .fetch 3 }
       goalOf stocked.env v = .dock 3 ∧ atDock stocked.env 3 = true) ∧
      (let v := { vehicle5 with granted := some 1 }
       v.granted ≠ none ∧ segState (withVehicle stocked 1 v).zone 4 = some (.occupied v.number) ∧
         segState (withSegment (withVehicle stocked 1 v) 4 ⟨.free, [], false⟩).zone 4 = some .free) ∧
      (1 ≤ 1 ∧ 1 ≤ stocked.env.img.reels.length ∧ (stocked.zone.splice.stands.get? 1).isSome) ∧
      (stocked.env.station = .active ∧ stocked.zone.line.waiting = [] ∧ stocked.zone.line.queue.length + 16 ≤ 16) := by
  decide +kernel

/-- A lane at both ends of the make-up, and segments in it. -/
theorem witness_ReportRequestAnswered_sizes :
    1 ≤ 1 ∧ 3 ≤ stocked.env.img.lanes.length ∧ stocked.zone.track.segments.get? 1 ≠ none ∧
      stocked.zone.track.segments.get? 4 ≠ none := by decide +kernel

end Sys2Proof.Tests
end

