-- ==== Sys2Proof/Tests/Witnesses4.lean ====
section
/-! SUPPORT. Witnesses for the clauses on measuring, starting and losing a roll, the copy charge, the checks of requests and the
lane watch. For every clause with hypotheses a state and operands that meet them, at the edges of the ranges. -/

namespace Sys2Proof.Tests

set_option Elab.async false

open Sys2Proof.Machine

/-! ### Lengths and times -/

/-- Readings at the ends of the range, 300 and 301 mm, 6,000 and 6,001 mm, and at the ends of the band about 1,600, 1,500 and
1,625 mm, and just outside; the fourth reading of a record with its length and of an UNSEEDED one; the third reject. -/
theorem witness_EstimatesAndMeasurements_lengths :
    let fed := { seeded107 with reference := some 0, fed := 10000 }
    let third := { fed with readings := [1600, 1600, 1600] }
    let measuring := { third with state := .measuring, readings := [1600, 1600, 1600, 1600], average := some 1600 }
    (∀ x ∈ [301, 6000], outOfRange 300 x = false) ∧ (∀ x ∈ [300, 6001], outOfRange 300 x = true) ∧
      (∀ x ∈ [1500, 1625], inBand 1600 x = true) ∧ (∀ x ∈ [1499, 1626], inBand 1600 x = false) ∧
      (third.readings.length = 3 ∧ fed.readings.length ≠ 3) ∧
      (fed.point 300 301 false).remaining = 2990000 ∧ (fed.point 300 300 false).remaining = 2990000 ∧
      (measuring.point 300 1500 false).measLength = some (lengthAt 300 80 1575) ∧
      (measuring.point 300 1499 false).remaining = 3000000 ∧
      ({ measuring with rejects := 2 }.point 300 1499 false).remaining = 2990000 ∧
      ({ third with seed := .unseeded }.point 300 1600 false).loadLength = lengthAt 300 80 1600 ∧
      ({ fed with state := .deadReckoning }.point 300 1 false).remaining = 2990000 ∧
      ({ fed with state := .noRoll }.point 300 1 false).remaining = 3000000 ∧
      ({ measuring with reference := none }.point 300 1 false).remaining = 3000000 ∧
      lengthAt 300 80 300 = 0 ∧ lengthAt 300 80 301 = (301 * 301 - 300 * 300) * 79577 / 80000 := by decide +kernel

/-- The running reelstand at a time to splice and a web speed. -/
def driven (t v : Nat) (f : Splice → Splice) : State :=
  { zoned (withSplice stocked f) (modReel 1 fun y => { y with timeToSplice := t }) with webs := [(1, ⟨0, 0, 0, v⟩)] }

/-- PREPARED with T at the lead and 1 ds above, v at 100 mm/s and 1 below, inhibited or not, speed matched or not, in ACTIVE and
JOINING; SINGLE at the lead, raised or not, with a call and without; MATCHED with a manual splice, with L_rem at L_splice and
with neither. -/
theorem witness_AccelerationInputs_starts :
    let prepared := fun (w : Splice) => { w with state := SpliceState.prepared }
    let single := fun (w : Splice) => { w with state := SpliceState.single }
    (mayAccelerate (driven 100 100 prepared).env 1 (driven 100 100 prepared).zone = true ∧
      mayAccelerate (driven 101 100 prepared).env 1 (driven 101 100 prepared).zone = false ∧
      mayAccelerate (driven 100 99 prepared).env 1 (driven 100 99 prepared).zone = false ∧
      mayAccelerate stocked.env 1 (driven 100 100 fun w => { prepared w with inhibited := true }).zone = false) ∧
      (driven 100 100 prepared).env.station = .active ∧ joined.env.station ≠ .active ∧
      (reelIns stocked.env 1).speedMatched = false ∧
      (reelIns (after stocked (.speedMatchedChange 1 true)).env 1).speedMatched = true ∧
      lateRollDue (driven 100 0 single).env 1 (driven 100 0 single).zone = true ∧
      lateRollDue (driven 101 0 single).env 1 (driven 101 0 single).zone = false ∧
      lateRollDue stocked.env 1 (driven 100 0 fun w => { single w with lateRaised := true }).zone = false ∧
      stocked.zone.supply.calls.get? (Need.runout 1).key = none ∧
      ((withCall stocked { call1 with need := .runout 1 }).zone.supply.calls.get? (Need.runout 1).key).isSome ∧
      (pasteWanted (withSplice stocked fun w => { w with state := .matched, manual := true }).zone 1 = true ∧
        pasteWanted (withMeas stocked fun m => { m with remaining := 397885 }).zone 1 = true ∧
        pasteWanted (withMeas stocked fun m => { m with remaining := 397886 }).zone 1 = false) := by decide +kernel

/-- T that changes at a gate end and one that does not; the call conditions at the horizon and 1 ds above, asked already and not,
in ACTIVE and JOINING. -/
theorem witness_EncoderCounts_times :
    let at' := fun (t v : Nat) => driven t v id
    (at' 65535 100).zone.reels.get? 1 = some ⟨seeded107, Meas.initial, 65535⟩ ∧
      (⟨seeded107, Meas.initial, 65535⟩ : Reel).estimate 99 = 65535 ∧
      (⟨seeded107, Meas.initial, 65535⟩ : Reel).estimate 20000 ≠ 65535 ∧
      runoutCallHolds (at' 900 100).env 1 (at' 900 100).zone = true ∧
      runoutCallHolds (at' 901 100).env 1 (at' 901 100).zone = false ∧
      runoutCallHolds (at' 900 99).env 1 (at' 900 99).zone = false ∧
      (at' 900 100).env.station = .active ∧ joined.env.station = .joining ∧ Need.runout 1 ∉ stocked.zone.supply.asked ∧
      Need.runout 1 ∈ (zoned stocked fun z => { z with supply := { z.supply with asked := [.runout 1] } }).zone.supply.asked := by
  decide +kernel

/-! ### Rolls lost, found and identified -/

/-- An arm with its record in each splice state, running and not; an arm without one, with standby ready and without; a
reelstand whose record is free for the new running arm, with its web. -/
theorem witness_ArmEvents_lost :
    let st := fun (x : SpliceState) (a : Option Arm) => (withSplice stocked fun w => { w with state := x, running := a }).zone.splice.stands.get? 1
    (∀ x ∈ [SpliceState.empty, .single, .loaded, .prepared, .accelerating, .matched, .pasting, .cutting, .spliceFailed],
      (st x (some .a)).map (fun w => (w.state, w.running, w.deferred)) = some (x, some .a, []) ∧
        (st x (some .b)).map (·.running) = some (some .b) ∧ (st x none).map (·.running) = some none) ∧
      rollAt stocked.zone (.arm 1 .a) = some roll107 ∧ rollAt stocked.zone (.arm 1 .b) = none ∧
      (reelIns stocked.env 1).standbyReady = false ∧
      (reelIns (after stocked (.standbyReadyChange 1 true)).env 1).standbyReady = true ∧
      (let s := withRoll stocked (.arm 1 .b) { someRoll with state := .standby }
       rollAt s.zone (.arm 1 .b) = some { someRoll with state := .standby } ∧
         (s.zone.reels.get? 1).map (fun y => (y.meas .b).state) = some .noRoll ∧ (s.env.img.reel? 1).isSome ∧
         (s.zone.folder.webs.get? 1).isSome) := by decide +kernel

/-- Marks at 3 and 4 on the path; a position 1 mm and 2^39 − 1 mm past the tail's, and at it and 2^39 past it; a web with a
folder roll and without. -/
theorem witness_MarkArrivesAndAccountCloses_stored :
    let m := fun (p : WebPos) => (⟨p, 0, 1⟩ : Mark)
    let web := fun (l : List Mark) => (withWeb stocked fun w => { w with folderRoll := some 7, marks := l }).zone.folder.webs.get? 1
    (web [m 0, m 1, m 2]).map (fun w => (w.marks.length, w.folderRoll)) = some (3, some 7) ∧
      (web [m 0, m 1, m 2, m 3]).map (·.marks.length) = some 4 ∧ (web []).map (·.marks) = some [] ∧
      (web [m 0, m 1]).map (·.marks) = some ([m 0] ++ [m 1]) ∧
      positionAfter 1 0 = true ∧ positionAfter 549755813887 0 = true ∧ positionAfter 0 0 = false ∧
      positionAfter 549755813888 0 = false ∧ ((stocked.zone.folder.webs.get? 1).map (·.folderRoll)) = some none := by
  decide +kernel

/-- Records UNSEEDED and not, with a length and the length 0, in each state; marks with the new serial 0 and another; the
running arm with its record RUNNING and a BUTT. -/
theorem witness_RollEntryDecided_running :
    let unseeded := { seeded107 with seed := .unseeded, remaining := 71619300 }
    (unseeded.identified ⟨300, 700, 400, 80, 100, 900, 20000, true⟩ 0x300 80 3000).remaining = 3000000 ∧
      (unseeded.identified ⟨300, 700, 400, 80, 100, 900, 20000, true⟩ 0x300 80 0).remaining = 71619300 ∧
      ({ seeded107 with state := .measuring, average := some 1600 }.identified ⟨300, 700, 400, 80, 100, 900, 20000, true⟩ 0x300 80
        3000).measLength = some (lengthAt 300 80 1600) ∧
      (let web := fun (n : Serial) => (withWeb ready fun w => { w with folderRoll := some 0, marks := [⟨0, 7, n⟩] }).zone.folder.webs.get? 1
       (web 0).map (·.marks) = some ([] ++ [⟨0, 7, 0⟩]) ∧ (web 9).map (·.marks) = some ([] ++ [⟨0, 7, 9⟩])) ∧
      (ready.zone.reels.get? 1).map (·.running) = some (some .a) ∧ (ready.env.img.reel? 1).isSome ∧
      (ready.zone.splice.stands.get? 1).map (·.running) = some (some .a) ∧
      (rollAt ready.zone (.arm 1 .a)).map (·.state) = some .running ∧
      (rollAt (withRoll ready (.arm 1 .a) (unidentified .butt)).zone (.arm 1 .a)).map (·.state) = some .butt := by
  decide +kernel

/-! ### Copies, lanes, docks and requests -/

/-- A web active and one that is not; windows at the limit and above it, with RATE_HIGH clear and set. -/
theorem witness_CopyPulseTaken_charge :
    let web := withWeb stocked fun w => { w with folderRoll := some 7 }
    webActive web.env web.zone 1 = true ∧ webActive stocked.env stocked.zone 1 = false ∧
      (web.zone.folder.webs.get? 1).isSome ∧ web.zone.folder.webs.get? 2 = none ∧ demoImage.rateM = 1 ∧
      (let s := fun (n : Nat) (on : Bool) => { stocked.spoilage with
         windowWaste := n, status := { stocked.spoilage.status with rateHigh := on } }
       1 < (s 2 false).windowWaste ∧ (s 1 false).windowWaste ≤ 1 ∧ (s 2 false).status.rateHigh = false ∧
         (s 2 true).status.rateHigh = true) := by decide +kernel

/-- Lane 3 short and without a call; a position that disagrees, one that agrees and one under the carriage; a lane with a
disagreeing position left and without; the lanes of an image have at most 4 positions. -/
theorem witness_LaneEvents_watch :
    laneShort stocked.env stocked.zone 3 = true ∧ stocked.zone.supply.calls.has (Need.restock 3).key = false ∧
      (withCall stocked call1).zone.supply.calls.has (Need.restock 3).key = true ∧
      (∀ c ∈ demoImage.lanes, c.positions ≤ 4) ∧ (demoImage.lane? 1).map (·.positions) = some 4 ∧
      (let s := withRoll stocked (.lane 1 4) someRoll
       positionDisagrees s.env s.zone 1 4 = true ∧ positionWatched s.env s.zone 1 4 = true ∧
         positionDisagrees s.env s.zone 1 1 = false ∧ (refreshLaneWatch s.env s.zone).stock.watch = [(276, 10)]) ∧
      positionWatched (at' 3).env (at' 3).zone 1 4 = false ∧ positionWatched (at' 6).env (at' 6).zone 2 2 = true ∧
      positionWatched (at' 6).env (at' 6).zone 2 1 = false ∧
      (let s := zoned (withRoll stocked (.lane 1 4) someRoll) fun z => { z with stock := { z.stock with
         disagreeing := [(276, ()), (289, ())] } }
       (refreshLaneWatch s.env s.zone).stock.disagreeing = [(276, ())]) := by decide +kernel

/-- No offer TIMED_OUT, one to this station and one to another. -/
theorem witness_HandOverTimes_again :
    let v := { offered6 with handOver := .timedOut, state := .stranded }
    stocked.zone.track.vehicles.sorted = true ∧ (with6 v).zone.track.vehicles.sorted = true ∧
      (with6 v).zone.track.vehicles.get? 2 = some v ∧ v.handOver = .timedOut ∧ v.offeredTo = some (8, 1) ∧
      (∀ x ∈ (with6 v).zone.track.vehicles, x.2.handOver = .timedOut → x.1 = 2) ∧
      (∀ x ∈ stocked.zone.track.vehicles, x.2.handOver ≠ .timedOut) := by decide +kernel

/-- A request that each check fails, and one that passes; serial 0 at a THROUGH lane, at an unidentified entry and at none. -/
theorem witness_OrderRequestsDecided_checks :
    let ask := fun (s : State) (x : Serial) (a b : Place) => operatorRefusal s.env s.zone .p x a b
    ask stocked 0x105 (.lane 1 1) (.lane 1 1) = some .refusedRange ∧ ask stocked 0x105 (.lane 1 1) (.dock 1) = some .refusedRange ∧
      ask stocked 0x105 (.lane 1 5) (.lane 2 1) = some .refusedRange ∧ ask stocked 0x999 (.lane 1 1) (.dock 4) = some .unknownRoll ∧
      ask stocked 0 (.lane 2 1) (.dock 4) = some .unknownRoll ∧ ask stocked 0 (.lane 1 4) (.dock 4) = none ∧
      ask stocked 0x105 (.lane 2 1) (.dock 4) = some .refusedState ∧ ask stocked 0x107 (.arm 1 .a) (.dock 4) = some .refusedState ∧
      ask (at' 1) 0x105 (.lane 1 1) (.lane 2 1) = some .refusedState ∧ ask stocked 0x105 (.lane 1 4) (.lane 2 1) = none ∧
      ask (after stocked (.laneServiceOut terminal 2)) 0x105 (.lane 1 1) (.lane 2 1) = some .refusedState ∧
      ask (zoned stocked fun z => { z with transfer := { z.transfer with ordersP := List.replicate 8 { order1 with serial := 0 } } }) 0x105
        (.lane 1 1) (.lane 2 1) = some .refusedFull := by decide +kernel

/-- A dock with its segment, a SCRAP dock whose entry names one, and a dock outside the make-up. -/
theorem witness_DockInputsTaken_segments :
    let image := { demoImage with docks := [⟨2, .loading⟩, ⟨3, .scrap⟩] }
    dockSegment image 1 = some 2 ∧ image.dock? 2 = some ⟨3, .scrap⟩ ∧ dockSegment image 2 = none ∧ image.dock? 3 = none ∧
      goalOf stocked.env { vehicle5 with purpose := .fetch 4 } = .dock 4 ∧ dockSegment stocked.env.img 4 = none := by
  decide +kernel

end Sys2Proof.Tests
end

