-- ==== Sys2Proof/Tests/Witnesses5.lean ====
section
/-! SUPPORT. Witnesses for the clauses on report pages, PICK and SET, unloading and loads, capture, the delivery estimate and
the reading of the zone at start. For every clause with hypotheses a state and operands that meet them, at the edges of the
ranges. -/

namespace Sys2Proof.Tests

set_option Elab.async false

open Sys2Proof.Machine

/-! ### Pages of the report -/

/-- The lanes at both ends of the make-up, a segment, a reelstand, a vehicle slot in use and one free, a lead context and a class
entry; reelstand 1 and lane 3 as the last of their pages. -/
theorem witness_ReportRequestAnswered_pages :
    (∀ l ∈ [1, 3], (stocked.env.img.lane? l).isSome ∧ (laneRec stocked.zone l).isSome) ∧
      (∀ k ∈ [1, 4], (stocked.zone.track.segments.get? k).isSome) ∧ (stocked.zone.splice.stands.get? 1).isSome ∧
      (stocked.zone.folder.webs.get? 1).isSome ∧ (stocked.zone.reels.get? 1).isSome ∧
      stocked.zone.track.vehicles.get? 1 = some vehicle5 ∧ stocked.zone.track.vehicles.get? 2 = none ∧
      (1 ≤ 1 ∧ 1 ≤ stocked.env.img.reels.length ∧ 3 ≤ stocked.env.img.lanes.length ∧ 4 ≤ stocked.env.img.segments.length) ∧
      (let o : Occurrence := ⟨.stranded, 0, []⟩
       let f : FaultRecord := ⟨[(1, ⟨.degrading, 2, o⟩)], some o, some 3⟩
       f.lead = some o ∧ f.entries.get? 1 = some ⟨.degrading, 2, o⟩) := by decide +kernel

/-! ### PICK and SET -/

/-- An order of a source, a serial and a vehicle. -/
def picking (x : Serial) (src : Place) (v : Option Nat) : Order :=
  { order1 with step := 3, serial := x, vehicle := v, req := { order1.req with serial := x, source := src } }

/-- A source in a THROUGH lane and in a PICK lane; a dock with its vehicle in the table and not; a record on the carriage; the
record named and another, wanted by no order and by one; no record with the detector active and inactive. -/
theorem witness_CarriageDoneTaken_pick :
    sourcePlace stocked.env (picking 0x105 (.lane 1 3) none) = .lane 1 1 ∧
      sourcePlace stocked.env (picking 0x105 (.lane 2 2) none) = .lane 2 2 ∧
      findVehicle stocked.zone 5 = some (1, vehicle5) ∧ findVehicle stocked.zone 6 = none ∧
      (rollAt (withRoll stocked .carriage someRoll).zone .carriage).isSome ∧ rollAt stocked.zone .carriage = none ∧
      (rollAt stocked.zone (.lane 1 1)).map Roll.serial = some 0x105 ∧
      (∀ x ∈ allOrders (withOrder stocked (picking 0x999 (.lane 1 1) none)).zone, x.number = 1 ∨ x.serial ≠ 0x105) ∧
      (let other := { order1 with number := 2 }
       let s := zoned stocked fun z => { z with transfer := { z.transfer with ordersP := [picking 0x999 (.lane 1 1) none, other] } }
       (allOrders s.zone).filter (fun x => x.number ≠ 1 ∧ x.serial = 0x105) = [other]) ∧
      rollAt stocked.zone (.lane 1 3) = none ∧ laneDetector stocked.env 1 3 = false ∧
      (let s := zoned stocked fun z => eraseRoll (.lane 1 1) z
       rollAt s.zone (.lane 1 1) = none ∧ laneDetector s.env 1 1 = true) := by decide +kernel

/-- An arm that may be emptied, LOADED and PREPARED, and the running arm; lanes with at most 4 positions, their head taken out;
a lane with a record left, full and empty; places found by step 4, and none. -/
theorem witness_CarriageDoneTaken_left :
    (∀ st ∈ [SpliceState.loaded, .prepared, .single],
      ((withSplice stocked fun w => { w with state := st }).zone.splice.stands.get? 1).map (fun w => (w.state, w.running)) =
        some (st, some .a)) ∧
      (lanePositions stocked.env 1 ≤ 4 ∧ 1 ≤ lanePositions stocked.env 1) ∧
      (let z := eraseRoll (.lane 1 1) stocked.zone
       rollAt z (.lane 1 1) = none ∧ rollAt z (.lane 1 2) ≠ none ∧ rollAt (shiftLane stocked.env 1 z) (.lane 1 1) ≠ none) ∧
      (rollAt stocked.zone (.lane 2 1) = none ∧ rollAt stocked.zone (.lane 2 2) = none) ∧
      (let z := (withRoll (withRoll stocked (.lane 2 1) someRoll) (.lane 2 2) { someRoll with serial := 0x201 }).zone
       ∀ p, 1 ≤ p → p ≤ 2 → rollAt z (.lane 2 p) ≠ none) ∧
      (storageChoice stocked.env stocked.zone .butt).isSome ∧
      (let s := after stocked (.laneServiceOut terminal 2)
       storageChoice s.env s.zone .butt = none) := by
  refine ⟨by decide +kernel, by decide +kernel, by decide +kernel, by decide +kernel, ?_, by decide +kernel, by decide +kernel⟩
  intro z p h1 h2
  obtain rfl | rfl : p = 1 ∨ p = 2 := by omega
  all_goals decide +kernel

/-- A SET onto a free place and a taken one of a lane, an arm, a SCRAP dock, and a dock whose vehicle is in the table and not. -/
theorem witness_CarriageDoneTaken_set :
    let s := withRoll stocked .carriage { someRoll with state := .inTransfer }
    let o := fun (p : Place) => { order1 with step := 6, target := some p, vehicle := some 5 }
    (∀ p ∈ [Place.lane 2 1, .lane 1 1, .arm 1 .a, .arm 1 .b, .dock 1, .dock 4], (o p).target = some p) ∧
      (rollAt s.zone .carriage).isSome ∧ rollAt s.zone (.lane 2 1) = none ∧ rollAt s.zone (.lane 1 1) ≠ none ∧
      rollAt s.zone (.arm 1 .b) = none ∧ rollAt s.zone (.arm 1 .a) ≠ none ∧
      (stocked.env.img.dock? 4).map (·.role) = some .scrap ∧ (stocked.env.img.dock? 1).map (·.role) = some .loading ∧
      findVehicle s.zone 5 = some (1, vehicle5) ∧ findVehicle s.zone 6 = none ∧ rollAt s.zone (.vehicle 1) = none ∧
      order1.req.origin = .operator := by decide +kernel

/-- A load of the reelstand's own call; a roll set on an arm in EMPTY, in SINGLE with standby ready and without, and in LOADED. -/
theorem witness_CarriageDoneTaken_arm :
    (let c := { call1 with need := Need.runout 1, state := .delivered }
     let o := { order1 with req := { order1.req with origin := .callLoad, callRef := some ⟨4, 1, 0⟩ } }
     ownLoad (withCall stocked c).env (withCall stocked c).zone o 1 = true ∧ ownLoad stocked.env stocked.zone o 1 = false) ∧
      (let s := withRoll stocked (.arm 1 .b) { someRoll with state := .standby }
       s.zone.stock.rolls.sorted = true ∧ (rollAt s.zone (.arm 1 .b)).map (·.state) = some .standby ∧
         (reelIns s.env 1).standbyReady = false ∧
         (∀ st ∈ [SpliceState.empty, .single, .loaded],
           ((withSplice s fun w => { w with state := st }).zone.splice.stands.get? 1).map (fun w => (w.state, w.running)) =
             some (st, some .a)) ∧
         (let up := { s with inputs := { s.inputs with reels := [(1, { ReelIns.idle with standbyReady := true })] } }
          (reelIns up.env 1).standbyReady = true)) := by decide +kernel

/-! ### Unloading and loads -/

/-- Vehicle 5 loaded and DOCKED at the receiving dock 2, on segment 3. -/
def unloading (p : Purpose) : State :=
  withRoll (withVehicle stocked 1 { vehicle5 with loaded := true, state := .docked, current := some 3, purpose := p })
    (.vehicle 1) { someRoll with state := .shipping }

/-- A loaded vehicle at the receiving dock, named by nothing and by an order; a call of each need in CONFIRMED and in another
state; the standby arm free and taken; a vehicle that returns; no vehicle; the need of a call standing and not. -/
theorem witness_CallTimes_unload :
    let s := unloading (.ship 4 1 4 2)
    (stocked.env.img.receivingDock = some 2 ∧ dockSegment stocked.env.img 2 = some 3 ∧ stocked.env.own = 4) ∧
      (findVehicle s.zone 5).map (fun x => (x.1, x.2.state, x.2.loaded, x.2.current)) = some (1, .docked, true, some 3) ∧
      ((∀ o ∈ allOrders s.zone, o.vehicle ≠ some 5) ∧ s.zone.transfer.heldP ++ s.zone.transfer.heldO = []) ∧
      (∃ o ∈ allOrders (withOrder s { order1 with vehicle := some 5 }).zone, o.vehicle = some 5) ∧
      (∀ n ∈ [Need.runout 1, .restock 3], ∀ st ∈ [CallState.confirmed, .collecting],
        (callNumbered (withCall s { call1 with need := n, state := st }).zone 1).map (fun c => (c.need, c.state)) = some (n, st)) ∧
      standbyArm s.zone 1 = .b ∧ rollAt s.zone (.arm 1 .b) = none ∧
      rollAt (withRoll s (.arm 1 .b) { someRoll with serial := 0x201 }).zone (.arm 1 .b) ≠ none ∧
      laneMode? stocked.env 3 = some .pick ∧ (∀ m a b, Purpose.returnTo 4 ≠ .ship 4 m a b) ∧ findVehicle s.zone 6 = none ∧
      needStands s.env s.zone (.runout 1) = true ∧
      (let t := withRoll s (.arm 1 .b) { someRoll with serial := 0x201 }
       needStands t.env t.zone (.runout 1) = false) ∧ callNumbered s.zone 1 = none := by
  refine ⟨by decide +kernel, by decide +kernel, by decide +kernel, by decide +kernel, by decide +kernel, by decide +kernel,
    by decide +kernel, by decide +kernel, by decide +kernel, by simp, by decide +kernel, by decide +kernel, by decide +kernel,
    by decide +kernel⟩

/-! ### Capture -/

/-- A SHIP order that waits for a vehicle at dock 1. -/
def waiting1 : Order :=
  { order1 with state := .waitingTrigger, step := 0, target := none,
                req := { order1.req with origin := .ship, dockTrigger := some 1 } }

/-- An empty vehicle without an order, a loaded one and one with an order; an order that waits, the older of two, and none; a
candidate alone, the lower of two, and none. -/
theorem witness_DockInputsTaken_capture :
    let queue := fun (l : List Order) => (zoned stocked fun z => { z with transfer := { z.transfer with ordersP := l } }).zone
    (findVehicle stocked.zone 5 = some (1, vehicle5) ∧ vehicle5.loaded = false ∧ vehicle5.order = none) ∧
      findVehicle stocked.zone 6 = none ∧ ({ vehicle5 with order := some 1 } : Vehicle).order ≠ none ∧
      (allOrders (queue [waiting1, { waiting1 with number := 2, accepted := 1 }]) =
          [waiting1, { waiting1 with number := 2, accepted := 1 }] ∧ waiting1.accepted < 1 ∧
        waiting1.req.dockTrigger = some 1 ∧ waiting1.vehicle = none ∧ waiting1.req.origin = .ship) ∧
      allOrders (queue []) = [] ∧
      (stocked.zone.track.vehicles = [(1, vehicle5)] ∧ captureCandidate vehicle5 = true) ∧
      ((with6 vehicle6).zone.track.vehicles = [(1, vehicle5), (2, vehicle6)] ∧ captureCandidate vehicle6 = true ∧
        vehicle5.number < vehicle6.number) ∧
      captureCandidate { vehicle5 with purpose := .returnTo 4 } = false ∧ captureCandidate { vehicle5 with state := .stranded } = false ∧
      captureCandidate offered6 = false := by decide +kernel

/-! ### The delivery estimate -/

/-- The estimate for station 8 without a PARKED vehicle and with one: 60 + 70 ds on the way, 1 hop of 40 ds, 2 x 100 ds, and the
200 ds. A station with no exit entry, an image with no loading dock, and an exit that no path leads to; goals at both ends of the
graph, a path to them and none. -/
theorem witness_RollCallAnswered_estimate :
    let parked := withVehicle stocked 1 { vehicle5 with state := .parked }
    let cut := { demoImage with segments := [⟨50, ⟨0, 2⟩, ⟨0, 0⟩, 0, 0⟩, ⟨60, ⟨0, 0⟩, ⟨0, 0⟩, 0, 1⟩, ⟨70, ⟨0, 4⟩, ⟨8, 1⟩, 1, 2⟩] }
    (stocked.env.img.loadingDock.bind (dockSegment stocked.env.img) = some 2 ∧ stocked.env.img.exits = [] ++ ⟨8, 3, 2, 1⟩ :: [] ∧
      stocked.env.img.exit? 8 = some ⟨8, 3, 2, 1⟩ ∧ stocked.env.img.exit? 9 = none) ∧
      deliveryEstimate stocked.env stocked.zone 8 = some 570 ∧ deliveryEstimate parked.env parked.zone 8 = some 370 ∧
      ({ demoImage with docks := [⟨3, .receiving⟩] } : Image).loadingDock = none ∧ routeTo cut 2 3 = none ∧
      (1 ≤ 1 ∧ 4 ≤ demoImage.segments.length) ∧ routeTo demoImage 3 1 = some [4, 1] ∧ routeTo demoImage 2 4 = some [3, 4] := by
  decide +kernel

/-- A graph that parts and joins: the two ways from 1 to 4 are equally long, and the route takes the lower index. -/
theorem witness_RollCallAnswered_route :
    let i := { demoImage with segments := [⟨50, ⟨0, 3⟩, ⟨0, 2⟩, 1, 0⟩, ⟨60, ⟨0, 4⟩, ⟨0, 0⟩, 0, 0⟩, ⟨70, ⟨0, 4⟩, ⟨0, 0⟩, 0, 0⟩, ⟨80, ⟨0, 1⟩, ⟨0, 0⟩, 0, 0⟩] }
    routeTo i 1 4 = some ([] ++ 3 :: [4]) ∧ localSuccessors i 1 = [3, 2] ∧
      (List.IsChain (fun a b => b ∈ localSuccessors i a) (1 :: ([] ++ 2 :: [4])) ∧ (1 :: ([] ++ 2 :: [4])).getLast? = some 4) ∧
      (1 :: ([] : List Nat)).getLast? = some 1 := by decide +kernel

/-! ### The zone at start -/

/-- The inputs at start: a vehicle alone on segment 1, one that reads 0 on segment 2, and vehicle 7 read on segments 3 and 4; arms
with no roll, one and two. -/
def atStart (a b : Bool) : Env :=
  { stocked.env with inputs :=
      { demoInputs with occupancy := [(1, 5), (2, 0), (3, 7), (4, 7)]
                        reels := [(1, { ReelIns.idle with presentA := a, presentB := b })] } }

/-- Every number read is at most 63; the one number found; segments of every case; the four readings of the arms, with the
reelstand SINGLE after A. -/
theorem witness_ActiveEntered_scan :
    (∀ k, presentTag (atStart true true) k ≤ 63) ∧
      ((List.range 4).filterMap fun i => if occupied (atStart true true) (i + 1) then some (i + 1) else none) = [1, 2, 3, 4] ∧
      ([1, 2, 3, 4].map (presentTag (atStart true true)) = [5, 0, 7, 7]) ∧
      ((scanTrack (atStart true true) bare.zone).track.segments.map fun x => x.2.state) =
        [.occupied 5, .blocked, .blocked, .blocked] ∧
      (∀ a ∈ [true, false], ∀ b ∈ [true, false], rollPresent (atStart a b) 1 .a = a ∧ rollPresent (atStart a b) 1 .b = b) ∧
      (((threadRunning (atStart true true) 1 .a (setRoll (.arm 1 .a) (unidentified .running) bare.zone)).splice.stands.get? 1).map
        (·.state)) = some .single := by
  refine ⟨?_, by decide +kernel, by decide +kernel, by decide +kernel, by decide +kernel, by decide +kernel⟩
  intro k
  have h : (atStart true true).inputs.occupancy = [(1, 5), (2, 0), (3, 7), (4, 7)] := rfl
  simp only [presentTag, h, Tbl.get?]
  split_ifs <;> simp

/-- Nine numbers on nine segments: the ninth is one too many. -/
theorem witness_ActiveEntered_nine :
    let e := { stocked.env with
      img := { demoImage with segments := List.replicate 9 ⟨50, ⟨0, 1⟩, ⟨0, 0⟩, 0, 0⟩ }
      inputs := { demoInputs with occupancy := (upTo 9).map fun k => (k, k) } }
    let z := { bare.zone with track := { bare.zone.track with segments := (upTo 9).map fun k => (k, ⟨.free, [], false⟩) } }
    (upTo 9).Pairwise (· < ·) ∧ (upTo 9).map (presentTag e) = upTo 9 ∧
      ((scanTrack e z).track.segments.map fun x => x.2.state) = (upTo 8).map .occupied ++ [.blocked] ∧
      (scanTrack e z).track.vehicles.map (fun x => (x.1, x.2.number)) = (upTo 8).map fun k => (k, k) := by decide +kernel

/-! ### Faults recorded with a count -/

/-- Counts at both ends of their range, and one that passes 255 with what stands. -/
theorem witness_FaultsRecorded_count :
    let o : Occurrence := ⟨.stranded, 0, []⟩
    (1 ≤ 1 ∧ 255 ≤ 255) ∧ min 255 (200 + 100) = 255 ∧
      (((⟨[(1, ⟨.degrading, 200, o⟩)], some o, some 3⟩ : FaultRecord).record o 100).entries.get? 1).map (·.count) = some 255 := by
  decide +kernel

/-- A reelstand splicing and not; a set with no entry, one of the same code, and two, the first older, equal and younger. -/
theorem witness_FaultsReported_held :
    let o := fun (c : FaultCode) (t : Time) => (⟨1, ⟨c, t, []⟩⟩ : HeldFault)
    let s := fun (st : SpliceState) (l : List HeldFault) => withSplice stocked fun w => { w with state := st, deferred := l }
    (∀ st ∈ [SpliceState.accelerating, .cutting, .single, .spliceFailed],
      ((s st []).zone.splice.stands.get? 1).map (fun w => (w.state, w.deferred)) = some (st, [])) ∧
      (let l := [o .deadReckoning 3, o .mismatch 5]
       ((s .matched l).zone.splice.stands.get? 1).map (·.deferred) = some ([o .deadReckoning 3] ++ o .mismatch 5 :: []) ∧
         (o .mismatch 5).latest.code = .mismatch ∧ (∀ x ∈ [o .deadReckoning 3], x.latest.code ≠ .mismatch)) ∧
      liesAfter 5 3 = true ∧ liesAfter 5 5 = false ∧ liesAfter 3 5 = false := by decide +kernel

/-! ### Requests dropped, vehicles stranded, disposals -/

/-- A roll reserved for a call of a peer, and no such roll; a request with and without a call reference. -/
theorem witness_OrderRequestsDecided_dropped :
    let s := withRoll stocked (.lane 1 1) { roll105 with reservation := some ⟨8, 1, 2⟩ }
    reservationKey s.zone 8 1 = some 273 ∧ (s.zone.stock.rolls.get? 273).map (·.reservation) = some (some ⟨8, 1, 2⟩) ∧
      reservationKey s.zone 8 2 = none ∧ order1.req.callRef = none ∧ order1.req.origin = .operator := by decide +kernel

/-- A vehicle without a grant that waits nowhere; no vehicle on its way to segment 1; one on its way to it. -/
theorem witness_OccupancyClears_stranded :
    vehicle? stocked.zone 1 = some vehicle5 ∧ vehicle5.granted = none ∧ (∀ x ∈ stocked.zone.track.segments, 5 ∉ x.2.wait) ∧
      (∀ x ∈ stocked.zone.track.vehicles, (vehicle? stocked.zone x.1).map (fun v => v.route.head?) = some none) ∧
      ((vehicle? (withVehicle stocked 1 { vehicle5 with route := [1] }).zone 1).map fun v => (v.route.head?, v.state)) =
        some (some 1, .held) := by decide +kernel

/-- A time to splice, and the own place of a serial that stands in the zone, that does not, and that is on a PASSING vehicle. -/
theorem witness_MarkArrivesAndAccountCloses_disposals :
    (stocked.zone.reels.get? 1).isSome ∧ ownPlace stocked.zone 0x105 = some 273 ∧ ownPlace stocked.zone 0x999 = none ∧
      (let s := withRoll (with6 passing6) (.vehicle 2) { someRoll with state := .shipping }
       ownPlace s.zone 0x200 = none) := by decide +kernel

end Sys2Proof.Tests
end

/-! PROOF. O33, LOG CLEAR (R173): what hearing a frame can do in JOINING (R9, R16, R17), and what the block does in ACTIVE. -/

namespace Sys2Proof.Machine

/-! ### A frame heard in JOINING (R9, R16, R17) -/

@[simp] theorem offerInert_stock (own : Nat) (z : Zone) : (offerInert own z).stock = z.stock := by
  unfold offerInert
  split
  · rfl
  · split <;> rfl

@[simp] theorem State.enterInert_spoilage (s : State) (code : FaultCode) (context : List CtxElem) :
    (s.enterInert code context).spoilage = s.spoilage := rfl

@[simp] theorem State.enterInert_stock (s : State) (code : FaultCode) (context : List CtxElem) :
    (s.enterInert code context).zone.stock = s.zone.stock :=
  offerInert_stock _ _

theorem isActive_of_joining {s : State} (hj : s.loader.station = .joining) : s.isActive = false := by
  simp [State.isActive, State.isIn, hj]

/-- Outside ACTIVE no inner request is served. -/
theorem settled_of_inactive {s : State} (h : s.loader.station ≠ .active) : s.settled = s :=
  endEvent_of_inactive s.zone h

/-- Outside ACTIVE no sender is told to the TC (R9). -/
theorem aliveFrom_of_inactive {s : State} (sender : Byte) (h : s.isActive = false) : s.aliveFrom sender = s := by
  simp [State.aliveFrom, h]

/-- Outside ACTIVE the four checks of R8 count a frame at most: no block takes it (R9). -/
theorem judged_of_inactive {s : State} (f : RawFrame) (take : State → State) (h : s.isActive = false) :
    ∃ g : Line → Line, s.judged f take = s.modLine g := by
  unfold State.judged
  split
  · exact ⟨id, rfl⟩
  · exact ⟨_, rfl⟩
  · exact ⟨_, rfl⟩
  · exact ⟨_, rfl⟩
  · rw [if_neg (by simp [h])]
    exact ⟨id, rfl⟩

/-- A station that hears frames in JOINING is in JOINING with RESET released (R9). -/
theorem isIn_joining_of_hears {s : State} (hj : s.loader.station = .joining) (hh : s.hears = true) :
    s.isIn .joining = true := by
  simp only [State.hears, State.measures, Bool.and_eq_true, Bool.or_eq_true] at hh
  obtain ⟨hactive | hjoining, -⟩ := hh
  · exact absurd hactive (by simp [State.isIn, hj])
  · exact hjoining

/-- The line no longer awaits the part's own frame (R7). -/
def Line.awaitNone (l : Line) : Line := { l with justSent := none }

theorem heardState_eq_modLine (s : State) : s.heardState = s.modLine Line.awaitNone := rfl

theorem duplicate_of_isIn_joining {s : State} (h : s.isIn .joining = true) :
    s.duplicate = s.enterInert .duplicateStation [] := by
  rw [State.duplicate, if_pos h]

/-- A frame that is heard: the part's own frame is no longer awaited, then R7, or R8 and the sender is alive. -/
theorem hear_of_hears {s : State} (f : RawFrame) (take : State → State) (h : s.hears = true) :
    s.hear f take =
      if f.sender.toNat = s.loader.number then
        if ownFrame s.zone.line f then s.heardState else s.heardState.duplicate
      else ((s.heardState.judged f take).aliveFrom f.sender).settled := by
  rw [State.hear, if_neg (by simp [h])]
  rfl

/-- All that hearing a frame can do in JOINING: the line changes, and a duplicate of the own number then puts the station
into INERT (R7, R9, R17). -/
theorem hear_of_joining {s : State} (f : RawFrame) (take : State → State) (hj : s.loader.station = .joining) :
    ∃ g : Line → Line, s.hear f take = s.modLine g ∨
      s.hear f take = (s.modLine g).enterInert .duplicateStation [] := by
  by_cases hh : s.hears = true
  case neg => exact ⟨id, .inl (by simp [State.hear, hh, State.modLine])⟩
  case pos =>
    have hin : s.heardState.isIn .joining = true := isIn_joining_of_hears hj hh
    rw [hear_of_hears f take hh]
    split
    · split
      · exact ⟨Line.awaitNone, .inl (heardState_eq_modLine s)⟩
      · rw [duplicate_of_isIn_joining hin, heardState_eq_modLine]
        exact ⟨Line.awaitNone, .inr rfl⟩
    · obtain ⟨g, hg⟩ := judged_of_inactive f take (isActive_of_joining (s := s.heardState) hj)
      have hidle : (s.heardState.modLine g).isActive = false := isActive_of_joining hj
      rw [hg, aliveFrom_of_inactive _ hidle, settled_of_inactive (by simp [hj]), heardState_eq_modLine]
      exact ⟨g ∘ Line.awaitNone, .inl rfl⟩

/-- A frame heard in JOINING changes neither the spoilage counters nor the roll table (R16). -/
theorem hear_of_joining_frame {s : State} (f : RawFrame) (take : State → State) (hj : s.loader.station = .joining) :
    (s.hear f take).spoilage = s.spoilage ∧ (s.hear f take).zone.stock = s.zone.stock := by
  obtain ⟨g, h | h⟩ := hear_of_joining f take hj <;> simp [h]

/-! ### LOG CLEAR (R173) -/

theorem exec_logClear (h : Header) (s : State) :
    exec (.logClear h) s = .next (s.hearBody h .logClear (takeLogClear h)) := rfl

/-- LOG CLEAR as the block decides it: the log bits, the lane flags and the answer DONE. -/
theorem takeLogClear_heardState (h : Header) (s : State) :
    takeLogClear h s.heardState =
      { s with spoilage := { s.spoilage with log := s.spoilage.status }
               zone := s.answered h .logClear .done 0 (clearLaneFlags s.heard) } := rfl

/-- Settles O33: a LOG CLEAR that is taken reaches its block, and in JOINING no block takes a frame. -/
theorem logClearDecided : Obligations.LogClearDecided := by
  unfold Obligations.LogClearDecided
  refine ⟨fun h s ht => ?_, fun h s t hj hs => ?_⟩
  · rw [exec_logClear, hearBody_of_takes (takeLogClear h) ht rfl (by decide), takeLogClear_heardState]
    rfl
  · rw [exec_logClear] at hs
    obtain rfl := Host.Outcome.next.inj hs
    exact hear_of_joining_frame _ _ hj

end Sys2Proof.Machine

/-! PROOF. O56, faults recorded (R180, R181, R184): one entry is written, its count is held at 255, and the lead context
yields to an occurrence no less grave. -/

namespace Sys2Proof.Machine

/-! ### Recording an occurrence (R180, R184) -/

/-- The entry of an occurrence's class after recording; without an entry before, it is made (R180). -/
def recordedEntry (o : Occurrence) (n : Nat) : Option ClassEntry → ClassEntry
  | none => ⟨o.code.severity, min 255 n, o⟩
  | some c => ⟨c.highest.max o.code.severity, satAdd 255 c.count n, o⟩

/-- Recording writes the entry of the occurrence's class and no other. -/
theorem FaultRecord.record_entries (f : FaultRecord) (o : Occurrence) (n : Nat) :
    (f.record o n).entries =
      f.entries.set o.code.cls.index (recordedEntry o n (f.entries.get? o.code.cls.index)) := by
  rw [FaultRecord.record]
  cases f.entries.get? o.code.cls.index <;> rfl

@[simp] theorem FaultRecord.record_level (f : FaultRecord) (o : Occurrence) (n : Nat) :
    (f.record o n).level = f.level := rfl

theorem FaultRecord.get?_record_same (f : FaultRecord) (o : Occurrence) (n : Nat) :
    (f.record o n).entries.get? o.code.cls.index = some (recordedEntry o n (f.entries.get? o.code.cls.index)) := by
  rw [record_entries, Tbl.get?_set, if_pos rfl]

theorem FaultRecord.get?_record_other (f : FaultRecord) (o : Occurrence) (n : Nat) {j : Nat}
    (hj : j ≠ o.code.cls.index) : (f.record o n).entries.get? j = f.entries.get? j := by
  rw [record_entries, Tbl.get?_set, if_neg hj]

theorem FaultRecord.sorted_record (f : FaultRecord) (o : Occurrence) (n : Nat) (h : f.entries.sorted = true) :
    (f.record o n).entries.sorted = true := by
  rw [record_entries]
  exact Tbl.sorted_set _ _ _ h

/-! ### The lead context (R181) -/

theorem FaultRecord.lead_record_of_none {f : FaultRecord} (o : Occurrence) (n : Nat) (h : f.lead = none) :
    (f.record o n).lead = some o := by
  simp [FaultRecord.record, h]

theorem FaultRecord.lead_record_of_some {f : FaultRecord} {l : Occurrence} (o : Occurrence) (n : Nat)
    (h : f.lead = some l) :
    (f.record o n).lead = if l.code.severity.code ≤ o.code.severity.code then some o else some l := by
  simp [FaultRecord.record, h]

/-- Settles O56: the class entry by whether the class had one, and the lead context by whether it is absent, no graver or
graver. -/
theorem faultsRecorded : Obligations.FaultsRecorded := by
  unfold Obligations.FaultsRecorded
  refine ⟨fun f o n _ hn => ⟨fun hnone => ?_, fun c hc => ?_, fun j hj => f.get?_record_other o n hj,
      f.record_level o n, f.sorted_record o n⟩,
    fun f o n => ⟨FaultRecord.lead_record_of_none o n, fun l hl hle => ?_, fun l hl hlt => ?_⟩⟩
  · rw [FaultRecord.get?_record_same, hnone, recordedEntry, Nat.min_eq_right hn]
  · rw [FaultRecord.get?_record_same, hc]
    rfl
  · rw [FaultRecord.lead_record_of_some o n hl, if_pos hle]
  · rw [FaultRecord.lead_record_of_some o n hl, if_neg (Nat.not_le.mpr hlt)]

end Sys2Proof.Machine

/-! PROOF. O2, O8 and O10: every command but power-on reset is made of a few kinds of change, and each kind keeps queue, time
and station number, the invariant of station and loader, INERT and a good image (R11 to R20). -/

namespace Sys2Proof.Machine

/-! ### What a command can move outside the zone -/

/-- The moves of the station and loader that a command can make, power-on reset apart: RESET goes active (R20), INERT is
entered or reports again (R17, R18), a good image is distributed (R12), ACTIVE is entered (R15), a warm restart (R19). -/
inductive Loader.Moves : Loader → Loader → Prop
  | held (l : Loader) : Moves l { l with held := true }
  | inert (l : Loader) (next : Time) (h : l.station = .start ∨ l.station = .joining) :
      Moves l { l with station := .inert, inertNext := some next, restartAnswer := none }
  | reported (l : Loader) (next : Time) (h : l.station = .inert) : Moves l { l with inertNext := some next }
  | joining (l : Loader) (i : Image) (now : Time) (h : l.station = .start) (hn : stationOk l.number = true) :
      Moves l { l with image := some i, station := .joining, joinedAt := now, warm := false }
  | active (l : Loader) (h : l.station = .joining) :
      Moves l { l with station := .active, warm := false, restartAnswer := none }
  | restart (l : Loader) (now : Time) (terminal : Nat) (h : l.station = .active) :
      Moves l { l with station := .joining, joinedAt := now, warm := true, restartAnswer := some terminal }

/-- The changes a command is made of: of the zone and the web counters always, of the field inputs and of the spoilage
counters by leave, of station and loader by the moves above. Queue and zone time never. -/
inductive Change (inputs counters : Bool) : State → State → Prop
  | refl (s : State) : Change inputs counters s s
  | trans {s t u : State} (h : Change inputs counters s t) (h' : Change inputs counters t u) : Change inputs counters s u
  | zone (s : State) (z : Zone) : Change inputs counters s { s with zone := z }
  | webs (s : State) (w : Tbl Web) : Change inputs counters s { s with webs := w }
  | inputs (h : inputs = true) (s : State) (i : Inputs) : Change inputs counters s { s with inputs := i }
  | counters (h : counters = true) (s : State) (x : Spoilage) : Change inputs counters s { s with spoilage := x }
  | loader (s : State) (l : Loader) (h : s.loader.Moves l) : Change inputs counters s { s with loader := l }

theorem zoneBlind_change (i k : Bool) : ZoneBlind (Change i k) := ⟨Change.refl, Change.trans, Change.zone⟩

theorem Change.enterInert {i k : Bool} (s : State) (code : FaultCode) (context : List CtxElem)
    (h : s.loader.station = .start ∨ s.loader.station = .joining) : Change i k s (s.enterInert code context) :=
  (Change.loader s _ (.inert s.loader _ h)).trans (.zone _ _)

theorem station_of_isIn {s : State} {st : Station} (h : s.isIn st = true) : s.loader.station = st := by
  simp only [State.isIn, Bool.and_eq_true, decide_eq_true_eq] at h
  exact h.2

/-- Hearing a frame is a change whose block's part is one in ACTIVE. -/
theorem Change.hear {i k : Bool} (s : State) (f : RawFrame) (take : State → State)
    (ht : ∀ t : State, t.loader.station = .active → Change i k t (take t)) : Change i k s (s.hear f take) :=
  (zoneBlind_change i k).hear s f take
    (fun t h => .enterInert t _ _ (.inr (station_of_isIn h))) (fun t h => ht t (station_of_isIn h))

/-- A block takes a frame by a change of the zone alone. -/
def ZoneOnly (take : State → State) : Prop := ∀ s : State, ∃ z, take s = { s with zone := z }

theorem ZoneOnly.change {take : State → State} (h : ZoneOnly take) {i k : Bool} (s : State) : Change i k s (take s) := by
  obtain ⟨z, hz⟩ := h s
  exact hz ▸ .zone s z

theorem zoneOnly_within (f : Env → Zone → Zone) : ZoneOnly (State.within · f) := fun _ => ⟨_, rfl⟩

theorem zoneOnly_countMalformed : ZoneOnly State.countMalformed := fun _ => ⟨_, rfl⟩

theorem ZoneOnly.ite {p : State → Prop} [∀ s, Decidable (p s)] {f g : State → State} (hf : ZoneOnly f) (hg : ZoneOnly g) :
    ZoneOnly fun s => if p s then f s else g s := by
  intro s
  show ∃ z, (if p s then f s else g s) = _
  split
  · exact hf s
  · exact hg s

theorem zoneOnly_rollCall (h : Header) (c g : Byte) (w : BitVec 16) (m : BitVec 24) :
    ZoneOnly (takeRollCall h c g w m) := .ite zoneOnly_countMalformed (zoneOnly_within _)

theorem zoneOnly_rollOffer (h : Header) (c : Byte) (x : Serial) (m : BitVec 24) (t : BitVec 16) (f : Byte) :
    ZoneOnly (takeRollOffer h c x m t f) := .ite zoneOnly_countMalformed (zoneOnly_within _)

theorem zoneOnly_rollTake (h : Header) (c : Byte) (x : Serial) (u d : Byte) : ZoneOnly (takeRollTake h c x u d) := by
  unfold takeRollTake
  split
  · exact .ite zoneOnly_countMalformed (zoneOnly_within _)
  · exact zoneOnly_countMalformed

theorem zoneOnly_takeAnswer (h : Header) (c : Byte) (x : Serial) (r : Byte) : ZoneOnly (takeTakeAnswer h c x r) :=
  .ite zoneOnly_countMalformed (zoneOnly_within _)

theorem zoneOnly_callWithdraw (h : Header) (c : Byte) : ZoneOnly (takeCallWithdraw h c) :=
  .ite zoneOnly_countMalformed (zoneOnly_within _)

theorem zoneOnly_passOffer (h : Header) (v : PassVehicle) (r : PassRoll) : ZoneOnly (takePassOffer h v r) := by
  intro s
  unfold takePassOffer
  split
  · exact zoneOnly_within _ s
  · exact zoneOnly_countMalformed s

theorem zoneOnly_passAccept (h : Header) (v k : Byte) : ZoneOnly (takePassAccept h v k) :=
  .ite zoneOnly_countMalformed (zoneOnly_within _)

theorem zoneOnly_passDefer (h : Header) (v k : Byte) : ZoneOnly (takePassDefer h v k) :=
  .ite zoneOnly_countMalformed (zoneOnly_within _)

theorem zoneOnly_passDone (h : Header) (v k : Byte) : ZoneOnly (takePassDone h v k) :=
  .ite zoneOnly_countMalformed (zoneOnly_within _)

theorem zoneOnly_laneService (h : Header) (l d : Byte) : ZoneOnly (takeLaneService h l d) :=
  .ite (fun _ => ⟨_, rfl⟩) (.ite (fun _ => ⟨_, rfl⟩) (zoneOnly_within _))

theorem Change.zoneRestart {i k : Bool} (h : Header) (s : State) (hs : s.loader.station = .active) :
    Change i k s (takeZoneRestart h s) := by
  unfold takeZoneRestart
  split
  · exact .zone s _
  · exact (Change.loader s _ (.restart s.loader s.time h.sender.toNat hs)).trans (.zone _ _)

theorem Change.logClear {i : Bool} (h : Header) (s : State) : Change i true s (takeLogClear h s) :=
  (Change.counters rfl s _).trans (.zone _ _)

theorem Change.runEnd {i : Bool} (s : State) : Change i true s (takeRunEnd s) := by
  unfold takeRunEnd
  split
  · exact (Change.counters rfl s _).trans (.zone _ _)
  · exact .refl s

theorem Change.pressState {i : Bool} (k : Byte) (r e : BitVec 16) (s : State) : Change i true s (takePressState k r e s) := by
  unfold takePressState
  split
  · exact .counters rfl s _
  · split
    · exact .counters rfl s _
    · split
      · exact .runEnd s
      · exact .refl s

/-- The owning block's taking of any frame. -/
theorem Change.takeBody {i : Bool} (h : Header) (b : Body) (s : State) (hs : s.loader.station = .active) :
    Change i true s (takeBody h b s) := by
  cases b with
  | rollCall c u g w m => exact (zoneOnly_rollCall h c g w m).change s
  | rollOffer c x m t f => exact (zoneOnly_rollOffer h c x m t f).change s
  | rollTake c x u d => exact (zoneOnly_rollTake h c x u d).change s
  | takeAnswer c x r => exact (zoneOnly_takeAnswer h c x r).change s
  | callWithdraw c => exact (zoneOnly_callWithdraw h c).change s
  | passOffer v r => exact (zoneOnly_passOffer h v r).change s
  | passAccept v k => exact (zoneOnly_passAccept h v k).change s
  | passDefer v k => exact (zoneOnly_passDefer h v k).change s
  | passDone v k => exact (zoneOnly_passDone h v k).change s
  | laneService l d => exact (zoneOnly_laneService h l d).change s
  | logClear => exact .logClear h s
  | zoneRestart => exact .zoneRestart h s hs
  | pressState k r e => exact .pressState k r e s
  | requestAnswer | zoneReport | faultReport => exact .refl s
  | rollWaste | lotAlert | rollEntry | rollRemove | orderRequest | quarantineSet | quarantineClear | segmentRelease
  | spliceNow | faultAck | reportRequest => exact .zone s _

theorem Change.hearAny {i : Bool} (s : State) (f : RawFrame) : Change i true s (s.hearAny f) := by
  refine .hear s f _ fun t ht => ?_
  unfold takeRaw
  split
  · exact .takeBody _ _ t ht
  · exact .refl t

theorem Change.onZone {i k : Bool} (s : State) (f : Env → Zone → Zone) : Change i k s (s.onZone f) := .zone s _

theorem Change.whenActive {i k : Bool} (s : State) (f : Env → Zone → Zone) : Change i k s (s.whenActive f) :=
  (zoneBlind_change i k).whenActive s f

theorem Change.whenMeasuring {i k : Bool} (s : State) (f : Env → Zone → Zone) : Change i k s (s.whenMeasuring f) :=
  (zoneBlind_change i k).whenMeasuring s f

theorem Change.modInputs {k : Bool} (s : State) (f : Inputs → Inputs) : Change true k s (s.modInputs f) :=
  .inputs rfl s _

/-- An input takes its level, and its block acts where the level is new. -/
theorem Change.level {k : Bool} (s : State) (f : Inputs → Inputs) (g : Env → Zone → Zone) :
    Change true k s ((s.modInputs f).whenActive g) := (Change.modInputs s f).trans (.whenActive _ g)

theorem Change.countLineError {i k : Bool} (s : State) : Change i k s s.countLineError := by
  unfold State.countLineError
  simp only
  split
  · split
    · exact .zone s _
    · exact .zone s _
  · exact .zone s _

theorem Change.heardBytes {i : Bool} (s : State) (heard : List HeardByte) : Change i true s (s.heardBytes heard) := by
  unfold State.heardBytes
  split
  · exact .refl s
  · split
    · exact .refl s
    · exact (Change.zone s _).trans (.countLineError _)
    · exact .countLineError s
    · exact .hearAny s _

theorem Change.imageChecked {i k : Bool} (s : State) (memory : List Byte) : Change i k s (s.imageChecked memory) := by
  unfold State.imageChecked
  split
  next h =>
    split
    · exact ((Change.loader s _ (.joining s.loader _ s.time (station_of_isIn h.1) h.2)).trans (.webs _ _)).trans
        (.zone _ _)
    · exact .enterInert s _ _ (.inl (station_of_isIn h.1))
  · exact .refl s

theorem Change.inertReported {i k : Bool} (s : State) : Change i k s s.inertReported := by
  unfold State.inertReported
  split
  · split
    next h => exact (Change.loader s _ (.reported s.loader _ (station_of_isIn h.1))).trans (.zone _ _)
    · exact .refl s
  · exact .refl s

theorem Change.joiningEnded {i : Bool} (s : State) : Change i true s s.joiningEnded := by
  unfold State.joiningEnded
  split
  next h =>
    exact ((Change.loader s _ (.active s.loader (station_of_isIn h.1))).trans (.counters rfl _ _)).trans (.zone _ _)
  · exact .refl s

theorem Change.encoderPulsed {i k : Bool} (s : State) (r : Nat) : Change i k s (s.encoderPulsed r) := by
  unfold State.encoderPulsed
  split
  · refine (Change.onZone s fun e z => serveMissingIndex e r z).trans ?_
    exact (Change.webs _ _).trans (.onZone _ _)
  · exact .refl s

theorem Change.gateEnded {i k : Bool} (s : State) (r : Nat) : Change i k s (s.gateEnded r) := by
  unfold State.gateEnded
  split
  · exact (Change.webs s _).trans (.zone _ _)
  · exact .refl s

theorem Change.breakPassed {i : Bool} (s : State) (r : Nat) : Change i true s (s.breakPassed r) :=
  (Change.zone s (countBreak s.env r s.zone).1).trans (.counters rfl _ _)

theorem Change.webBreakTaken (s : State) (r : Nat) : Change true true s (s.webBreakTaken r) := by
  refine (Change.modInputs s fun i => { i with reels := i.reels.set r { s.reelIns r with webBreak := true } }).trans ?_
  unfold State.webBreakTaken
  simp only
  split
  · exact .refl _
  · split
    · exact (Change.breakPassed _ r).trans (.onZone _ _)
    · exact .breakPassed _ r

theorem Change.webBreakCleared (s : State) (r : Nat) : Change true true s (s.webBreakCleared r) := by
  refine (Change.modInputs s fun i => { i with reels := i.reels.set r { s.reelIns r with webBreak := false } }).trans ?_
  unfold State.webBreakCleared
  simp only
  split
  · exact .refl _
  · split
    · exact (Change.counters rfl _ _).trans (.whenActive _ _)
    · exact .whenActive _ _

theorem Change.gateChanged (s : State) (waste : Bool) : Change true true s (s.gateChanged waste) := by
  refine (Change.modInputs s fun i => { i with wasteGate := waste }).trans ?_
  unfold State.gateChanged
  simp only
  split
  · exact .counters rfl _ _
  · exact .refl _

theorem Change.copyTaken {i : Bool} (s : State) : Change i true s s.copyTaken := by
  unfold State.copyTaken
  split
  · exact (Change.counters rfl s _).trans (.zone _ _)
  · exact .refl s

theorem Change.rateWindowEnded {i : Bool} (s : State) : Change i true s s.rateWindowEnded := by
  unfold State.rateWindowEnded
  split
  · exact (Change.counters rfl s _).trans (.zone _ _)
  · exact .refl s

theorem Change.transmitStarted {i k : Bool} (s : State) (quiet : Nat) (b : Byte) :
    Change i k s (s.transmitStarted quiet b) := by
  unfold State.transmitStarted
  split
  · exact .refl s
  · split
    · exact .zone s _
    · exact .refl s

theorem Change.frameSent {i k : Bool} (s : State) : Change i k s s.frameSent := by
  unfold State.frameSent
  split
  · exact .refl s
  · split
    · exact .refl s
    · exact .zone s _

theorem Change.carriageRose {i k : Bool} (s : State) (p : Option Place) : Change i k s (s.carriageRose p) := by
  refine (Change.zone s { s.zone with transfer := { s.zone.transfer with doneInput := true, placeInput := p } }).trans ?_
  unfold State.carriageRose
  simp only
  split
  · exact .refl _
  · exact .whenActive _ _

/-- A level input that takes a level: its block acts only where the level is new. -/
theorem Change.levelIf {k : Bool} (s : State) (f : Inputs → Inputs) (b : Prop) [Decidable b] (g : Env → Zone → Zone) :
    Change true k s (if b then s.modInputs f else (s.modInputs f).whenActive g) := by
  split
  · exact .modInputs s f
  · exact .level s f g

theorem Change.levelUnless {k : Bool} (s : State) (f : Inputs → Inputs) (b : Prop) [Decidable b]
    (g : Env → Zone → Zone) : Change true k s (if b then (s.modInputs f).whenActive g else s.modInputs f) := by
  split
  · exact .level s f g
  · exact .modInputs s f

/-- Every command but power-on reset is made of the changes it has leave for. -/
theorem exec_change (c : Instr) (s : State) (hc : ∀ straps, c ≠ .powerOnReset straps) :
    ∃ t, exec c s = .next t ∧ Change (movesInput c) (touchesCounters c) s t := by
  cases c with
  | powerOnReset straps => exact absurd rfl (hc straps)
  | imageCheck memory => exact ⟨_, rfl, .imageChecked s memory⟩
  | inertReportRepeat => exact ⟨_, rfl, .inertReported s⟩
  | joiningEnd => exact ⟨_, rfl, .joiningEnded s⟩
  | lineErrorPeriodEnd =>
    refine ⟨_, rfl, ?_⟩
    unfold State.periodEnded
    split
    · exact .zone s _
    · exact .refl s
  | lineError heard => exact ⟨_, rfl, .heardBytes s heard⟩
  | duplicateStation a k b => exact ⟨_, rfl, .hearAny s _⟩
  | frameDiscard f => exact ⟨_, rfl, .hearAny s f⟩
  | transmitStart quiet b => exact ⟨_, rfl, .transmitStarted s quiet b⟩
  | frameSent => exact ⟨_, rfl, .frameSent s⟩
  | rollCall h c u g w m => exact ⟨_, rfl, .hear s _ _ fun t _ => (zoneOnly_rollCall h c g w m).change t⟩
  | rollOffer h c x m t f => exact ⟨_, rfl, .hear s _ _ fun y _ => (zoneOnly_rollOffer h c x m t f).change y⟩
  | rollTake h c x u d => exact ⟨_, rfl, .hear s _ _ fun t _ => (zoneOnly_rollTake h c x u d).change t⟩
  | takeAnswer h c x r => exact ⟨_, rfl, .hear s _ _ fun t _ => (zoneOnly_takeAnswer h c x r).change t⟩
  | callWithdraw h c => exact ⟨_, rfl, .hear s _ _ fun t _ => (zoneOnly_callWithdraw h c).change t⟩
  | passOffer h v r => exact ⟨_, rfl, .hear s _ _ fun t _ => (zoneOnly_passOffer h v r).change t⟩
  | passAccept h v k => exact ⟨_, rfl, .hear s _ _ fun t _ => (zoneOnly_passAccept h v k).change t⟩
  | passDefer h v k => exact ⟨_, rfl, .hear s _ _ fun t _ => (zoneOnly_passDefer h v k).change t⟩
  | passDone h v k => exact ⟨_, rfl, .hear s _ _ fun t _ => (zoneOnly_passDone h v k).change t⟩
  | logClear h => exact ⟨_, rfl, .hear s _ _ fun t _ => .logClear h t⟩
  | zoneRestart h => exact ⟨_, rfl, .hear s _ _ fun t ht => .zoneRestart h t ht⟩
  | runStart h r e => exact ⟨_, rfl, .hear s _ _ fun t _ => .counters rfl t _⟩
  | editionChange h e => exact ⟨_, rfl, .hear s _ _ fun t _ => .counters rfl t _⟩
  | runEnd h => exact ⟨_, rfl, .hear s _ _ fun t _ => .runEnd t⟩
  | rollWaste | lotAlert | rollEntry | rollRemove | orderRequest | laneServiceOut | laneServiceIn | quarantineSet
  | quarantineClear | segmentRelease | spliceNow | faultAck | reportRequest =>
    exact ⟨_, rfl, .hear s _ _ fun t _ => .zone t _⟩
  | tagRead k tag => exact ⟨_, rfl, .levelIf s _ _ _⟩
  | occupancyClear k => exact ⟨_, rfl, .levelUnless s _ _ _⟩
  | atDockRise d => exact ⟨_, rfl, .levelIf s _ _ _⟩
  | atDockFall d => exact ⟨_, rfl, .levelUnless s _ _ _⟩
  | laneDetectorChange l p a => exact ⟨_, rfl, .level s _ _⟩
  | armOpenChange r x a => exact ⟨_, rfl, .level s _ _⟩
  | rollPresentChange r x a => exact ⟨_, rfl, .level s _ _⟩
  | standbyReadyChange r a => exact ⟨_, rfl, .levelIf s _ _ _⟩
  | speedMatchedChange r a => exact ⟨_, rfl, .levelIf s _ _ _⟩
  | passAnswerTimeout | passOfferRepeat | passUnconfirmed | laneDisagreeTimeout | restockPeriod | stepLimitExpiry
  | holdLimitExpiry | offerWindowEnd | takeAnswerTimeout | reissueTime | unloadRetry | armDisagreeTimeout | matchTimeout
  | pasteDone | pasteTimeout | knifeFallback | knifeDone | knifeTimeout => exact ⟨_, rfl, .whenActive s _⟩
  | missingIndexPoint | revolutionIndex => exact ⟨_, rfl, .whenMeasuring s _⟩
  | travelComplete p => exact ⟨_, rfl, .carriageRose s p⟩
  | pickComplete p => exact ⟨_, rfl, .carriageRose s p⟩
  | setComplete p => exact ⟨_, rfl, .carriageRose s p⟩
  | encoderPulse r => exact ⟨_, rfl, .encoderPulsed s r⟩
  | speedGateEnd r => exact ⟨_, rfl, .gateEnded s r⟩
  | webBreak r => exact ⟨_, rfl, .webBreakTaken s r⟩
  | webBreakClear r => exact ⟨_, rfl, .webBreakCleared s r⟩
  | wasteGateChange w => exact ⟨_, rfl, .gateChanged s w⟩
  | folderCopyPulse => exact ⟨_, rfl, .copyTaken s⟩
  | rateWindowEnd => exact ⟨_, rfl, .rateWindowEnded s⟩
  | resetHeldActive => exact ⟨_, rfl, (Change.loader s _ (.held s.loader)).trans (.zone _ _)⟩
  | receiveQuiet12Bits =>
    refine ⟨_, rfl, ?_⟩
    unfold State.quietAgain
    split
    · exact .refl s
    · exact .zone s _

/-! ### What the changes keep -/

theorem Loader.Moves.number {l m : Loader} (h : l.Moves m) : m.number = l.number := by cases h <;> rfl

theorem Change.frame {i k : Bool} {s t : State} (h : Change i k s t) :
    t.pending = s.pending ∧ t.time = s.time ∧ t.loader.number = s.loader.number ∧
      (i = false → t.inputs = s.inputs) ∧ (k = false → t.spoilage = s.spoilage) := by
  induction h with
  | refl | zone | webs => exact ⟨rfl, rfl, rfl, fun _ => rfl, fun _ => rfl⟩
  | trans h h' ih ih' =>
    obtain ⟨hp, ht, hn, hi, hk⟩ := ih
    obtain ⟨hp', ht', hn', hi', hk'⟩ := ih'
    exact ⟨hp'.trans hp, ht'.trans ht, hn'.trans hn, fun h => (hi' h).trans (hi h), fun h => (hk' h).trans (hk h)⟩
  | inputs h => exact ⟨rfl, rfl, rfl, fun hf => absurd h (by simp [hf]), fun _ => rfl⟩
  | counters h => exact ⟨rfl, rfl, rfl, fun _ => rfl, fun hf => absurd h (by simp [hf])⟩
  | loader s l h => exact ⟨rfl, rfl, h.number, fun _ => rfl, fun _ => rfl⟩

/-- The invariant of station and loader as a fact of the loader alone. -/
structure Loader.Sound (l : Loader) : Prop where
  start : l.station = .start → l.image = none
  running : l.station = .joining ∨ l.station = .active → l.image.isSome = true ∧ stationOk l.number = true
  inert : l.station ≠ .inert → l.inertNext = none
  joining : l.station ≠ .joining → l.restartAnswer = none

theorem stationSound_iff (s : State) : s.stationSound = true ↔ s.loader.Sound := by
  unfold State.stationSound
  constructor
  · intro h
    constructor <;> cases hst : s.loader.station <;> simp_all
  · rintro ⟨h1, h2, h3, h4⟩
    cases hst : s.loader.station <;> simp_all

/-- What a move of the loader keeps (R12, R18): the invariant, INERT, a good image, and START is not entered. -/
structure Loader.Lasts (l m : Loader) : Prop where
  sound : m.Sound
  inert : l.station = .inert → m.station = .inert
  image : ∀ i, l.image = some i → m.image = some i
  start : l.station ≠ .start → m.station ≠ .start

theorem Loader.Lasts.refl {l : Loader} (h : l.Sound) : l.Lasts l := ⟨h, id, fun _ => id, id⟩

theorem Loader.Lasts.trans {l m n : Loader} (h : l.Lasts m) (h' : m.Lasts n) : l.Lasts n :=
  ⟨h'.sound, h'.inert ∘ h.inert, fun i hi => h'.image i (h.image i hi), h'.start ∘ h.start⟩

theorem Loader.Moves.lasts {l m : Loader} (h : l.Moves m) (hs : l.Sound) : l.Lasts m := by
  obtain ⟨hstart, hrunning, hinert, hjoining⟩ := hs
  cases h with
  | held => exact ⟨⟨hstart, hrunning, hinert, hjoining⟩, id, fun _ => id, id⟩
  | inert next h => exact ⟨by constructor <;> simp, by simp, by simp, by simp⟩
  | reported next h => exact ⟨by constructor <;> simp_all, by simp, by simp, by simp⟩
  | joining i now h hn => exact ⟨by constructor <;> simp_all, by simp [h], by simp [hstart h], by simp⟩
  | active h => exact ⟨by constructor <;> simp_all, by simp [h], by simp, by simp⟩
  | restart now terminal h => exact ⟨by constructor <;> simp_all, by simp [h], by simp, by simp⟩

theorem Change.lasts {i k : Bool} {s t : State} (h : Change i k s t) (hs : s.loader.Sound) : s.loader.Lasts t.loader := by
  induction h with
  | refl | zone | webs | inputs | counters => exact .refl hs
  | trans h h' ih ih' => exact (ih hs).trans (ih' (ih hs).sound)
  | loader s l h => exact h.lasts hs

theorem released_sound (s : State) (straps : BitVec 5) : (s.released straps).loader.Sound := by
  have hnumber : (s.released straps).loader.number = straps.toNat := rfl
  have hstation : (s.released straps).loader.station = if stationOk straps.toNat then .start else .inert := rfl
  constructor
  · exact fun _ => rfl
  · rw [hstation]
    split <;> simp
  · exact fun _ => rfl
  · exact fun _ => rfl

theorem exec_powerOnReset (straps : BitVec 5) (s : State) : exec (.powerOnReset straps) s = .next (s.released straps) := rfl

/-- Every command keeps the invariant of station and loader. -/
theorem exec_sound {c : Instr} {s t : State} (hs : s.loader.Sound) (ht : exec c s = .next t) : t.loader.Sound := by
  by_cases hc : ∀ straps, c ≠ .powerOnReset straps
  · obtain ⟨u, hu, h⟩ := exec_change c s hc
    obtain rfl := Host.Outcome.next.inj (hu.symm.trans ht)
    exact (h.lasts hs).sound
  · simp only [not_forall, not_not] at hc
    obtain ⟨straps, rfl⟩ := hc
    obtain rfl := Host.Outcome.next.inj ht
    exact released_sound s straps

theorem tick_loader (s : State) : s.tick.loader = s.loader := by
  unfold State.tick
  split <;> rfl

/-- Settles O8: a decisecond leaves the loader, and every command keeps its invariant. -/
theorem stepKeepsStationSound : Obligations.StepKeepsStationSound := by
  unfold Obligations.StepKeepsStationSound
  intro s t hs ht
  rw [stationSound_iff] at hs ⊢
  unfold step at ht
  split at ht
  · obtain rfl := Host.Outcome.next.inj ht
    rwa [tick_loader]
  next c rest _ => exact exec_sound (s := { s with pending := rest }) hs ht

/-- Settles O10: each move of the loader keeps INERT and a good image, and none enters START. -/
theorem inertAndImageLast : Obligations.InertAndImageLast := by
  unfold Obligations.InertAndImageLast
  intro c s t hs hc ht
  obtain ⟨u, hu, h⟩ := exec_change c s hc
  obtain rfl := Host.Outcome.next.inj (hu.symm.trans ht)
  have hl := h.lasts ((stationSound_iff s).mp hs)
  exact ⟨hl.inert, hl.image, hl.start⟩

/-- Settles O2: power-on reset keeps the queue and the levels of the inputs, and every other command is made of changes
that keep queue, time and number. -/
theorem commandsKeepTimeNumberAndQueue : Obligations.CommandsKeepTimeNumberAndQueue := by
  unfold Obligations.CommandsKeepTimeNumberAndQueue
  intro c s
  by_cases hc : ∀ straps, c ≠ .powerOnReset straps
  · obtain ⟨t, ht, h⟩ := exec_change c s hc
    obtain ⟨hpending, htime, hnumber, hinputs, hcounters⟩ := h.frame
    exact ⟨t, ht, hpending, fun _ => ⟨htime, hnumber⟩, hinputs, hcounters⟩
  · have hreset := hc
    simp only [not_forall, not_not] at hreset
    obtain ⟨straps, rfl⟩ := hreset
    exact ⟨_, exec_powerOnReset straps s, rfl, fun h => absurd h hc, fun _ => rfl, by simp [touchesCounters]⟩

end Sys2Proof.Machine

/-! PROOF. O9: every step keeps the tables in their form and bounds (Safety.lean). The laws say it of every operation on the
zone; here each command is put together from them. -/

namespace Sys2Proof.Machine

/-! ### The sound form of the whole state -/

/-- Every table of the part is in its form and bounds, by parts. -/
structure State.Tables (s : State) : Prop where
  zone : SoundZone s.env.img s.zone
  webs : s.webs.sorted = true
  inputs : s.inputs.sound = true

theorem tablesSound_iff (s : State) : s.tablesSound = true ↔ s.Tables := by
  simp only [State.tablesSound, Bool.and_eq_true, sound_iff]
  exact ⟨fun ⟨⟨hz, hw⟩, hi⟩ => ⟨hz, hw, hi⟩, fun ⟨hz, hw, hi⟩ => ⟨⟨hz, hw⟩, hi⟩⟩

/-- An operation of the blocks keeps the tables of the zone. -/
def KeepsZone (f : Env → Zone → Zone) : Prop := ∀ e z, SoundZone e.img z → SoundZone e.img (f e z)

/-- A part of a command keeps the tables of the state. -/
def KeepsTables (f : State → State) : Prop := ∀ s : State, s.Tables → (f s).Tables

theorem keepsZone_finish : KeepsZone finish := fun _ _ => finish_keeps

theorem State.Tables.within {s : State} (h : s.Tables) {f : Env → Zone → Zone} (hf : KeepsZone f) : (s.within f).Tables :=
  ⟨hf _ _ h.zone, h.webs, h.inputs⟩

theorem State.Tables.settled {s : State} (h : s.Tables) : s.settled.Tables := h.within keepsZone_finish

theorem State.Tables.onZone {s : State} (h : s.Tables) {f : Env → Zone → Zone} (hf : KeepsZone f) : (s.onZone f).Tables :=
  (h.within hf).settled

theorem State.Tables.whenActive {s : State} (h : s.Tables) {f : Env → Zone → Zone} (hf : KeepsZone f) :
    (s.whenActive f).Tables := by
  unfold State.whenActive
  split
  · exact h.onZone hf
  · exact h

theorem State.Tables.whenMeasuring {s : State} (h : s.Tables) {f : Env → Zone → Zone} (hf : KeepsZone f) :
    (s.whenMeasuring f).Tables := by
  unfold State.whenMeasuring
  split
  · exact h.onZone hf
  · exact h

theorem State.Tables.modLine {s : State} (h : s.Tables) {f : Line → Line} (hf : ∀ l, SoundLine l → SoundLine (f l)) :
    (s.modLine f).Tables := ⟨sound_of_line h.zone (hf _ h.zone.line), h.webs, h.inputs⟩

/-- A change of the counts and times of the line alone. -/
theorem State.Tables.sameQueues {s : State} (h : s.Tables) {f : Line → Line}
    (hf : ∀ l, (f l).queue = l.queue ∧ (f l).waiting = l.waiting) : (s.modLine f).Tables :=
  h.modLine fun l hl => ⟨(hf l).1 ▸ hl.q, (hf l).2 ▸ hl.w⟩

theorem State.Tables.modInputs {s : State} (h : s.Tables) {f : Inputs → Inputs}
    (hf : ∀ i, i.sound = true → (f i).sound = true) : (s.modInputs f).Tables := ⟨h.zone, h.webs, hf _ h.inputs⟩

theorem State.Tables.spoilage {s : State} (h : s.Tables) (x : Spoilage) : ({ s with spoilage := x } : State).Tables :=
  ⟨h.zone, h.webs, h.inputs⟩

theorem State.Tables.modWebs {s : State} (h : s.Tables) (r : Nat) (f : Web → Web) :
    ({ s with webs := s.webs.modify r f } : State).Tables := ⟨h.zone, (Tbl.sorted_modify _ _ _).trans h.webs, h.inputs⟩

/-- A move of the loader that leaves the image keeps the tables. -/
theorem State.Tables.loader {s : State} (h : s.Tables) (l : Loader) (hl : l.image = s.loader.image) :
    ({ s with loader := l } : State).Tables := by
  refine ⟨?_, h.webs, h.inputs⟩
  have himg : ({ s with loader := l } : State).env.img = s.env.img := by simp only [State.env, hl]
  rw [himg]
  exact h.zone

theorem State.Tables.enterInert {s : State} (h : s.Tables) (code : FaultCode) (context : List CtxElem) :
    (s.enterInert code context).Tables := by
  have hz : SoundZone s.env.img (s.enterInert code context).zone :=
    offerInert_keeps (sound_of_faults h.zone (FaultRecord.sorted_record _ _ _ h.zone.faults))
  exact ⟨hz, h.webs, h.inputs⟩

/-! ### The level inputs -/

theorem inputs_sound_iff (i : Inputs) : i.sound = true ↔
    i.occupancy.sorted = true ∧ i.atDock.sorted = true ∧ i.lanes.sorted = true ∧ i.reels.sorted = true := by
  simp only [Inputs.sound, Bool.and_eq_true, and_assoc]

theorem State.Tables.occupancy {s : State} (h : s.Tables) {f : Tbl Nat → Tbl Nat}
    (hf : ∀ t : Tbl Nat, t.sorted = true → (f t).sorted = true) :
    (s.modInputs fun i => { i with occupancy := f i.occupancy }).Tables :=
  h.modInputs fun i hi => by
    rw [inputs_sound_iff] at hi ⊢
    exact ⟨hf _ hi.1, hi.2⟩

theorem State.Tables.atDock {s : State} (h : s.Tables) {f : Tbl Bool → Tbl Bool}
    (hf : ∀ t : Tbl Bool, t.sorted = true → (f t).sorted = true) :
    (s.modInputs fun i => { i with atDock := f i.atDock }).Tables :=
  h.modInputs fun i hi => by
    rw [inputs_sound_iff] at hi ⊢
    obtain ⟨ho, hd, hl, hr⟩ := hi
    exact ⟨ho, hf _ hd, hl, hr⟩

theorem State.Tables.laneInput {s : State} (h : s.Tables) (k : Nat) (a : Bool) :
    (s.modInputs fun i => { i with lanes := i.lanes.set k a }).Tables :=
  h.modInputs fun i hi => by
    rw [inputs_sound_iff] at hi ⊢
    obtain ⟨ho, hd, hl, hr⟩ := hi
    exact ⟨ho, hd, Tbl.sorted_set _ _ _ hl, hr⟩

theorem State.Tables.modReelIns {s : State} (h : s.Tables) (r : Nat) (f : ReelIns → ReelIns) : (s.modReelIns r f).Tables :=
  h.modInputs fun i hi => by
    rw [inputs_sound_iff] at hi ⊢
    obtain ⟨ho, hd, hl, hr⟩ := hi
    exact ⟨ho, hd, hl, Tbl.sorted_set _ _ _ hr⟩

/-! ### Frames heard -/

theorem State.Tables.countMalformed {s : State} (h : s.Tables) : s.countMalformed.Tables :=
  h.sameQueues fun _ => ⟨rfl, rfl⟩

theorem State.Tables.decide {s : State} (h : s.Tables) (hd : Header) (k : Kind) (ref : Reference)
    {f : Env → Zone → Zone × Result} (hf : ∀ e z, SoundZone e.img z → SoundZone e.img (f e z).1) :
    (s.decide hd k ref f).Tables := h.within fun e z hz => answer_keeps (hf e z hz)

/-- A taking that discards a malformed frame (R191) and else works on the zone. -/
theorem KeepsTables.ite {p : Prop} [Decidable p] {f g : State → State} (hf : KeepsTables f) (hg : KeepsTables g) :
    KeepsTables fun s => if p then f s else g s := by
  intro s hs
  show (if p then f s else g s).Tables
  split
  · exact hf s hs
  · exact hg s hs

theorem keepsTables_countMalformed : KeepsTables State.countMalformed := fun _ => State.Tables.countMalformed

theorem KeepsZone.tables {f : Env → Zone → Zone} (hf : KeepsZone f) : KeepsTables (State.within · f) :=
  fun _ h => h.within hf

theorem keepsTables_rollCall (h : Header) (c g : Byte) (w : BitVec 16) (m : BitVec 24) :
    KeepsTables (takeRollCall h c g w m) :=
  .ite keepsTables_countMalformed (KeepsZone.tables fun _ _ => answerRollCall_keeps)

theorem keepsTables_rollOffer (h : Header) (c : Byte) (x : Serial) (m : BitVec 24) (t : BitVec 16) (f : Byte) :
    KeepsTables (takeRollOffer h c x m t f) := by
  refine .ite keepsTables_countMalformed (KeepsZone.tables fun e z hz => ?_)
  split
  next d hd => exact ite_keeps (setCall_keeps hz (takeOffer_len (numbered_len hz hd))) hz
  · exact hz

theorem keepsTables_rollTake (h : Header) (c : Byte) (x : Serial) (u d : Byte) : KeepsTables (takeRollTake h c x u d) := by
  unfold takeRollTake
  split
  · exact .ite keepsTables_countMalformed (KeepsZone.tables fun _ _ => takeRoll_keeps)
  · exact keepsTables_countMalformed

theorem keepsTables_takeAnswer (h : Header) (c : Byte) (x : Serial) (r : Byte) : KeepsTables (takeTakeAnswer h c x r) :=
  .ite keepsTables_countMalformed (KeepsZone.tables fun _ _ => answerTaken_keeps)

theorem keepsTables_callWithdraw (h : Header) (c : Byte) : KeepsTables (takeCallWithdraw h c) :=
  .ite keepsTables_countMalformed (KeepsZone.tables fun _ _ => withdrawReservation_keeps)

theorem keepsTables_passOffer (h : Header) (v : PassVehicle) (r : PassRoll) : KeepsTables (takePassOffer h v r) := by
  intro s hs
  unfold takePassOffer
  split
  · exact hs.within fun _ _ => receiveOffer_keeps
  · exact hs.countMalformed

theorem keepsTables_passAccept (h : Header) (v k : Byte) : KeepsTables (takePassAccept h v k) :=
  .ite keepsTables_countMalformed (KeepsZone.tables fun _ _ => acceptAnswered_keeps)

theorem keepsTables_passDefer (h : Header) (v k : Byte) : KeepsTables (takePassDefer h v k) :=
  .ite keepsTables_countMalformed (KeepsZone.tables fun _ _ => deferAnswered_keeps)

theorem keepsTables_passDone (h : Header) (v k : Byte) : KeepsTables (takePassDone h v k) :=
  .ite keepsTables_countMalformed (KeepsZone.tables fun _ _ => passDoneAnswered_keeps)

theorem keepsTables_rollWaste (x : Serial) (m : BitVec 16) : KeepsTables (takeWaste x m) :=
  KeepsZone.tables fun _ _ => takeRollWaste_keeps

theorem keepsTables_lotAlert (h : Header) (l : Serial) : KeepsTables (takeLotAlert h l) :=
  KeepsZone.tables fun _ _ => addAlert_keeps

theorem keepsTables_rollEntry (h : Header) (p : PlaceCode) (x : Serial) (g : Byte) (w : BitVec 16) (c : Byte)
    (m : BitVec 24) : KeepsTables (takeRollEntry h p x g w c m) := fun _ hs => hs.decide _ _ _ fun _ _ => rollEntered_keeps

theorem keepsTables_rollRemove (h : Header) (x : Serial) (p : PlaceCode) : KeepsTables (takeRollRemove h x p) :=
  fun _ hs => hs.decide _ _ _ fun _ _ => rollRemoved_keeps

theorem keepsTables_orderRequest (h : Header) (q : Byte) (x : Serial) (a b : PlaceCode) :
    KeepsTables (takeOrderRequest h q x a b) := fun _ hs => hs.within fun _ _ hz => answer_keeps (orderAsked_keeps hz)

theorem keepsTables_laneOut (h : Header) (l : Byte) : KeepsTables (takeLaneOut h l) :=
  fun _ hs => hs.decide _ _ _ fun _ _ => laneTakenOut_keeps

theorem keepsTables_laneIn (h : Header) (l : Byte) : KeepsTables (takeLaneIn h l) :=
  fun _ hs => hs.decide _ _ _ fun _ _ => laneServed_keeps

theorem keepsTables_quarantineSet (h : Header) (k : Byte) (a b : Serial) : KeepsTables (takeQuarantineSet h k a b) :=
  fun _ hs => hs.within fun _ _ hz => answer_keeps (quarantineWritten_keeps hz)

theorem keepsTables_quarantineClear (h : Header) (k : Byte) : KeepsTables (takeQuarantineClear h k) :=
  fun _ hs => hs.decide _ _ _ fun _ _ => quarantineCleared_keeps

theorem keepsTables_segmentRelease (h : Header) (k : Byte) : KeepsTables (takeSegmentRelease h k) :=
  fun _ hs => hs.decide _ _ _ fun _ _ => segmentReleased_keeps

theorem keepsTables_spliceNow (h : Header) (r : Byte) : KeepsTables (takeSpliceNow h r) :=
  fun _ hs => hs.decide _ _ _ fun _ _ => spliceByHand_keeps

theorem keepsTables_faultAck (h : Header) : KeepsTables (takeFaultAck h) :=
  fun _ hs => hs.decide _ _ _ fun _ _ => faultsAcknowledged_keeps

theorem keepsTables_logClear (h : Header) : KeepsTables (takeLogClear h) :=
  fun _ hs => (hs.spoilage _).decide _ _ _ fun _ _ => clearLaneFlags_keeps

theorem keepsTables_reportRequest (h : Header) (p i n : Byte) : KeepsTables (takeReportRequest h p i n) := by
  refine fun s hs => hs.within fun e z hz => ?_
  show SoundZone e.img (match zoneReport e s.spoilage z p.toNat i.toNat n.toNat with
    | some b => offer e ⟨h.sender.toNat, b⟩ z
    | none => answer e h.sender.toNat .reportRequest .refusedRange 0 z)
  split
  · exact offer_keeps hz
  · exact answer_keeps hz

theorem keepsTables_zoneRestart (h : Header) : KeepsTables (takeZoneRestart h) := by
  intro s hs
  unfold takeZoneRestart
  split
  · exact hs.within fun _ _ => answer_keeps
  · exact ⟨zoneRestarted_keeps hs.zone, hs.webs, hs.inputs⟩

theorem keepsTables_runEnd : KeepsTables takeRunEnd := by
  intro s hs
  unfold takeRunEnd
  split
  · exact (hs.spoilage _).within fun _ _ => withdrawRunouts_keeps
  · exact hs

theorem keepsTables_laneService (h : Header) (l d : Byte) : KeepsTables (takeLaneService h l d) :=
  .ite (keepsTables_laneOut h l) (.ite (keepsTables_laneIn h l) (KeepsZone.tables fun _ _ => answer_keeps))

theorem keepsTables_pressState (k : Byte) (r e : BitVec 16) : KeepsTables (takePressState k r e) :=
  .ite (fun _ hs => hs.spoilage _) (.ite (fun _ hs => hs.spoilage _) (.ite keepsTables_runEnd fun _ hs => hs))

/-- The owning block's taking of any frame. -/
theorem keepsTables_takeBody (h : Header) (b : Body) : KeepsTables (takeBody h b) := by
  cases b with
  | rollCall c u g w m => exact keepsTables_rollCall h c g w m
  | rollOffer c x m t f => exact keepsTables_rollOffer h c x m t f
  | rollTake c x u d => exact keepsTables_rollTake h c x u d
  | takeAnswer c x r => exact keepsTables_takeAnswer h c x r
  | callWithdraw c => exact keepsTables_callWithdraw h c
  | passOffer v r => exact keepsTables_passOffer h v r
  | passAccept v k => exact keepsTables_passAccept h v k
  | passDefer v k => exact keepsTables_passDefer h v k
  | passDone v k => exact keepsTables_passDone h v k
  | rollWaste x m => exact keepsTables_rollWaste x m
  | lotAlert l r => exact keepsTables_lotAlert h l
  | rollEntry p x g w c m => exact keepsTables_rollEntry h p x g w c m
  | rollRemove x p => exact keepsTables_rollRemove h x p
  | orderRequest q x a b => exact keepsTables_orderRequest h q x a b
  | laneService l d => exact keepsTables_laneService h l d
  | quarantineSet k a b => exact keepsTables_quarantineSet h k a b
  | quarantineClear k => exact keepsTables_quarantineClear h k
  | segmentRelease k => exact keepsTables_segmentRelease h k
  | spliceNow r => exact keepsTables_spliceNow h r
  | faultAck => exact keepsTables_faultAck h
  | logClear => exact keepsTables_logClear h
  | reportRequest p i n => exact keepsTables_reportRequest h p i n
  | zoneRestart => exact keepsTables_zoneRestart h
  | pressState k r e => exact keepsTables_pressState k r e
  | requestAnswer | zoneReport | faultReport => exact fun _ hs => hs

theorem keepsTables_takeRaw (f : RawFrame) : KeepsTables (takeRaw f) := by
  intro s hs
  unfold takeRaw
  split
  · exact keepsTables_takeBody _ _ s hs
  · exact hs

theorem State.Tables.duplicate {s : State} (h : s.Tables) : s.duplicate.Tables := by
  unfold State.duplicate
  split
  · exact h.enterInert _ _
  · exact h.onZone fun _ _ => raise_keeps

theorem State.Tables.judged {s : State} (h : s.Tables) (f : RawFrame) {take : State → State} (ht : KeepsTables take) :
    (s.judged f take).Tables := by
  unfold State.judged
  split
  · exact h
  · exact h.sameQueues fun _ => ⟨rfl, rfl⟩
  · exact h.sameQueues fun _ => ⟨rfl, rfl⟩
  · exact h.sameQueues fun _ => ⟨rfl, rfl⟩
  · split
    · exact ht s h
    · exact h

theorem State.Tables.aliveFrom {s : State} (h : s.Tables) (sender : Byte) : (s.aliveFrom sender).Tables := by
  unfold State.aliveFrom
  split
  · exact h.within fun _ _ => senderAlive_keeps
  · exact h

theorem State.Tables.hear {s : State} (h : s.Tables) (f : RawFrame) {take : State → State} (ht : KeepsTables take) :
    (s.hear f take).Tables := by
  have hheard : s.heardState.Tables := h.sameQueues (f := Line.awaitNone) fun _ => ⟨rfl, rfl⟩
  by_cases hh : s.hears = true
  · rw [hear_of_hears f take hh]
    split
    · split
      · exact hheard
      · exact hheard.duplicate
    · exact ((hheard.judged f ht).aliveFrom _).settled
  · simpa [State.hear, hh] using h

theorem State.Tables.hearAny {s : State} (h : s.Tables) (f : RawFrame) : (s.hearAny f).Tables :=
  h.hear f (keepsTables_takeRaw f)

/-! ### Reset, image and line -/

theorem sorted_zipIdx {α β : Type} (l : List α) (f : Nat → α → β) (n : Nat) :
    Tbl.sorted ((l.zipIdx n).map fun x => (x.2 + 1, f (x.2 + 1) x.1)) = true := by
  induction l generalizing n with
  | nil => rfl
  | cons x l ih =>
    simp only [List.zipIdx_cons, List.map_cons, Tbl.sorted, Bool.and_eq_true, List.all_eq_true, decide_eq_true_eq]
    refine ⟨fun y hy => ?_, ih (n + 1)⟩
    obtain ⟨⟨a, k⟩, ha, rfl⟩ := List.mem_map.mp hy
    have := List.le_snd_of_mem_zipIdx ha
    simp only at this ⊢
    omega

theorem sorted_numbered {α β : Type} (l : List α) (f : Nat → α → β) : Tbl.sorted (numbered l f) = true :=
  sorted_zipIdx l f 0

theorem all_numbered {α β : Type} (l : List α) (f : Nat → α → β) (p : Nat × β → Bool) (h : ∀ k a, p (k, f k a) = true) :
    List.all (numbered l f) p = true := by
  rw [List.all_eq_true]
  intro x hx
  obtain ⟨⟨a, k⟩, -, rfl⟩ := List.mem_map.mp hx
  exact h (k + 1) a

theorem initial_keeps (i : Image) (z : Zone) : SoundZone i (Zone.initial.keepCarriageInputs z) := by
  refine ⟨⟨?_, ?_⟩, ⟨rfl, rfl, rfl, rfl, ?_, rfl, rfl⟩, ⟨rfl, rfl, rfl, rfl, rfl, rfl⟩, ⟨?_, ?_, ?_, ?_, rfl⟩,
    ⟨rfl, rfl, rfl, rfl⟩, rfl, ⟨rfl, rfl⟩, ⟨rfl, rfl⟩, rfl⟩
  all_goals exact Nat.zero_le _

theorem forImage_keeps (i : Image) {z : Zone} (h : SoundLine z.line) : SoundZone i (z.forImage i) := by
  obtain ⟨-, -, -, htransfer, hsupply, -, -, -, -⟩ := initial_keeps i z
  have hsegments := sorted_numbered i.segments fun _ _ => (⟨.free, [], false⟩ : Segment)
  have hpoints := sorted_numbered i.points fun _ _ => (1 : Nat)
  have hlanes := sorted_numbered i.lanes fun _ _ => Lane.initial
  have hslots := sorted_numbered i.locked fun _ x => (⟨x.1, x.2, .image⟩ : Slot)
  have hreels := sorted_numbered i.reels fun _ _ => (⟨Meas.initial, Meas.initial, 65535⟩ : Reel)
  have hstands := sorted_numbered i.reels fun _ _ => Splice.initial
  have hwebs := sorted_numbered i.reels fun _ _ => WebPath.initial
  have hwait := all_numbered i.segments (fun _ _ => (⟨.free, [], false⟩ : Segment)) (fun s => s.2.wait.length ≤ 7)
    fun _ _ => rfl
  have hmarks := all_numbered i.reels (fun _ _ => WebPath.initial) (fun w => w.2.marks.length ≤ 4) fun _ _ => rfl
  exact ⟨h, ⟨hsegments, hpoints, rfl, hwait, Nat.zero_le _, rfl, rfl⟩,
    ⟨rfl, hlanes, hslots, rfl, rfl, rfl⟩, htransfer, hsupply, hreels, ⟨hstands, rfl⟩,
    ⟨hwebs, hmarks⟩, rfl⟩

theorem State.Tables.released {s : State} (h : s.Tables) (straps : BitVec 5) : (s.released straps).Tables :=
  ⟨initial_keeps _ _, rfl, h.inputs⟩

theorem State.Tables.imageChecked {s : State} (h : s.Tables) (memory : List Byte) : (s.imageChecked memory).Tables := by
  unfold State.imageChecked
  split
  · split
    · exact ⟨forImage_keeps _ h.zone.line, sorted_numbered (Image.reels _) fun _ _ => (⟨0, 0, s.time, 0⟩ : Web), h.inputs⟩
    · exact h.enterInert _ _
  · exact h

theorem State.Tables.inertReported {s : State} (h : s.Tables) : s.inertReported.Tables := by
  unfold State.inertReported
  split
  · split
    · exact ⟨offerInert_keeps h.zone, h.webs, h.inputs⟩
    · exact h
  · exact h

theorem State.Tables.joiningEnded {s : State} (h : s.Tables) : s.joiningEnded.Tables := by
  unfold State.joiningEnded
  split
  · exact ((h.loader { s.loader with station := .active, warm := false, restartAnswer := none } rfl).spoilage _).onZone
      fun _ _ => activate_keeps
  · exact h

theorem State.Tables.countLineError {s : State} (h : s.Tables) : s.countLineError.Tables := by
  have hcount : (s.modLine fun l => { l with lineErrors := bump16 l.lineErrors }).Tables := h.sameQueues fun _ => ⟨rfl, rfl⟩
  unfold State.countLineError
  simp only
  split
  · have hperiod := hcount.sameQueues (f := fun l => { l with periodErrors := l.periodErrors + 1 }) fun _ => ⟨rfl, rfl⟩
    split
    · exact hperiod.onZone fun _ _ => raise_keeps
    · exact hperiod
  · exact hcount

theorem State.Tables.heardBytes {s : State} (h : s.Tables) (heard : List HeardByte) : (s.heardBytes heard).Tables := by
  unfold State.heardBytes
  split
  · exact h
  · split
    · exact h
    · exact State.Tables.countLineError (h.sameQueues fun _ => ⟨rfl, rfl⟩)
    · exact h.countLineError
    · exact h.hearAny _

theorem State.Tables.transmitStarted {s : State} (h : s.Tables) (quiet : Nat) (b : Byte) :
    (s.transmitStarted quiet b).Tables := by
  unfold State.transmitStarted
  split
  · exact h
  · split
    · exact h.sameQueues fun _ => ⟨rfl, rfl⟩
    · exact h

theorem soundLine_sent {l : Line} (h : SoundLine l) (x : Sending) : SoundLine (l.sent x) := by
  refine ⟨?_, h.w⟩
  have hq := h.q
  unfold Line.sent
  simp only
  split
  · simp only [List.length_tail]
    omega
  · exact hq

theorem State.Tables.frameSent {s : State} (h : s.Tables) : s.frameSent.Tables := by
  unfold State.frameSent
  split
  · exact h
  · split
    · exact h
    · exact (h.modLine fun _ hl => soundLine_sent hl _).onZone fun _ _ => promote_keeps

/-! ### Events of the field -/

theorem State.Tables.carriageRose {s : State} (h : s.Tables) (p : Option Place) : (s.carriageRose p).Tables := by
  have hlevel : ({ s with zone := { s.zone with transfer :=
      { s.zone.transfer with doneInput := true, placeInput := p } } } : State).Tables :=
    ⟨transferSame_keeps h.zone rfl rfl rfl rfl rfl, h.webs, h.inputs⟩
  unfold State.carriageRose
  simp only
  split
  · exact hlevel
  · exact hlevel.whenActive fun _ _ => carriageDone_keeps

theorem State.Tables.encoderPulsed {s : State} (h : s.Tables) (r : Nat) : (s.encoderPulsed r).Tables := by
  unfold State.encoderPulsed
  split
  · exact ((h.onZone fun _ _ => missingIndex_keeps).modWebs r Web.pulse).onZone fun _ _ => feed_keeps
  · exact h

theorem State.Tables.gateEnded {s : State} (h : s.Tables) (r : Nat) : (s.gateEnded r).Tables := by
  unfold State.gateEnded
  split
  · exact (h.modWebs r Web.gateEnd).onZone fun _ _ => recomputeTime_keeps
  · exact h

theorem State.Tables.breakPassed {s : State} (h : s.Tables) (r : Nat) : (s.breakPassed r).Tables :=
  ⟨countBreak_keeps h.zone, h.webs, h.inputs⟩

theorem State.Tables.webBreakTaken {s : State} (h : s.Tables) (r : Nat) : (s.webBreakTaken r).Tables := by
  have hlevel := h.modReelIns r fun i => { i with webBreak := true }
  unfold State.webBreakTaken
  simp only
  split
  · exact hlevel
  · split
    · exact (hlevel.breakPassed r).onZone fun _ _ => webBroken_keeps
    · exact hlevel.breakPassed r

theorem State.Tables.webBreakCleared {s : State} (h : s.Tables) (r : Nat) : (s.webBreakCleared r).Tables := by
  have hlevel := h.modReelIns r fun i => { i with webBreak := false }
  unfold State.webBreakCleared
  simp only
  split
  · exact hlevel
  · split
    · exact (hlevel.spoilage _).whenActive fun _ _ => evalSplice_keeps
    · exact hlevel.whenActive fun _ _ => evalSplice_keeps

theorem State.Tables.gateChanged {s : State} (h : s.Tables) (waste : Bool) : (s.gateChanged waste).Tables := by
  have hlevel : (s.modInputs fun i => { i with wasteGate := waste }).Tables := h.modInputs fun _ hi => hi
  unfold State.gateChanged
  simp only
  split
  · exact hlevel.spoilage _
  · exact hlevel

theorem State.Tables.copyTaken {s : State} (h : s.Tables) : s.copyTaken.Tables := by
  unfold State.copyTaken
  split
  · have hcopy : ({ s with spoilage := (copyPulse s.env s.spoilage s.zone).1
                           zone := (copyPulse s.env s.spoilage s.zone).2 } : State).Tables :=
      ⟨copyPulse_keeps h.zone, h.webs, h.inputs⟩
    exact hcopy.settled
  · exact h

theorem State.Tables.rateWindowEnded {s : State} (h : s.Tables) : s.rateWindowEnded.Tables := by
  unfold State.rateWindowEnded
  split
  · have hend : ({ s with spoilage := s.spoilage.endWindow s.env.img
                          zone := raiseRateHigh s.env s.spoilage s.zone } : State).Tables :=
      ⟨raiseRateHigh_keeps h.zone, h.webs, h.inputs⟩
    exact hend.settled
  · exact h

theorem State.Tables.tagRead {s : State} (h : s.Tables) (k : Nat) (tag : BitVec 6) : (s.tagRead k tag).Tables := by
  have hlevel := h.occupancy (f := (Tbl.set · k tag.toNat)) fun _ => Tbl.sorted_set _ _ _
  unfold State.tagRead
  simp only
  split
  · exact hlevel
  · exact hlevel.whenActive fun _ _ => readTag_keeps

theorem State.Tables.occupancyCleared {s : State} (h : s.Tables) (k : Nat) : (s.occupancyCleared k).Tables := by
  have hlevel := h.occupancy (f := (Tbl.erase · k)) fun _ => Tbl.sorted_erase _ _
  unfold State.occupancyCleared
  simp only
  split
  · exact hlevel.whenActive fun _ _ => clearSegment_keeps
  · exact hlevel

theorem State.Tables.dockRose {s : State} (h : s.Tables) (d : Nat) : (s.dockRose d).Tables := by
  have hlevel := h.atDock (f := (Tbl.set · d true)) fun _ => Tbl.sorted_set _ _ _
  unfold State.dockRose
  simp only
  split
  · exact hlevel
  · exact hlevel.whenActive fun _ _ => dockRises_keeps

theorem State.Tables.dockFell {s : State} (h : s.Tables) (d : Nat) : (s.dockFell d).Tables := by
  have hlevel := h.atDock (f := (Tbl.erase · d)) fun _ => Tbl.sorted_erase _ _
  unfold State.dockFell
  simp only
  split
  · exact hlevel.whenActive fun _ _ => dockFalls_keeps
  · exact hlevel

theorem State.Tables.standbyReadyTaken {s : State} (h : s.Tables) (r : Nat) (a : Bool) :
    (s.standbyReadyTaken r a).Tables := by
  have hlevel := h.modReelIns r fun i => { i with standbyReady := a }
  unfold State.standbyReadyTaken
  simp only
  split
  · exact hlevel
  · exact hlevel.whenActive fun _ _ => standbyReady_keeps

theorem State.Tables.speedMatchedTaken {s : State} (h : s.Tables) (r : Nat) (a : Bool) :
    (s.speedMatchedTaken r a).Tables := by
  have hlevel := h.modReelIns r fun i => { i with speedMatched := a }
  unfold State.speedMatchedTaken
  simp only
  split
  · exact hlevel
  · exact hlevel.whenActive fun _ _ => speedMatched_keeps

/-! ### Every command -/

/-- Every command keeps the tables in their form and bounds. -/
theorem exec_tables (c : Instr) {s t : State} (h : s.Tables) (ht : exec c s = .next t) : t.Tables := by
  cases c with
  | powerOnReset straps => exact Host.Outcome.next.inj ht ▸ h.released straps
  | imageCheck memory => exact Host.Outcome.next.inj ht ▸ h.imageChecked memory
  | inertReportRepeat => exact Host.Outcome.next.inj ht ▸ h.inertReported
  | joiningEnd => exact Host.Outcome.next.inj ht ▸ h.joiningEnded
  | lineErrorPeriodEnd =>
    obtain rfl := Host.Outcome.next.inj ht
    unfold State.periodEnded
    split
    · exact h.sameQueues fun _ => ⟨rfl, rfl⟩
    · exact h
  | lineError heard => exact Host.Outcome.next.inj ht ▸ h.heardBytes heard
  | duplicateStation a k b => exact Host.Outcome.next.inj ht ▸ h.hearAny _
  | frameDiscard f => exact Host.Outcome.next.inj ht ▸ h.hearAny f
  | transmitStart quiet b => exact Host.Outcome.next.inj ht ▸ h.transmitStarted quiet b
  | frameSent => exact Host.Outcome.next.inj ht ▸ h.frameSent
  | rollCall hd c u g w m => exact Host.Outcome.next.inj ht ▸ h.hear _ (keepsTables_rollCall hd c g w m)
  | rollOffer hd c x m d f => exact Host.Outcome.next.inj ht ▸ h.hear _ (keepsTables_rollOffer hd c x m d f)
  | rollTake hd c x u d => exact Host.Outcome.next.inj ht ▸ h.hear _ (keepsTables_rollTake hd c x u d)
  | takeAnswer hd c x r => exact Host.Outcome.next.inj ht ▸ h.hear _ (keepsTables_takeAnswer hd c x r)
  | callWithdraw hd c => exact Host.Outcome.next.inj ht ▸ h.hear _ (keepsTables_callWithdraw hd c)
  | passOffer hd v r => exact Host.Outcome.next.inj ht ▸ h.hear _ (keepsTables_passOffer hd v r)
  | passAccept hd v k => exact Host.Outcome.next.inj ht ▸ h.hear _ (keepsTables_passAccept hd v k)
  | passDefer hd v k => exact Host.Outcome.next.inj ht ▸ h.hear _ (keepsTables_passDefer hd v k)
  | passDone hd v k => exact Host.Outcome.next.inj ht ▸ h.hear _ (keepsTables_passDone hd v k)
  | rollWaste hd x m => exact Host.Outcome.next.inj ht ▸ h.hear _ (keepsTables_rollWaste x m)
  | lotAlert hd l r => exact Host.Outcome.next.inj ht ▸ h.hear _ (keepsTables_lotAlert hd l)
  | rollEntry hd p x g w c m => exact Host.Outcome.next.inj ht ▸ h.hear _ (keepsTables_rollEntry hd p x g w c m)
  | rollRemove hd x p => exact Host.Outcome.next.inj ht ▸ h.hear _ (keepsTables_rollRemove hd x p)
  | orderRequest hd q x a b => exact Host.Outcome.next.inj ht ▸ h.hear _ (keepsTables_orderRequest hd q x a b)
  | laneServiceOut hd l => exact Host.Outcome.next.inj ht ▸ h.hear _ (keepsTables_laneOut hd l)
  | laneServiceIn hd l => exact Host.Outcome.next.inj ht ▸ h.hear _ (keepsTables_laneIn hd l)
  | quarantineSet hd k a b => exact Host.Outcome.next.inj ht ▸ h.hear _ (keepsTables_quarantineSet hd k a b)
  | quarantineClear hd k => exact Host.Outcome.next.inj ht ▸ h.hear _ (keepsTables_quarantineClear hd k)
  | segmentRelease hd k => exact Host.Outcome.next.inj ht ▸ h.hear _ (keepsTables_segmentRelease hd k)
  | spliceNow hd r => exact Host.Outcome.next.inj ht ▸ h.hear _ (keepsTables_spliceNow hd r)
  | faultAck hd => exact Host.Outcome.next.inj ht ▸ h.hear _ (keepsTables_faultAck hd)
  | logClear hd => exact Host.Outcome.next.inj ht ▸ h.hear _ (keepsTables_logClear hd)
  | reportRequest hd p i n => exact Host.Outcome.next.inj ht ▸ h.hear _ (keepsTables_reportRequest hd p i n)
  | zoneRestart hd => exact Host.Outcome.next.inj ht ▸ h.hear _ (keepsTables_zoneRestart hd)
  | runStart hd r e => exact Host.Outcome.next.inj ht ▸ h.hear _ fun _ hs => hs.spoilage _
  | editionChange hd e => exact Host.Outcome.next.inj ht ▸ h.hear _ fun _ hs => hs.spoilage _
  | runEnd hd => exact Host.Outcome.next.inj ht ▸ h.hear _ keepsTables_runEnd
  | tagRead k tag => exact Host.Outcome.next.inj ht ▸ h.tagRead k tag
  | occupancyClear k => exact Host.Outcome.next.inj ht ▸ h.occupancyCleared k
  | atDockRise d => exact Host.Outcome.next.inj ht ▸ h.dockRose d
  | atDockFall d => exact Host.Outcome.next.inj ht ▸ h.dockFell d
  | passAnswerTimeout v => exact Host.Outcome.next.inj ht ▸ h.whenActive fun _ _ => answerTimedOut_keeps
  | passOfferRepeat v => exact Host.Outcome.next.inj ht ▸ h.whenActive fun _ _ => offerRepeated_keeps
  | passUnconfirmed v => exact Host.Outcome.next.inj ht ▸ h.whenActive fun _ _ => passOverdue_keeps
  | laneDetectorChange l p a => exact Host.Outcome.next.inj ht ▸ (h.laneInput _ a).whenActive fun _ _ hz => hz
  | laneDisagreeTimeout l p => exact Host.Outcome.next.inj ht ▸ h.whenActive fun _ _ => positionDisagreed_keeps
  | restockPeriod => exact Host.Outcome.next.inj ht ▸ h.whenActive fun _ _ => restockPeriod_keeps
  | travelComplete p => exact Host.Outcome.next.inj ht ▸ h.carriageRose p
  | pickComplete p => exact Host.Outcome.next.inj ht ▸ h.carriageRose p
  | setComplete p => exact Host.Outcome.next.inj ht ▸ h.carriageRose p
  | stepLimitExpiry => exact Host.Outcome.next.inj ht ▸ h.whenActive fun _ _ => stepLimitDue_keeps
  | holdLimitExpiry => exact Host.Outcome.next.inj ht ▸ h.whenActive fun _ _ => holdLimitDue_keeps
  | offerWindowEnd c => exact Host.Outcome.next.inj ht ▸ h.whenActive fun _ _ => windowEnded_keeps
  | takeAnswerTimeout c => exact Host.Outcome.next.inj ht ▸ h.whenActive fun _ _ => takeTimedOut_keeps
  | reissueTime c => exact Host.Outcome.next.inj ht ▸ h.whenActive fun _ _ => reissueDue_keeps
  | unloadRetry v => exact Host.Outcome.next.inj ht ▸ h.whenActive fun _ _ => retryDue_keeps
  | armOpenChange r x a => exact Host.Outcome.next.inj ht ▸ (h.modReelIns r _).whenActive fun _ _ hz => hz
  | encoderPulse r => exact Host.Outcome.next.inj ht ▸ h.encoderPulsed r
  | missingIndexPoint r => exact Host.Outcome.next.inj ht ▸ h.whenMeasuring fun _ _ => missingIndex_keeps
  | speedGateEnd r => exact Host.Outcome.next.inj ht ▸ h.gateEnded r
  | revolutionIndex r x => exact Host.Outcome.next.inj ht ▸ h.whenMeasuring fun _ _ => revolutionIndexed_keeps
  | rollPresentChange r x a => exact Host.Outcome.next.inj ht ▸ (h.modReelIns r _).whenActive fun _ _ hz => hz
  | armDisagreeTimeout r x => exact Host.Outcome.next.inj ht ▸ h.whenActive fun _ _ => armDisagreed_keeps
  | standbyReadyChange r a => exact Host.Outcome.next.inj ht ▸ h.standbyReadyTaken r a
  | speedMatchedChange r a => exact Host.Outcome.next.inj ht ▸ h.speedMatchedTaken r a
  | matchTimeout r => exact Host.Outcome.next.inj ht ▸ h.whenActive fun _ _ => matchTimedOut_keeps
  | pasteDone r => exact Host.Outcome.next.inj ht ▸ h.whenActive fun _ _ => pasteMade_keeps
  | pasteTimeout r => exact Host.Outcome.next.inj ht ▸ h.whenActive fun _ _ => pasteTimedOut_keeps
  | knifeFallback r => exact Host.Outcome.next.inj ht ▸ h.whenActive fun _ _ => knifeFallbackDue_keeps
  | knifeDone r => exact Host.Outcome.next.inj ht ▸ h.whenActive fun _ _ => knifeMade_keeps
  | knifeTimeout r => exact Host.Outcome.next.inj ht ▸ h.whenActive fun _ _ => knifeTimedOut_keeps
  | webBreak r => exact Host.Outcome.next.inj ht ▸ h.webBreakTaken r
  | webBreakClear r => exact Host.Outcome.next.inj ht ▸ h.webBreakCleared r
  | wasteGateChange w => exact Host.Outcome.next.inj ht ▸ h.gateChanged w
  | folderCopyPulse => exact Host.Outcome.next.inj ht ▸ h.copyTaken
  | rateWindowEnd => exact Host.Outcome.next.inj ht ▸ h.rateWindowEnded
  | resetHeldActive =>
    obtain rfl := Host.Outcome.next.inj ht
    have hline : (s.modLine fun l => { l with sending := none, justSent := none }).Tables :=
      h.sameQueues fun _ => ⟨rfl, rfl⟩
    exact hline.loader _ rfl
  | receiveQuiet12Bits =>
    obtain rfl := Host.Outcome.next.inj ht
    unfold State.quietAgain
    split
    · exact h
    · exact h.sameQueues fun _ => ⟨rfl, rfl⟩

theorem State.Tables.tick {s : State} (h : s.Tables) : s.tick.Tables := by
  unfold State.tick
  split
  · exact h
  · exact ⟨h.zone, h.webs, h.inputs⟩

/-- Settles O9: a decisecond leaves every table, and every command keeps them sound. -/
theorem stepKeepsTablesSound : Obligations.StepKeepsTablesSound := by
  unfold Obligations.StepKeepsTablesSound
  intro s t hs ht
  rw [tablesSound_iff] at hs ⊢
  unfold step at ht
  split at ht
  · obtain rfl := Host.Outcome.next.inj ht
    exact hs.tick
  next c rest _ =>
    have hrest : ({ s with pending := rest } : State).Tables := ⟨hs.zone, hs.webs, hs.inputs⟩
    exact exec_tables c hrest ht

end Sys2Proof.Machine

/-! PROOF. O1 (the step), O7 (the reset state) and O3 (power-on reset, RESET held, field outputs and their polarity; R13, R14,
R16 to R20, R193). -/

namespace Sys2Proof.Machine

/-! ### The step -/

theorem step_cons {c : Instr} {rest : List Instr} {s : State} (h : s.pending = c :: rest) :
    step s = exec c { s with pending := rest } := by
  unfold step
  rw [h]

theorem step_nil {s : State} (h : s.pending = []) : step s = .next s.tick := by
  unfold step
  rw [h]

theorem tick_of_held {s : State} (h : s.loader.held = true) : s.tick = s := by
  simp [State.tick, h]

theorem tick_of_released {s : State} (h : s.loader.held = false) :
    s.tick = { s with time := s.time + 1, pending := dueEvents { s with time := s.time + 1 } } := by
  simp [State.tick, h]

theorem eq_of_mem_onDue {b : Bool} {i c : Instr} (h : c ∈ onDue b i) : c = i := by
  unfold onDue at h
  split at h
  · exact List.mem_singleton.mp h
  · cases h

/-- In INERT only the repeated report comes by time. -/
theorem eq_of_mem_dueEvents {s : State} (h : s.loader.station = .inert) {c : Instr} (hc : c ∈ dueEvents s) :
    c = .inertReportRepeat := by
  have hactive : s.isIn .active = false := by simp [State.isIn, h]
  have hjoining : s.isIn .joining = false := by simp [State.isIn, h]
  have hdue : dueEvents s =
      onDue (s.isIn .inert && s.loader.inertNext.any fun t => reached s.time t) .inertReportRepeat := by
    simp [dueEvents, stationDue, State.measures, State.isActive, hactive, hjoining, onDue]
  exact eq_of_mem_onDue (hdue ▸ hc)

/-- Settles O1: by the front of the queue, and on an empty queue by whether RESET is held. -/
theorem stepRunsFrontCommand : Obligations.StepRunsFrontCommand := by
  unfold Obligations.StepRunsFrontCommand
  refine ⟨fun c rest s h => step_cons h, fun s hp => ⟨fun hh => ?_, fun hh => ?_, fun hh hi t c ht hc => ?_⟩⟩
  · rw [step_nil hp, tick_of_held hh]
  · rw [step_nil hp, tick_of_released hh]
  · rw [step_nil hp, tick_of_released hh] at ht
    obtain rfl := Host.Outcome.next.inj ht
    exact eq_of_mem_dueEvents (s := { s with time := s.time + 1 }) hi hc

/-- Settles O7: by evaluation, every table of State.reset being empty. -/
theorem soundAtReset : Obligations.SoundAtReset := ⟨rfl, rfl⟩

/-! ### Polarity bits (R193) -/

/-- The line of a reelstand at a place in R193's list. -/
def reelLineAt : Nat → ReelLine
  | 0 => .presentA
  | 1 => .presentB
  | 2 => .armOpenA
  | 3 => .armOpenB
  | 4 => .revolutionA
  | 5 => .revolutionB
  | 6 => .standbyReady
  | 7 => .speedMatched
  | 8 => .pasteDone
  | 9 => .knifeDone
  | 10 => .webBreak
  | 11 => .encoder
  | 12 => .accelerate
  | 13 => .paste
  | _ => .knife

theorem reelLineAt_index (l : ReelLine) : reelLineAt l.index = l := by cases l <;> rfl

theorem ReelLine.index_lt (l : ReelLine) : l.index < 15 := by cases l <;> decide

/-- The line that has a polarity bit: FieldLine.bit read backwards. -/
def lineAt (b : Nat) : FieldLine :=
  if b < 16 then .occupancy (b + 1)
  else if b < 32 then .permit (b - 15)
  else if b < 38 then .points (b - 31)
  else if b < 50 then .atDock (b - 37)
  else if b < 82 then .detector ((b - 50) / 4 + 1) ((b - 50) % 4 + 1)
  else if b < 142 then .reel ((b - 82) / 15 + 1) (reelLineAt ((b - 82) % 15))
  else if b = 142 then .carriageDone
  else if b = 143 then .copyPulse
  else if b = 144 then .wasteGate
  else if b = 145 then .eject
  else .pressStop

theorem bitInGroup_eq_some {base count k b : Nat} : bitInGroup base count k = some b ↔
    (1 ≤ k ∧ k ≤ count) ∧ b = base + (k - 1) := by
  unfold bitInGroup
  split <;> simp_all [eq_comm]

/-- Every polarity bit is below 147, and the line it belongs to is read back from it. -/
theorem lineAt_bit {x : FieldLine} {b : Nat} (h : x.bit = some b) : b < 147 ∧ lineAt b = x := by
  cases x with
  | occupancy k =>
    obtain ⟨hk, rfl⟩ := bitInGroup_eq_some.mp h
    refine ⟨by omega, ?_⟩
    unfold lineAt
    rw [if_pos (by omega)]
    congr 1
    omega
  | permit k =>
    obtain ⟨hk, rfl⟩ := bitInGroup_eq_some.mp h
    refine ⟨by omega, ?_⟩
    unfold lineAt
    rw [if_neg (by omega), if_pos (by omega)]
    congr 1
    omega
  | points k =>
    obtain ⟨hk, rfl⟩ := bitInGroup_eq_some.mp h
    refine ⟨by omega, ?_⟩
    unfold lineAt
    rw [if_neg (by omega), if_neg (by omega), if_pos (by omega)]
    congr 1
    omega
  | atDock k =>
    obtain ⟨hk, rfl⟩ := bitInGroup_eq_some.mp h
    refine ⟨by omega, ?_⟩
    unfold lineAt
    rw [if_neg (by omega), if_neg (by omega), if_neg (by omega), if_pos (by omega)]
    congr 1
    omega
  | detector l p =>
    rw [FieldLine.bit] at h
    split at h
    case isFalse => cases h
    case isTrue hp =>
      obtain ⟨hk, rfl⟩ := bitInGroup_eq_some.mp h
      refine ⟨by omega, ?_⟩
      unfold lineAt
      rw [if_neg (by omega), if_neg (by omega), if_neg (by omega), if_neg (by omega), if_pos (by omega)]
      congr 1 <;> omega
  | reel r line =>
    have hi := line.index_lt
    rw [FieldLine.bit] at h
    split at h
    case isFalse => cases h
    case isTrue hr =>
      obtain ⟨hk, rfl⟩ := bitInGroup_eq_some.mp h
      refine ⟨by omega, ?_⟩
      unfold lineAt
      rw [if_neg (by omega), if_neg (by omega), if_neg (by omega), if_neg (by omega), if_neg (by omega), if_pos (by omega)]
      have hline : (82 + ((r - 1) * 15 + line.index + 1 - 1) - 82) % 15 = line.index := by omega
      rw [hline, reelLineAt_index]
      congr 1
      omega
  | carriageDone | copyPulse | wasteGate | eject | pressStop =>
    obtain rfl := Option.some.inj h
    exact ⟨by decide, rfl⟩

/-- No two lines share a polarity bit. -/
theorem bit_injective {x y : FieldLine} {b : Nat} (hx : x.bit = some b) (hy : y.bit = some b) : x = y :=
  (lineAt_bit hx).2.symm.trans (lineAt_bit hy).2

/-- A line with a polarity bit is at the level that the bit gives: a bit of 1 makes active high. -/
theorem throughPolarity_of_bit (i : Image) {line : FieldLine} {b : Nat} (level : Bool) (h : line.bit = some b) :
    i.throughPolarity line level =
      some (if (i.polarity.getD (b / 8) 0#8).getLsbD (b % 8) then level else !level) := by
  rw [Image.throughPolarity, h, Option.map_some]
  generalize (i.polarity.getD (b / 8) 0#8).getLsbD (b % 8) = bit
  cases bit <;> cases level <;> rfl

/-! ### Field outputs (R13, R14, R16 to R18) -/

theorem outputsDriven_eq_false {s : State} (h : s.loader.held = true ∨ s.loader.station ≠ .active) :
    outputsDriven s = false := by
  rcases h with h | h <;> simp [outputsDriven, h]

theorem outputsDriven_eq_true {s : State} (hh : s.loader.held = false) (h : s.loader.station = .active) :
    outputsDriven s = true := by
  simp [outputsDriven, hh, h]

/-- Where the station drives no output, none of the blocks' outputs is active. -/
theorem outputs_idle {s : State} (h : outputsDriven s = false) :
    (∀ k, s.permitOut k = false ∧ s.pointsOut k = false ∧ s.accelerateOut k = false ∧ s.pasteOut k = false ∧
      s.knifeOut k = false) ∧ s.ejectOut = false ∧ s.carriageOut = none := by
  simp [State.permitOut, State.pointsOut, State.accelerateOut, State.pasteOut, State.knifeOut, State.ejectOut,
    State.carriageOut, h]

theorem electrical_of_held {s : State} (h : s.loader.held = true) (line : FieldLine) (on : Bool) :
    electrical s line on = none := by
  simp [electrical, h]

theorem pressStopOut_of_undriven {s : State} (h : s.loader.held = true ∨ s.loader.station ≠ .active) :
    s.pressStopOut = (!s.loader.held && decide (s.loader.station = .joining) && s.zone.splice.pressStop) := by
  unfold State.pressStopOut
  rcases h with h | h
  · simp [h]
  · simp [h]

/-- In ACTIVE every output follows its record (R13). -/
theorem outputs_follow {s : State} (h : outputsDriven s = true) :
    (∀ k x, s.zone.track.segments.get? k = some x → s.permitOut k = x.permit) ∧
    (∀ p n, s.zone.track.points.get? p = some n → s.pointsOut p = decide (n = 2)) ∧
    (∀ r w, s.zone.splice.stands.get? r = some w →
      s.accelerateOut r = w.accelerateOut ∧ s.pasteOut r = w.pasteOut ∧ s.knifeOut r = w.knifeOut) ∧
    s.ejectOut = s.zone.folder.eject ∧ s.carriageOut = s.zone.transfer.command := by
  refine ⟨fun k x hk => ?_, fun p n hp => ?_, fun r w hr => ⟨?_, ?_, ?_⟩, ?_, ?_⟩
  · simp [State.permitOut, h, hk]
  · simp [State.pointsOut, h, hp]
  · simp [State.accelerateOut, h, hr]
  · simp [State.pasteOut, h, hr]
  · simp [State.knifeOut, h, hr]
  · simp [State.ejectOut, h]
  · simp [State.carriageOut, h]

theorem outputLevel_eq {s : State} {line : FieldLine} {on : Bool} (h : s.outputActive line = some on) :
    s.outputLevel line = electrical s line on := by
  rw [State.outputLevel, h]
  rfl

/-! ### RESET (R11, R20) -/

theorem stationOk_straps (straps : BitVec 5) :
    (if stationOk straps.toNat then Station.start else .inert) =
      if straps.toNat = 0 ∨ straps.toNat = 31 then .inert else .start := by
  have hlt : straps.toNat < 32 := straps.isLt
  by_cases h : straps.toNat = 0 ∨ straps.toNat = 31
  · rw [if_pos h, if_neg]
    simp only [stationOk, Bool.and_eq_true, decide_eq_true_eq]
    omega
  · rw [if_neg h, if_pos]
    simp only [stationOk, Bool.and_eq_true, decide_eq_true_eq]
    omega

theorem isIn_of_held {s : State} (h : s.loader.held = true) (st : Station) : s.isIn st = false := by
  simp [State.isIn, h]

theorem hears_of_held {s : State} (h : s.loader.held = true) : s.hears = false := by
  simp [State.hears, State.measures, isIn_of_held h]

/-- Under RESET nothing is sent. -/
theorem transmitStarted_of_held {s : State} (h : s.loader.held = true) (quiet : Nat) (b : Byte) :
    s.transmitStarted quiet b = s := by
  unfold State.transmitStarted
  split
  · rfl
  · rw [if_neg]
    simp [State.mayStart, isIn_of_held h]

/-- Under RESET nothing is received. -/
theorem hear_of_held {s : State} (h : s.loader.held = true) (f : RawFrame) (take : State → State) :
    s.hear f take = s := by
  simp [State.hear, hears_of_held h]

theorem heardBytes_of_held {s : State} (h : s.loader.held = true) (bs : List HeardByte) : s.heardBytes bs = s := by
  simp [State.heardBytes, h]

/-- Settles O3: the state on the release of RESET, the state under RESET, and the outputs with their polarity. -/
theorem resetTaken : Obligations.ResetTaken := by
  unfold Obligations.ResetTaken
  refine ⟨fun straps s => ⟨s.released straps, rfl, rfl, rfl, rfl, rfl, stationOk_straps straps, rfl, rfl, rfl, rfl, rfl,
    rfl, rfl, rfl, rfl, rfl, rfl, rfl, rfl⟩, fun s => ?_, ?_⟩
  · have hheld : s.heldInReset.loader.held = true := rfl
    obtain ⟨hout, heject, hcarriage⟩ := outputs_idle (outputsDriven_eq_false (.inl hheld))
    refine ⟨s.heldInReset, rfl, rfl, electrical_of_held hheld, fun k => ?_, heject, by simp [State.pressStopOut, hheld],
      hcarriage, fun quiet b => ?_, fun f => ?_, fun bs => ?_, fun hp => ?_⟩
    · obtain ⟨hpermit, hpoints, haccelerate, hpaste, hknife⟩ := hout k
      exact ⟨hpermit, haccelerate, hpaste, hknife, hpoints⟩
    · exact congrArg _ (transmitStarted_of_held hheld quiet b)
    · exact congrArg _ (hear_of_held hheld f (takeRaw f))
    · exact congrArg _ (heardBytes_of_held hheld bs)
    · rw [step_nil hp, tick_of_held hheld]
  · refine ⟨fun s h => ?_, fun s hh hs => ?_, fun s line on ho => ⟨fun h => ?_, fun i b hh hi hb => ?_⟩,
      fun i line b high hb => throughPolarity_of_bit i high hb, fun x y b hx => ⟨(lineAt_bit hx).1, bit_injective hx⟩,
      rfl, rfl, rfl, rfl, rfl, rfl, rfl, rfl, rfl, rfl⟩
    · obtain ⟨hout, heject, hcarriage⟩ := outputs_idle (outputsDriven_eq_false h)
      exact ⟨hout, heject, hcarriage, pressStopOut_of_undriven h⟩
    · obtain ⟨hpermit, hpoints, hreel, heject, hcarriage⟩ := outputs_follow (outputsDriven_eq_true hh hs)
      exact ⟨hpermit, hpoints, hreel, heject, hcarriage, by simp [State.pressStopOut, hh, hs]⟩
    · rw [outputLevel_eq ho]
      rcases h with h | h
      · exact electrical_of_held h line on
      · simp [electrical, h]
    · rw [outputLevel_eq ho, electrical, hh, hi]
      exact throughPolarity_of_bit i on hb

end Sys2Proof.Machine

/-! PROOF. O4 (a good image is distributed; R12, R46, R70, R93, R132, R134, R186) and O5 (a bad image, the stages of the
check, and the repeated report of INERT; R12, R18). -/

namespace Sys2Proof.Machine

/-! ### Numbered tables of the image -/

theorem get?_zipIdx {α β : Type} (l : List α) (f : Nat → α → β) (n k : Nat) :
    Tbl.get? ((l.zipIdx n).map fun x => (x.2 + 1, f (x.2 + 1) x.1)) k =
      if k ≤ n then none else (l[k - n - 1]?).map (f k) := by
  induction l generalizing n with
  | nil => simp [Tbl.get?]
  | cons x l ih =>
    simp only [List.zipIdx_cons, List.map_cons, Tbl.get?, ih]
    by_cases hk : k = n + 1
    · subst hk
      simp
    · rw [if_neg hk]
      by_cases hle : k ≤ n
      · rw [if_pos hle, if_pos (by omega)]
      · rw [if_neg hle, if_neg (by omega), show k - n - 1 = (k - (n + 1) - 1) + 1 by omega, List.getElem?_cons_succ]

/-- The table made of a list has the list's entries under their numbers, counted from 1. -/
theorem get?_numbered {α β : Type} (l : List α) (f : Nat → α → β) (k : Nat) :
    (numbered l f).get? k = (nth l k).map (f k) := by
  have h := get?_zipIdx l f 0 k
  rw [numbered, h]
  cases k <;> rfl

theorem nth_isSome {α : Type} {l : List α} {k : Nat} (h1 : 1 ≤ k) (h2 : k ≤ l.length) : ∃ a, nth l k = some a := by
  obtain ⟨j, rfl⟩ : ∃ j, k = j + 1 := ⟨k - 1, by omega⟩
  exact ⟨l[j], List.getElem?_eq_getElem (by omega)⟩

/-- A table that gives every number of a list one entry. -/
theorem get?_numbered_const {α β : Type} {l : List α} {k : Nat} (b : β) (h1 : 1 ≤ k) (h2 : k ≤ l.length) :
    (numbered l fun _ _ => b).get? k = some b := by
  obtain ⟨a, ha⟩ := nth_isSome h1 h2
  rw [get?_numbered, ha]
  rfl

/-! ### The image check -/

theorem stationOk_of_bounds {n : Nat} (h1 : 1 ≤ n) (h2 : n ≤ 30) : stationOk n = true := by
  simp [stationOk, h1, h2]

theorem isIn_of_station {s : State} {st : Station} (hh : s.loader.held = false) (h : s.loader.station = st) :
    s.isIn st = true := by
  simp [State.isIn, hh, h]

theorem exec_imageCheck (memory : List Byte) (s : State) : exec (.imageCheck memory) s = .next (s.imageChecked memory) :=
  rfl

/-- In START with a valid number the image decides. -/
theorem imageChecked_of_start {memory : List Byte} {s : State} (hh : s.loader.held = false)
    (hs : s.loader.station = .start) (hn : stationOk s.loader.number = true) :
    s.imageChecked memory = match checkImage memory s.loader.number with
      | .good i => s.withImage i
      | .bad stage offset => s.enterInert .image (.number stage :: (offset.map CtxElem.number).toList) := by
  unfold State.imageChecked
  refine (if_pos ⟨isIn_of_station hh hs, hn⟩).trans ?_
  cases checkImage memory s.loader.number <;> rfl

/-- Settles O4: each block's part of the image at its power-on values. -/
theorem goodImageEntersJoining : Obligations.GoodImageEntersJoining := by
  unfold Obligations.GoodImageEntersJoining
  intro memory s i hh hs h1 h30 hgood
  refine ⟨s.withImage i, ?_, rfl, rfl, rfl, rfl, rfl, rfl, rfl, fun k h1 h2 => get?_numbered_const _ h1 h2,
    fun k h1 h2 => get?_numbered_const _ h1 h2, rfl, rfl, rfl, fun l h1 h2 => ?_, fun k => ?_, rfl, rfl, rfl, rfl, rfl, rfl,
    fun r h1 h2 => ⟨get?_numbered_const _ h1 h2, get?_numbered_const _ h1 h2, get?_numbered_const _ h1 h2, ?_⟩,
    rfl, rfl, rfl⟩
  · rw [exec_imageCheck, imageChecked_of_start hh hs (stationOk_of_bounds h1 h30), hgood]
  · have hlane : (s.withImage i).zone.stock.lanes.get? l = some Lane.initial := get?_numbered_const _ h1 h2
    rw [hlane]
    rfl
  · have hslot : (s.withImage i).zone.stock.slots.get? k = (nth i.locked k).map fun x => ⟨x.1, x.2, .image⟩ :=
      get?_numbered i.locked (fun _ x => (⟨x.1, x.2, .image⟩ : Slot)) k
    rw [hslot, Option.map_map]
    rfl
  · have hweb : (s.withImage i).webs.get? r = some ⟨0, 0, s.time, 0⟩ := get?_numbered_const _ h1 h2
    rw [hweb]
    rfl

/-! ### The stages of the image check (R12) -/

/-- Up to the length, the bytes that answer are the memory's own. -/
theorem readBytes_eq_take {memory : List Byte} {n : Nat} (h : n ≤ memory.length) :
    (List.range n).map (fun i => memory.getD i 0xFF#8) = memory.take n := by
  refine List.ext_getElem (by simp; omega) fun j h1 h2 => ?_
  simp at h1 h2
  simp [List.getD, List.getElem?_eq_getElem (show j < memory.length by omega)]

theorem checkImage_length {memory : List Byte} (own : Nat)
    (h : readMem memory 0 2 < 74 ∨ 1024 < readMem memory 0 2) : checkImage memory own = .bad 1 none := by
  unfold checkImage
  exact if_pos h

theorem checkImage_crc {memory : List Byte} (own : Nat) (h74 : 74 ≤ readMem memory 0 2)
    (hlen : readMem memory 0 2 ≤ memory.length) (h1024 : readMem memory 0 2 ≤ 1024)
    (hcrc : (crc16 (memory.take (readMem memory 0 2 - 2))).toNat ≠ readMem memory (readMem memory 0 2 - 2) 2) :
    checkImage memory own = .bad 2 none := by
  unfold checkImage
  rw [if_neg (by simp only [Config.imageMin, Config.imageMax]; omega), readBytes_eq_take (by omega), if_pos hcrc]

theorem checkImage_format {memory : List Byte} (own : Nat) (h74 : 74 ≤ readMem memory 0 2)
    (hlen : readMem memory 0 2 ≤ memory.length) (h1024 : readMem memory 0 2 ≤ 1024)
    (hcrc : (crc16 (memory.take (readMem memory 0 2 - 2))).toNat = readMem memory (readMem memory 0 2 - 2) 2)
    (hformat : readMem memory 2 1 ≠ 3) : checkImage memory own = .bad 3 none := by
  unfold checkImage
  rw [if_neg (by simp only [Config.imageMin, Config.imageMax]; omega), readBytes_eq_take (by omega),
    if_neg (by simpa using hcrc)]
  exact if_pos hformat

/-- A good image is the memory's, and no value of it failed its check. -/
theorem checkImage_good {memory : List Byte} {own : Nat} {i : Image} (h : checkImage memory own = .good i) :
    i = readImage memory ∧ ∀ v ∈ rangeChecks memory own, v.2 = true := by
  unfold checkImage at h
  simp only at h
  split at h
  · cases h
  · split at h
    · cases h
    · split at h
      · cases h
      · split at h
        · cases h
        next hnone =>
          exact ⟨(ImageFound.good.inj h).symm, fun v hv => by simpa using List.find?_eq_none.mp hnone v hv⟩

theorem mem_rangeChecks_length (memory : List Byte) (own : Nat) :
    ((0, readMem memory 0 2 = imageSize (imageCounts memory)) : ValueCheck) ∈ rangeChecks memory own := by
  simp [rangeChecks]

theorem mem_rangeChecks_count {memory : List Byte} {v : ValueCheck} (own : Nat)
    (h : v ∈ countChecks (imageCounts memory)) : v ∈ rangeChecks memory own := by
  simp [rangeChecks, h]

theorem mem_rangeChecks_constant {memory : List Byte} {own : Nat} {v : ValueCheck}
    (h : v ∈ constantChecks memory own) : v ∈ rangeChecks memory own := by
  simp [rangeChecks, h]

theorem mem_rangeChecks_reel {memory : List Byte} (own : Nat) {v : ValueCheck} {k : Nat}
    (hk : k < (imageCounts memory).reels) (h : v ∈ reelChecks memory (imageCounts memory) k) :
    v ∈ rangeChecks memory own := by
  simp only [rangeChecks, List.mem_append, List.mem_flatMap, List.mem_range]
  exact .inl (.inr ⟨k, hk, h⟩)

theorem checkImage_good_ranges {memory : List Byte} {own : Nat} {i : Image} (h : checkImage memory own = .good i) :
    readMem memory 0 2 = imageSize (imageCounts memory) ∧ 1 ≤ i.segments.length ∧ i.segments.length ≤ 16 ∧
    i.points.length ≤ 6 ∧ i.docks.length ≤ 12 ∧ i.lanes.length ≤ 8 ∧ i.reels.length ≤ 4 ∧ i.boundary.length ≤ 4 ∧
    4 ≤ i.queueB ∧ i.queueB ≤ 12 ∧ i.console ≠ own ∧
    (∀ r ∈ i.reels, r.core + 50 ≤ r.splice ∧ r.core ≤ r.margin ∧ r.margin < r.splice ∧ r.lead + 600 ≤ r.horizon) := by
  obtain ⟨rfl, hall⟩ := checkImage_good h
  have hlength := hall _ (mem_rangeChecks_length memory own)
  have hcount : ∀ v ∈ countChecks (imageCounts memory), v.2 = true := fun v hv => hall v (mem_rangeChecks_count own hv)
  have hconsole := hall (29, readMem memory 29 1 ≤ 30 && readMem memory 29 1 ≠ own)
    (mem_rangeChecks_constant (by simp [constantChecks]))
  have hqueue := hall (34, between 4 12 (readMem memory 34 1)) (mem_rangeChecks_constant (by simp [constantChecks]))
  simp only [countChecks, List.forall_mem_cons, between, Bool.and_eq_true, decide_eq_true_eq] at hcount
  obtain ⟨⟨hs1, hs16⟩, hpoints, hdocks, hlanes, hreels, hboundary, -⟩ := hcount
  simp only [between, Bool.and_eq_true, decide_eq_true_eq] at hlength hconsole hqueue
  refine ⟨hlength, ?_, ?_, ?_, ?_, ?_, ?_, ?_, hqueue.1, hqueue.2, hconsole.2, fun r hr => ?_⟩
  case refine_8 =>
    obtain ⟨k, hk, rfl⟩ := List.mem_map.mp hr
    have hreel : ∀ v ∈ reelChecks memory (imageCounts memory) k, v.2 = true :=
      fun v hv => hall v (mem_rangeChecks_reel own (List.mem_range.mp hk) hv)
    simp only [reelChecks, List.forall_mem_cons, Bool.and_eq_true, decide_eq_true_eq] at hreel
    obtain ⟨hsplice, ⟨hcore, hmargin⟩, -, hhorizon, -⟩ := hreel
    exact ⟨hsplice, hcore, hmargin, hhorizon⟩
  all_goals simpa [readImage]

/-! ### INERT (R18) -/

theorem offerInert_of_room {own : Nat} {z : Zone} (hn : stationOk own = true) (hq : z.line.queue.length < 16) :
    offerInert own z = { z with line := { z.line with queue := z.line.queue ++ [⟨0, faultReportBody z.faults .line⟩] } } := by
  rw [offerInert, if_neg (by simp [hn])]
  exact if_pos hq

theorem exec_inertReportRepeat (s : State) : exec .inertReportRepeat s = .next s.inertReported := rfl

theorem inertReported_of_due {s : State} {t : Time} (hi : s.isIn .inert = true) (ht : s.loader.inertNext = some t)
    (hdue : liesAfter t s.time = false) :
    s.inertReported = { s with loader := { s.loader with inertNext := some (t + Config.inertRepeat) }
                               zone := offerInert s.loader.number s.zone } := by
  rw [State.inertReported, ht]
  exact if_pos ⟨hi, by simp [reached, hdue]⟩

theorem inertReported_of_early {s : State} {t : Time} (ht : s.loader.inertNext = some t)
    (hdue : liesAfter t s.time = true) : s.inertReported = s := by
  rw [State.inertReported, ht]
  exact if_neg (by simp [reached, hdue])

theorem inertReported_of_station {s : State} (h : s.loader.station ≠ .inert) : s.inertReported = s := by
  rw [State.inertReported]
  split
  · exact if_neg (by simp [State.isIn, h])
  · rfl

/-- Settles O5: the state after a failed image, the stage that fails by its value, and the repeat by its time. -/
theorem imageCheckFails : Obligations.ImageCheckFails := by
  unfold Obligations.ImageCheckFails
  refine ⟨fun memory s stage offset hh hs h1 h30 hq hbad => ?_,
    ⟨fun memory own h => checkImage_length own h, fun own => checkImage_length own (.inr (by decide)),
      fun memory own => checkImage_crc own, fun memory own => checkImage_format own,
      fun memory own i => checkImage_good_ranges⟩,
    fun s hh => ⟨fun t hs ht hdue h1 h30 hq => ?_, fun t ht hdue => ?_, fun hs => ?_⟩⟩
  · have hn := stationOk_of_bounds h1 h30
    rw [exec_imageCheck, imageChecked_of_start hh hs hn, hbad]
    simp only [State.enterInert]
    rw [offerInert_of_room hn (by simp [hq])]
    simp [hq, Config.inertRepeat]
  · rw [exec_inertReportRepeat, inertReported_of_due (isIn_of_station hh hs) ht hdue,
      offerInert_of_room (stationOk_of_bounds h1 h30) hq]
    rfl
  · rw [exec_inertReportRepeat, inertReported_of_early ht hdue]
  · rw [exec_inertReportRepeat, inertReported_of_station hs]

end Sys2Proof.Machine

/-! PROOF. O6, ACTIVE is entered (R15, R46, R70, R131, R152): the order of the blocks, the held frames, and what the track, the
lanes and the arms find after power-on reset. -/

namespace Sys2Proof.Machine

/-! ### Places and records -/

@[simp] theorem rollAt_setRoll_same (p : Place) (r : Roll) (z : Zone) : rollAt (setRoll p r z) p = some r := by
  simp [rollAt, setRoll, Tbl.get?_set]

theorem rollAt_setRoll_ne {p q : Place} (h : q.key ≠ p.key) (r : Roll) (z : Zone) :
    rollAt (setRoll p r z) q = rollAt z q := by
  simp [rollAt, setRoll, Tbl.get?_set, h]

theorem Tbl.set_set {α : Type} (t : Tbl α) (k : Nat) (v w : α) : (t.set k v).set k w = t.set k w := by
  induction t with
  | nil => simp [Tbl.set]
  | cons x t ih =>
    obtain ⟨a, b⟩ := x
    by_cases h1 : k = a
    · subst h1
      simp [Tbl.set]
    · by_cases h2 : k < a
      · simp [Tbl.set, h1, h2]
      · simp [Tbl.set, h1, h2, ih]

theorem setRoll_setRoll (p : Place) (r r' : Roll) (z : Zone) : setRoll p r' (setRoll p r z) = setRoll p r' z := by
  simp [setRoll, Tbl.set_set]

theorem armSerial_setRoll (r : Nat) (x : Arm) (y : Roll) (z : Zone) :
    armSerial (setRoll (.arm r x) y z) r x = y.serial := by
  simp [armSerial]

/-- A record asked to take the state it has stays as it was set. -/
theorem setArmState_setRoll (e : Env) (r : Nat) (x : Arm) (st : RollState) (y : Roll) (z : Zone) (h : y.state = st) :
    setArmState e r x st (setRoll (.arm r x) y z) = setRoll (.arm r x) y z := by
  rw [setArmState, armSerial_setRoll, writeRoll_agrees e _ _ _ y (rollAt_setRoll_same _ _ _), setRoll_setRoll, ← h]

/-! ### Splice states -/

theorem splice?_modSplice (r : Nat) (f : Splice → Splice) (z : Zone) :
    splice? (modSplice r f z) r = (splice? z r).map f := by
  simp [splice?, modSplice, Tbl.get?_modify]

theorem setSpliceState_of_quiet {e : Env} {r : Nat} {st : SpliceState} {z : Zone}
    (h : ∀ s, splice? z r = some s → s.state.splicing = false) :
    setSpliceState e r st z = modSplice r (fun s => { s with state := st }) z := by
  have hwas : ((splice? z r).any fun s => s.state.splicing) = false := by
    cases hs : splice? z r with
    | none => rfl
    | some s => simpa using h s hs
  simp [setSpliceState, hwas]

/-! ### The frames held in JOINING (R5, R15) -/

/-- With room and none waiting, a frame offered in ACTIVE joins the queue, whatever its class. -/
theorem offer_room {e : Env} {f : TxFrame} {z : Zone} (he : e.station = .active) (hw : z.line.waiting = [])
    (hq : z.line.queue.length < 16) :
    (offer e f z).line.queue = z.line.queue ++ [f] ∧ (offer e f z).line.waiting = [] := by
  have hq' : z.line.queue.length < Config.queueEntries := hq
  unfold offer
  rw [he]
  simp only [offerActive]
  split
  · rw [if_neg (by simp [hw])]
    exact ⟨rfl, hw⟩
  · rw [if_pos ⟨hw, hq'⟩]
    exact ⟨rfl, hw⟩

theorem offerAll_room {e : Env} (he : e.station = .active) (fs : List TxFrame) {z : Zone} (hw : z.line.waiting = [])
    (hq : z.line.queue.length + fs.length ≤ 16) :
    (fs.foldl (fun z f => offer e f z) z).line.queue = z.line.queue ++ fs := by
  induction fs generalizing z with
  | nil => simp
  | cons f fs ih =>
    rw [List.length_cons] at hq
    obtain ⟨hqueue, hwaiting⟩ := offer_room (f := f) he hw (by omega)
    rw [List.foldl_cons, ih hwaiting (by simp [hqueue]; omega), hqueue, List.append_assoc]
    rfl

theorem offerHeld_queue {e : Env} {terminal : Option Nat} {held : List TxFrame} {z : Zone} (he : e.station = .active)
    (hq : z.line.queue = []) (hw : z.line.waiting = []) (hlen : held.length + 1 ≤ 16) :
    (offerHeld e terminal held z).line.queue =
      (terminal.map fun t => answerFrame t .zoneRestart .done 0).toList ++ held := by
  cases terminal with
  | none =>
    rw [offerHeld, offerAll_room he held hw (by simp [hq]; omega), hq]
    rfl
  | some t =>
    obtain ⟨hqueue, hwaiting⟩ := offer_room (f := answerFrame t .zoneRestart .done 0) he hw (by simp [hq])
    have hrest := offerAll_room he held hwaiting (by rw [hqueue, hq]; simp; omega)
    rw [hqueue, hq] at hrest
    exact hrest

/-! ### Lanes read at start (R70) -/

theorem upTo_succ (n : Nat) : upTo (n + 1) = upTo n ++ [n + 1] := by
  simp [upTo, List.range_succ]

theorem mem_upTo {n k : Nat} : k ∈ upTo n ↔ 1 ≤ k ∧ k ≤ n := by
  simp only [upTo, List.mem_map, List.mem_range]
  constructor
  · rintro ⟨i, hi, rfl⟩
    omega
  · rintro ⟨h1, h2⟩
    exact ⟨k - 1, by omega, by omega⟩

theorem nodup_upTo (n : Nat) : (upTo n).Nodup :=
  List.Nodup.map (fun _ _ h => Nat.succ.inj h) List.nodup_range

theorem lane_key_eq {l p l' p' : Nat} (hp : p < 16) (hp' : p' < 16) :
    (Place.lane l p).key = (Place.lane l' p').key ↔ l = l' ∧ p = p' := by
  simp only [Place.key]
  omega

/-- What one position of a lane scan does. -/
def scanPosition (e : Env) (l : Nat) (z : Zone) (p : Nat) : Zone :=
  if laneDetector e l p then setRoll (.lane l p) (unidentified (laneRest e l)) z else z

theorem rollAt_scanPosition {e : Env} {l l' p p' : Nat} (z : Zone) (hp : p < 16) (hp' : p' < 16) :
    rollAt (scanPosition e l z p) (.lane l' p') =
      if l' = l ∧ p' = p ∧ laneDetector e l p = true then some (unidentified (laneRest e l))
      else rollAt z (.lane l' p') := by
  unfold scanPosition
  by_cases hd : laneDetector e l p = true
  · rw [if_pos hd]
    by_cases hk : l' = l ∧ p' = p
    · obtain ⟨rfl, rfl⟩ := hk
      simp [hd]
    · rw [rollAt_setRoll_ne (fun h => hk ((lane_key_eq hp' hp).mp h)), if_neg (fun h => hk ⟨h.1, h.2.1⟩)]
  · simp [hd]

theorem rollAt_scanPositions {e : Env} {l l' p' : Nat} (n : Nat) (z : Zone) (hn : n < 16) (hp' : p' < 16) :
    rollAt ((upTo n).foldl (scanPosition e l) z) (.lane l' p') =
      if l' = l ∧ 1 ≤ p' ∧ p' ≤ n ∧ laneDetector e l p' = true then some (unidentified (laneRest e l))
      else rollAt z (.lane l' p') := by
  induction n with
  | zero =>
    rw [if_neg (by omega)]
    rfl
  | succ n ih =>
    rw [upTo_succ, List.foldl_append, List.foldl_cons, List.foldl_nil, rollAt_scanPosition _ hn hp', ih (by omega)]
    by_cases hp : p' = n + 1
    · subst hp
      simp [show ¬ n + 1 ≤ n by omega]
    · simp [hp, show p' ≤ n + 1 ↔ p' ≤ n by omega]

theorem rollAt_scanLane {e : Env} {l l' p' : Nat} (z : Zone) (hn : lanePositions e l < 16) (hp' : p' < 16) :
    rollAt (scanLane e l z) (.lane l' p') =
      if l' = l ∧ 1 ≤ p' ∧ p' ≤ lanePositions e l ∧ laneDetector e l p' = true then some (unidentified (laneRest e l))
      else rollAt z (.lane l' p') :=
  rollAt_scanPositions (lanePositions e l) z hn hp'

theorem rollAt_scanLanes {e : Env} {l' p' : Nat} (n : Nat) (z : Zone) (hn : ∀ k, lanePositions e k < 16) (hp' : p' < 16) :
    rollAt ((upTo n).foldl (fun z l => scanLane e l z) z) (.lane l' p') =
      if 1 ≤ l' ∧ l' ≤ n ∧ 1 ≤ p' ∧ p' ≤ lanePositions e l' ∧ laneDetector e l' p' = true then
        some (unidentified (laneRest e l'))
      else rollAt z (.lane l' p') := by
  induction n with
  | zero =>
    rw [if_neg (by omega)]
    rfl
  | succ n ih =>
    rw [upTo_succ, List.foldl_append, List.foldl_cons, List.foldl_nil, rollAt_scanLane _ (hn _) hp', ih]
    by_cases hl : l' = n + 1
    · subst hl
      simp [show ¬ n + 1 ≤ n by omega]
    · simp [hl, show l' ≤ n + 1 ↔ l' ≤ n by omega]

/-! ### The track read at start (R46) -/

/-- The segments whose occupancy input is active, rising. -/
def seenSegments (e : Env) : List Nat := (segmentNumbers e).filter (occupied e)

theorem seenSegments_eq (e : Env) :
    ((List.range e.img.segments.length).filterMap fun i => if occupied e (i + 1) then some (i + 1) else none) =
      seenSegments e := by
  unfold seenSegments segmentNumbers upTo
  induction e.img.segments.length with
  | zero => rfl
  | succ n ih =>
    simp only [List.range_succ, List.filterMap_append, List.map_append, List.filter_append, ih]
    by_cases h : occupied e (n + 1) = true <;> simp [h]

theorem nodup_seenSegments (e : Env) : (seenSegments e).Nodup := (nodup_upTo _).filter _

/-- A segment alone shows its tag, which is not 0. -/
@[reducible] def singleAt (e : Env) (k : Nat) : Prop :=
  presentTag e k ≠ 0 ∧ ∀ j ∈ seenSegments e, presentTag e j = presentTag e k → j = k

/-- The segment that alone shows a tag, with it. -/
def soleSegment (e : Env) (tag : Nat) : Option (Nat × Nat) :=
  match (seenSegments e).filter fun k => presentTag e k = tag with
  | [k] => some (k, tag)
  | _ => none

theorem filter_eq_singleton {α : Type} {l : List α} (hl : l.Nodup) (p : α → Bool) (a : α) :
    l.filter p = [a] ↔ (a ∈ l ∧ p a = true) ∧ ∀ b ∈ l, p b = true → b = a := by
  constructor
  · intro h
    have hmem : ∀ b, b ∈ l ∧ p b = true ↔ b = a := fun b => by rw [← List.mem_filter, h, List.mem_singleton]
    exact ⟨(hmem a).mpr rfl, fun b hb hp => (hmem b).mp ⟨hb, hp⟩⟩
  · rintro ⟨ha, hall⟩
    refine List.perm_singleton.mp ((List.perm_ext_iff_of_nodup (hl.filter p) (List.nodup_singleton a)).mpr fun b => ?_)
    rw [List.mem_filter, List.mem_singleton]
    exact ⟨fun h => hall b h.1 h.2, fun h => h ▸ ha⟩

theorem soleSegment_eq_some {e : Env} {tag : Nat} {x : Nat × Nat} (h0 : tag ≠ 0) : soleSegment e tag = some x ↔
    x.1 ∈ seenSegments e ∧ singleAt e x.1 ∧ presentTag e x.1 = tag ∧ x.2 = tag := by
  have hfilter := filter_eq_singleton (nodup_seenSegments e) (fun k => presentTag e k = tag)
  obtain ⟨k, t⟩ := x
  unfold soleSegment
  constructor
  · intro h
    split at h
    next j hj =>
      obtain ⟨rfl, rfl⟩ := Prod.mk.inj (Option.some.inj h)
      obtain ⟨⟨hmem, htag⟩, hall⟩ := (hfilter j).mp hj
      simp only [decide_eq_true_eq] at htag hall
      exact ⟨hmem, ⟨by rwa [htag], fun i hi heq => hall i hi (heq.trans htag)⟩, htag, rfl⟩
    · cases h
  · rintro ⟨hmem, ⟨-, hall⟩, htag, rfl⟩
    have hk : (seenSegments e).filter (fun k => presentTag e k = t) = [k] :=
      (hfilter k).mpr ⟨⟨hmem, by simpa using htag⟩, fun i hi hti => hall i hi (by simpa [htag] using hti)⟩
    rw [hk]

/-- The segments that alone show a number, with the numbers, which rise. -/
def soleSegments (e : Env) : List (Nat × Nat) := (upTo 63).filterMap (soleSegment e)

theorem mem_soleSegments {e : Env} (h63 : ∀ k, presentTag e k ≤ 63) {x : Nat × Nat} :
    x ∈ soleSegments e ↔ x.1 ∈ seenSegments e ∧ singleAt e x.1 ∧ presentTag e x.1 = x.2 := by
  rw [soleSegments, List.mem_filterMap]
  constructor
  · rintro ⟨tag, htag, hx⟩
    obtain ⟨hmem, hsingle, hp, rfl⟩ := (soleSegment_eq_some (by have := mem_upTo.mp htag; omega)).mp hx
    exact ⟨hmem, hsingle, hp⟩
  · rintro ⟨hmem, hsingle, hp⟩
    have h0 := hsingle.1
    have hle := h63 x.1
    exact ⟨x.2, mem_upTo.mpr (by omega), (soleSegment_eq_some (by omega)).mpr ⟨hmem, hsingle, hp, rfl⟩⟩

theorem pairwise_upTo (n : Nat) : (upTo n).Pairwise (· < ·) := by
  unfold upTo
  rw [List.pairwise_map]
  exact List.pairwise_lt_range.imp (by omega)

theorem pairwise_soleSegments (e : Env) : ((soleSegments e).map Prod.snd).Pairwise (· < ·) := by
  unfold soleSegments
  rw [List.pairwise_map, List.pairwise_filterMap]
  refine (pairwise_upTo 63).imp_of_mem fun {a b} ha hb hlt x hx y hy => ?_
  obtain ⟨-, -, -, hxa⟩ := (soleSegment_eq_some (by have := mem_upTo.mp ha; omega)).mp hx
  obtain ⟨-, -, -, hyb⟩ := (soleSegment_eq_some (by have := mem_upTo.mp hb; omega)).mp hy
  omega

theorem nodup_soleSegments_fst {e : Env} (h63 : ∀ k, presentTag e k ≤ 63) :
    ((soleSegments e).map Prod.fst).Nodup := by
  rw [List.Nodup, List.pairwise_map]
  have hp := pairwise_soleSegments e
  rw [List.pairwise_map] at hp
  refine hp.imp_of_mem fun {x y} hx hy hlt heq => ?_
  obtain ⟨-, -, hxt⟩ := (mem_soleSegments h63).mp hx
  obtain ⟨-, -, hyt⟩ := (mem_soleSegments h63).mp hy
  rw [heq] at hxt
  omega

/-- The record of a vehicle found on a segment (R46). -/
def foundRecord (e : Env) (x : Nat × Nat) : Vehicle :=
  { number := x.2, state := .held, current := some x.1, granted := none, trailing := none, loaded := false,
    purpose := .none, order := none, home := e.own, route := [], handOver := .none, handOverTime := e.now,
    offeredTo := none, repeatAt := 0, unconfirmed := false, offeredBy := none, carried := none, claim := 0 }

/-- The vehicle table with records found in turn in the slots from 1. -/
def foundTable (e : Env) (l : List (Nat × Nat)) : Tbl Vehicle := numbered l fun _ x => foundRecord e x

theorem nth_eq_none_iff {α : Type} (l : List α) (k : Nat) : nth l (k + 1) = none ↔ l.length ≤ k :=
  List.getElem?_eq_none_iff

theorem has_foundTable (e : Env) (l : List (Nat × Nat)) (k : Nat) :
    (foundTable e l).has (k + 1) = decide (k < l.length) := by
  rw [Tbl.has, foundTable, get?_numbered, Option.isSome_map]
  by_cases h : k < l.length
  · simp [nth, h]
  · have hnone : nth l (k + 1) = none := (nth_eq_none_iff l k).mpr (by omega)
    simp [hnone, h]

/-- The lowest free slot is the one after the records found so far. -/
theorem freeKey_foundTable (e : Env) (l : List (Nat × Nat)) (n : Nat) :
    (foundTable e l).freeKey n = if l.length < n then some (l.length + 1) else none := by
  unfold Tbl.freeKey
  simp only [has_foundTable]
  induction n with
  | zero => rfl
  | succ n ih =>
    rw [List.range_succ, List.findSome?_append, ih]
    by_cases h : l.length < n
    · rw [if_pos h, if_pos (by omega)]
      rfl
    · by_cases hn : l.length = n
      · subst hn
        simp
      · simp [h, show n < l.length by omega, show ¬ l.length < n + 1 by omega]

theorem set_zipIdx_end {α β : Type} (l : List α) (x : α) (f : α → β) (n : Nat) :
    Tbl.set ((l.zipIdx n).map fun x => (x.2 + 1, f x.1)) (n + l.length + 1) (f x) =
      ((l ++ [x]).zipIdx n).map fun x => (x.2 + 1, f x.1) := by
  induction l generalizing n with
  | nil => rfl
  | cons a l ih =>
    have h := ih (n + 1)
    rw [show n + 1 + l.length + 1 = n + (a :: l).length + 1 by simp; omega] at h
    simp only [List.cons_append, List.zipIdx_cons, List.map_cons, Tbl.set]
    rw [if_neg (by simp), if_neg (by simp), h]

theorem set_foundTable (e : Env) (l : List (Nat × Nat)) (x : Nat × Nat) :
    (foundTable e l).set (l.length + 1) (foundRecord e x) = foundTable e (l ++ [x]) := by
  have h := set_zipIdx_end l x (foundRecord e) 0
  rw [Nat.zero_add] at h
  exact h

/-- What a segment record becomes as vehicles are found: the first so many are taken, the others block their segments. -/
theorem foundVehicle_eq {e : Env} {z : Zone} {done : List (Nat × Nat)} (x : Nat × Nat)
    (hv : z.track.vehicles = foundTable e (done.take 8)) :
    foundVehicle e x.1 x.2 z =
      setSegState x.1 (if done.length < 8 then .occupied x.2 else .blocked)
        { z with track := { z.track with vehicles := foundTable e ((done ++ [x]).take 8) } } := by
  have hfree : freeVehicleSlot z = if done.length < 8 then some (done.length + 1) else none := by
    rw [freeVehicleSlot, hv, freeKey_foundTable]
    by_cases h : done.length < 8
    · simp [Config.vehicleSlots, h, show min 8 done.length = done.length by omega]
    · simp [Config.vehicleSlots, h, show min 8 done.length = 8 by omega]
  unfold foundVehicle
  rw [hfree]
  by_cases h : done.length < 8
  · simp only [h, if_true]
    have htake : done.take 8 = done := List.take_of_length_le (by omega)
    rw [hv, htake, List.take_of_length_le (by simp; omega), ← set_foundTable]
    rfl
  · simp only [h, if_false]
    rw [List.take_append_of_le_length (by omega), ← hv]

theorem get?_setSegState (k j : Nat) (st : SegState) (z : Zone) : (setSegState k st z).track.segments.get? j =
    if j = k then (z.track.segments.get? j).map fun s => { s with state := st } else z.track.segments.get? j := by
  simp [setSegState, modSeg, Tbl.get?_modify]

/-- A zone that differs from another in the segments and vehicles only. -/
def segmentsAndVehicles (z t : Zone) : Prop :=
  t = { z with track := { z.track with segments := t.track.segments, vehicles := t.track.vehicles } }

theorem segmentsAndVehicles.trans {z t u : Zone} (h : segmentsAndVehicles z t) (h' : segmentsAndVehicles t u) :
    segmentsAndVehicles z u := by
  unfold segmentsAndVehicles at *
  rw [h', h]

/-- Finding the vehicles in turn: their table, and the state of each segment. -/
theorem foundVehicles (e : Env) (l : List (Nat × Nat)) (done : List (Nat × Nat)) (z : Zone)
    (hv : z.track.vehicles = foundTable e (done.take 8)) (hl : (l.map Prod.fst).Nodup) :
    let t := l.foldl (fun z x => foundVehicle e x.1 x.2 z) z
    t.track.vehicles = foundTable e ((done ++ l).take 8) ∧ segmentsAndVehicles z t ∧
    (∀ k, k ∉ l.map Prod.fst → t.track.segments.get? k = z.track.segments.get? k) ∧
    (∀ x ∈ l.take (8 - done.length), t.track.segments.get? x.1 =
      (z.track.segments.get? x.1).map fun s => { s with state := .occupied x.2 }) ∧
    (∀ x ∈ l.drop (8 - done.length), t.track.segments.get? x.1 =
      (z.track.segments.get? x.1).map fun s => { s with state := .blocked }) := by
  induction l generalizing done z with
  | nil =>
    rw [List.foldl_nil, List.append_nil]
    exact ⟨hv, rfl, fun _ _ => rfl, by simp, by simp⟩
  | cons x l ih =>
    simp only [List.foldl_cons, List.map_cons, List.nodup_cons] at hl ⊢
    obtain ⟨hx, hl⟩ := hl
    have hfound := foundVehicle_eq x hv
    have hz : segmentsAndVehicles z (foundVehicle e x.1 x.2 z) := by rw [hfound]; rfl
    have hseg : ∀ k, (foundVehicle e x.1 x.2 z).track.segments.get? k = if k = x.1 then
        (z.track.segments.get? k).map fun s => { s with state := if done.length < 8 then .occupied x.2 else .blocked }
        else z.track.segments.get? k := by
      intro k
      rw [hfound, get?_setSegState]
    have hself := hseg x.1
    rw [if_pos rfl] at hself
    obtain ⟨htable, hframe, hother, hfirst, hrest⟩ :=
      ih (done ++ [x]) (foundVehicle e x.1 x.2 z) (by rw [hfound]; rfl) hl
    rw [List.append_assoc] at htable
    rw [List.length_append, List.length_singleton] at hfirst hrest
    have hne : ∀ y ∈ l, y.1 ≠ x.1 := fun y hy heq => hx (heq ▸ List.mem_map_of_mem hy)
    refine ⟨htable, hz.trans hframe, fun k hk => ?_, fun y hy => ?_, fun y hy => ?_⟩
    · simp only [List.mem_cons, not_or] at hk
      rw [hother k hk.2, hseg, if_neg hk.1]
    · by_cases h8 : done.length < 8
      · rw [show 8 - done.length = (8 - (done.length + 1)) + 1 by omega, List.take_succ_cons, List.mem_cons] at hy
        rcases hy with rfl | hy
        · rw [hother _ hx, hself, if_pos h8]
        · rw [hfirst y hy, hseg, if_neg (hne y (List.mem_of_mem_take hy))]
      · rw [show 8 - done.length = 0 by omega] at hy
        cases hy
    · by_cases h8 : done.length < 8
      · rw [show 8 - done.length = (8 - (done.length + 1)) + 1 by omega, List.drop_succ_cons] at hy
        rw [hrest y hy, hseg, if_neg (hne y (List.mem_of_mem_drop hy))]
      · rw [show 8 - done.length = 0 by omega, List.drop_zero, List.mem_cons] at hy
        rcases hy with rfl | hy
        · rw [hother _ hx, hself, if_neg h8]
        · rw [hrest y (by rwa [show 8 - (done.length + 1) = 0 by omega]), hseg, if_neg (hne y hy)]

theorem get?_blockAll (ks : List Nat) (z : Zone) (k : Nat) :
    (ks.foldl (fun z k => setSegState k .blocked z) z).track.segments.get? k =
      if k ∈ ks then (z.track.segments.get? k).map fun s => { s with state := .blocked } else z.track.segments.get? k := by
  induction ks generalizing z with
  | nil => simp
  | cons j ks ih =>
    rw [List.foldl_cons, ih, get?_setSegState]
    by_cases hj : k = j
    · subst hj
      by_cases hk : k ∈ ks <;> simp [hk, Function.comp_def]
    · by_cases hk : k ∈ ks <;> simp [hk, hj]

theorem blockAll_frame (ks : List Nat) (z : Zone) :
    segmentsAndVehicles z (ks.foldl (fun z k => setSegState k .blocked z) z) := by
  induction ks generalizing z with
  | nil => rfl
  | cons j ks ih => exact segmentsAndVehicles.trans (t := setSegState j .blocked z) rfl (ih _)

/-- The segments that show no number of their own. -/
def badSegments (e : Env) : List Nat :=
  (seenSegments e).filter fun k =>
    presentTag e k = 0 || 1 < ((seenSegments e).map (presentTag e)).count (presentTag e k)

/-- A fold over numbers that acts only where a partial function is defined is a fold over its values. -/
theorem foldl_soleSegment (e : Env) (tags : List Nat) (z : Zone) :
    tags.foldl (fun z tag => match (seenSegments e).filter fun k => presentTag e k = tag with
      | [k] => foundVehicle e k tag z
      | _ => z) z =
    (tags.filterMap (soleSegment e)).foldl (fun z x => foundVehicle e x.1 x.2 z) z := by
  induction tags generalizing z with
  | nil => rfl
  | cons tag tags ih =>
    rw [List.foldl_cons, ih, List.filterMap_cons, soleSegment]
    split <;> simp

theorem scanTrack_eq (e : Env) (z : Zone) :
    scanTrack e z = (soleSegments e).foldl (fun z x => foundVehicle e x.1 x.2 z)
      ((badSegments e).foldl (fun z k => setSegState k .blocked z) { z with track := { z.track with vehicles := [] } }) :=
  foldl_soleSegment e (upTo 63) _

/-- A seen segment is bad exactly where it is not alone with a number. -/
theorem mem_badSegments {e : Env} {k : Nat} : k ∈ badSegments e ↔ k ∈ seenSegments e ∧ ¬ singleAt e k := by
  rw [badSegments, List.mem_filter]
  refine and_congr_right fun hk => ?_
  have hcount : 1 < ((seenSegments e).map (presentTag e)).count (presentTag e k) ↔
      ¬ ∀ j ∈ seenSegments e, presentTag e j = presentTag e k → j = k := by
    have hone : ((seenSegments e).filter fun j => presentTag e j = presentTag e k) = [k] ↔
        ∀ j ∈ seenSegments e, presentTag e j = presentTag e k → j = k := by
      rw [filter_eq_singleton (nodup_seenSegments e)]
      simp [hk]
    rw [← hone, List.count_eq_countP, List.countP_map, List.countP_eq_length_filter]
    have hmem : k ∈ (seenSegments e).filter fun j => presentTag e j = presentTag e k := by simp [hk]
    have hfun : ((fun x => x == presentTag e k) ∘ presentTag e) = fun j => decide (presentTag e j = presentTag e k) := by
      funext j
      simp [Function.comp, beq_eq_decide]
    rw [hfun]
    generalize ((seenSegments e).filter fun j => presentTag e j = presentTag e k) = l at hmem
    match l with
    | [] => cases hmem
    | [a] =>
      obtain rfl := List.mem_singleton.mp hmem
      simp
    | _ :: _ :: _ => simp
  simp only [Bool.or_eq_true, decide_eq_true_eq, hcount, singleAt]
  tauto

/-- The numbers found, rising. -/
def foundTags (e : Env) : List Nat := (soleSegments e).map Prod.snd

theorem mem_foundTags {e : Env} (h63 : ∀ k, presentTag e k ≤ 63) {n : Nat} :
    n ∈ foundTags e ↔ ∃ k ∈ seenSegments e, singleAt e k ∧ presentTag e k = n := by
  rw [foundTags, List.mem_map]
  constructor
  · rintro ⟨x, hx, rfl⟩
    obtain ⟨hmem, hsingle, htag⟩ := (mem_soleSegments h63).mp hx
    exact ⟨x.1, hmem, hsingle, htag⟩
  · rintro ⟨k, hmem, hsingle, rfl⟩
    exact ⟨(k, presentTag e k), (mem_soleSegments h63).mpr ⟨hmem, hsingle, rfl⟩, rfl⟩

/-- A segment that alone shows its number is among the first eight where its number is. -/
theorem mem_take_soleSegments {e : Env} (h63 : ∀ k, presentTag e k ≤ 63) {k : Nat} (hs : singleAt e k) :
    presentTag e k ∈ (foundTags e).take 8 ↔ (k, presentTag e k) ∈ (soleSegments e).take 8 := by
  rw [foundTags, ← List.map_take, List.mem_map]
  constructor
  · rintro ⟨x, hx, htag⟩
    obtain ⟨hmem, hsingle, hxt⟩ := (mem_soleSegments h63).mp (List.mem_of_mem_take hx)
    have hxk : x.1 = k := hs.2 x.1 hmem (hxt.trans htag)
    rwa [← htag, ← hxk]
  · exact fun h => ⟨_, h, rfl⟩

/-- The segment where a number was found is the first that shows it. -/
theorem find_seenSegment {e : Env} {x : Nat × Nat} (hmem : x.1 ∈ seenSegments e) (hs : singleAt e x.1)
    (ht : presentTag e x.1 = x.2) : (seenSegments e).find? (fun k => presentTag e k = x.2) = some x.1 := by
  have hfilter : (seenSegments e).filter (fun k => presentTag e k = x.2) = [x.1] :=
    (filter_eq_singleton (nodup_seenSegments e) _ _).mpr
      ⟨⟨hmem, by simpa using ht⟩, fun j hj hjt => hs.2 j hj (by simpa [ht] using hjt)⟩
  rw [← List.head?_filter, hfilter]
  rfl

theorem scanTrack_segment {e : Env} {z : Zone} (h63 : ∀ k, presentTag e k ≤ 63) {k : Nat} {x : Segment}
    (hx : z.track.segments.get? k = some x) :
    (scanTrack e z).track.segments.get? k = some { x with state := (
      if k ∈ seenSegments e then
        if presentTag e k ∈ (foundTags e).take 8 ∧ singleAt e k then SegState.occupied (presentTag e k) else .blocked
      else x.state) } := by
  obtain ⟨-, -, hother, hfirst, hrest⟩ := foundVehicles e (soleSegments e) []
    ((badSegments e).foldl (fun z k => setSegState k .blocked z) { z with track := { z.track with vehicles := [] } })
    fold_seg (nodup_soleSegments_fst h63)
  rw [List.length_nil, Nat.sub_zero] at hfirst hrest
  have hblock := get?_blockAll (badSegments e) { z with track := { z.track with vehicles := [] } } k
  rw [show ({ z with track := { z.track with vehicles := [] } } : Zone).track.segments.get? k = some x from hx,
    Option.map_some] at hblock
  have hsole : k ∈ (soleSegments e).map Prod.fst ↔ k ∈ seenSegments e ∧ singleAt e k := by
    rw [List.mem_map]
    constructor
    · rintro ⟨y, hy, rfl⟩
      obtain ⟨hmem, hsingle, -⟩ := (mem_soleSegments h63).mp hy
      exact ⟨hmem, hsingle⟩
    · exact fun h => ⟨(k, presentTag e k), (mem_soleSegments h63).mpr ⟨h.1, h.2, rfl⟩, rfl⟩
  rw [scanTrack_eq]
  by_cases hseen : k ∈ seenSegments e
  case neg =>
    rw [hother k (fun h => hseen (hsole.mp h).1), hblock, if_neg (fun h => hseen (mem_badSegments.mp h).1), if_neg hseen]
  case pos =>
    by_cases hsingle : singleAt e k
    case neg =>
      rw [hother k (fun h => hsingle (hsole.mp h).2), hblock, if_pos (mem_badSegments.mpr ⟨hseen, hsingle⟩), if_pos hseen,
        if_neg (fun h => hsingle h.2)]
    case pos =>
      rw [if_neg (fun h => (mem_badSegments.mp h).2 hsingle)] at hblock
      have hmem : (k, presentTag e k) ∈ soleSegments e := (mem_soleSegments h63).mpr ⟨hseen, hsingle, rfl⟩
      rw [if_pos hseen]
      by_cases htake : (k, presentTag e k) ∈ (soleSegments e).take 8
      · rw [hfirst _ htake, hblock, if_pos ⟨(mem_take_soleSegments h63 hsingle).mpr htake, hsingle⟩]
        rfl
      · have hdrop : (k, presentTag e k) ∈ (soleSegments e).drop 8 := by
          rw [← List.take_append_drop 8 (soleSegments e), List.mem_append] at hmem
          exact hmem.resolve_left htake
        rw [hrest _ hdrop, hblock, if_neg (fun h => htake ((mem_take_soleSegments h63 hsingle).mp h.1))]
        rfl

theorem scanTrack_frame {e : Env} (h63 : ∀ k, presentTag e k ≤ 63) (z : Zone) :
    (scanTrack e z).track.vehicles = foundTable e ((soleSegments e).take 8) ∧ segmentsAndVehicles z (scanTrack e z) := by
  obtain ⟨htable, hframe, -⟩ := foundVehicles e (soleSegments e) []
    ((badSegments e).foldl (fun z k => setSegState k .blocked z) { z with track := { z.track with vehicles := [] } })
    fold_seg (nodup_soleSegments_fst h63)
  rw [scanTrack_eq]
  refine ⟨htable, segmentsAndVehicles.trans (t := { z with track := { z.track with vehicles := [] } }) rfl ?_⟩
  exact (blockAll_frame _ _).trans hframe

theorem scanTrack_vehicle {e : Env} (h63 : ∀ k, presentTag e k ≤ 63) (z : Zone) (slot : Nat) :
    (scanTrack e z).track.vehicles.get? slot =
      (if slot = 0 then none else ((foundTags e).take 8)[slot - 1]?).map fun n =>
        { number := n, state := .held, current := (seenSegments e).find? fun k => presentTag e k = n, granted := none,
          trailing := none, loaded := false, purpose := .none, order := none, home := e.own, route := [],
          handOver := .none, handOverTime := e.now, offeredTo := none, repeatAt := 0, unconfirmed := false,
          offeredBy := none, carried := none, claim := 0 } := by
  rw [(scanTrack_frame h63 z).1, foundTable, get?_numbered, foundTags, ← List.map_take]
  cases slot with
  | zero => rfl
  | succ i =>
    rw [if_neg (by simp), Nat.add_sub_cancel, List.getElem?_map, nth]
    cases hx : ((soleSegments e).take 8)[i]? with
    | none => rfl
    | some x =>
      obtain ⟨hmem, hsingle, htag⟩ := (mem_soleSegments h63).mp (List.mem_of_mem_take (List.mem_of_getElem? hx))
      simp only [Option.map_some, find_seenSegment hmem hsingle htag]
      rfl

/-! ### Reelstands read at start (R152) -/

/-- A standby roll set on a reelstand in SINGLE: LOADED, and PREPARED and evaluated with standby ready. -/
theorem becomeLoaded_of_single {e : Env} {r : Nat} {x : Arm} {y : Roll} {z : Zone} {w : Splice}
    (hw : z.splice.stands.get? r = some w) (hs : w.state = .single) (hy : y.state = .standby) :
    becomeLoaded e r x (setRoll (.arm r x) y z) =
      if (reelIns e r).standbyReady then
        evalSplice e r (modSplice r (fun w => { w with inhibited := false, state := .prepared }) (setRoll (.arm r x) y z))
      else modSplice r (fun w => { w with inhibited := false, state := .loaded }) (setRoll (.arm r x) y z) := by
  have hsplice : splice? (setRoll (.arm r x) y z) r = some w := hw
  have hloaded : setSpliceState e r .loaded (modSplice r (fun s => { s with inhibited := false }) (setRoll (.arm r x) y z)) =
      modSplice r (fun w => { w with inhibited := false, state := .loaded }) (setRoll (.arm r x) y z) := by
    rw [setSpliceState_of_quiet, modSplice_modSplice]
    intro s h
    rw [splice?_modSplice, hsplice] at h
    obtain rfl := Option.some.inj h
    simp [hs, SpliceState.splicing]
  simp only [becomeLoaded, setArmState_setRoll e r x .standby y z hy, hloaded]
  split
  · rw [enterPrepared, setSpliceState_of_quiet, modSplice_modSplice]
    intro s h
    rw [splice?_modSplice, hsplice] at h
    obtain rfl := Option.some.inj h
    rfl
  · rfl

/-! ### Calls asked for in JOINING (R131) -/

theorem runoutCallHolds_agenda (e : Env) (r : Nat) (z : Zone) (asked : List Need) (agenda : List Task) :
    runoutCallHolds e r { z with supply := { z.supply with asked := asked }, agenda := agenda } = runoutCallHolds e r z :=
  rfl

/-- A call asked for in JOINING still holds. -/
def stillAsked (e : Env) (z : Zone) : Need → Bool
  | .runout r => runoutCallHolds e r z
  | .restock _ => true

theorem presentAll_eq (e : Env) (z : Zone) :
    presentAll e z = { z with supply := { z.supply with asked := [] }
                              agenda := z.agenda ++ (z.supply.asked.filter (stillAsked e z)).map Task.askCall } := by
  have key : ∀ (l : List Need) (agenda : List Task),
      l.foldl (fun z n => presentAsked e n z) { z with supply := { z.supply with asked := [] }, agenda := agenda } =
        { z with supply := { z.supply with asked := [] }
                 agenda := agenda ++ (l.filter (stillAsked e z)).map Task.askCall } := by
    intro l
    induction l with
    | nil => simp
    | cons n l ih =>
      intro agenda
      have hstep : presentAsked e n { z with supply := { z.supply with asked := [] }, agenda := agenda } =
          { z with supply := { z.supply with asked := [] }
                   agenda := agenda ++ if stillAsked e z n then [.askCall n] else [] } := by
        cases n with
        | runout r =>
          simp only [presentAsked, runoutCallHolds_agenda, stillAsked]
          by_cases h : runoutCallHolds e r z = true <;> simp [Zone.push, h]
        | restock l => rfl
      rw [List.foldl_cons, hstep, ih, List.filter_cons]
      by_cases h : stillAsked e z n = true <;> simp [h]
  exact key _ _

/-! ### The 10 ds of listening (R15) -/

theorem exec_joiningEnd (s : State) : exec .joiningEnd s = .next s.joiningEnded := rfl

theorem joiningEnded_of_due {s : State} (hi : s.isIn .joining = true) (h : liesAfter (s.loader.joinedAt + 10) s.time = false) :
    s.joiningEnded = s.enterActive :=
  if_pos ⟨hi, congrArg not h⟩

theorem joiningEnded_of_early {s : State} (h : liesAfter (s.loader.joinedAt + 10) s.time = true) : s.joiningEnded = s :=
  if_neg fun hdue => absurd ((congrArg not h).symm.trans hdue.2) (by decide)

/-- Settles O6: the end of JOINING, the held frames, the lanes, the track, the arms, and the order of the blocks. -/
theorem activeEntered : Obligations.ActiveEntered := by
  unfold Obligations.ActiveEntered
  refine ⟨fun s hh hs => ⟨fun h => ⟨s.enterActive, ?_, rfl, rfl, rfl, rfl, rfl, rfl, rfl⟩, fun h => ?_⟩,
    fun e terminal held z he hq hw hlen => offerHeld_queue he hq hw hlen,
    fun e z l p hz h1 h2 hp hn => ?_, fun e z h63 => ?_, fun e r z => ⟨fun ha hb => ?_, fun ha hb => ?_, fun ha hb => ?_,
      fun ha hb w hw hs => ⟨fun hready => ?_, fun hready => ?_⟩⟩, fun e z => ?_, fun e warm terminal alerts z => ?_⟩
  · rw [exec_joiningEnd, joiningEnded_of_due (isIn_of_station hh hs) h]
  · rw [exec_joiningEnd, joiningEnded_of_early h]
  · have hlt : ∀ k, lanePositions e k < 16 := fun k => Nat.lt_of_le_of_lt (hn k) (by decide)
    have hempty : rollAt z (.lane l p) = none := by simp [rollAt, hz, Tbl.get?]
    rw [scanLanes, Image.laneNumbers, rollAt_scanLanes _ z hlt (by omega), hempty]
    simp [h1, h2, laneRest]
  · rw [seenSegments_eq]
    refine ⟨fun tags htags => ?_, ⟨foundTags e, pairwise_soleSegments e, fun n => mem_foundTags h63⟩, ?_,
      (scanTrack_frame h63 z).2⟩
    · obtain rfl : tags = foundTags e := htags.1.eq_of_mem_iff (pairwise_soleSegments e)
        fun n => (htags.2 n).trans (mem_foundTags h63).symm
      exact ⟨fun k x hx => scanTrack_segment h63 hx, scanTrack_vehicle h63 z⟩
    · rw [(scanTrack_frame h63 z).1, foundTable, numbered, List.length_map, List.length_zipIdx, List.length_take]
      exact Nat.min_le_left _ _
  · simp [scanReelstand, ha, hb]
  · simp [scanReelstand, ha, hb]
  · simp [scanReelstand, ha, hb]
  · simp only [scanReelstand, ha, hb, if_true]
    rw [becomeLoaded_of_single hw hs rfl, hready]
    rfl
  · simp only [scanReelstand, ha, hb, if_true]
    rw [becomeLoaded_of_single hw hs rfl, hready]
    rfl
  · rw [scanReelstands, reelNumbers, upTo, List.foldl_map]
  · rw [activate, presentAll_eq]
    cases warm <;> rfl

end Sys2Proof.Machine

/-! PROOF. O11 and O12 (bodies, places and whole frames read back; R6, R187 to R190), O13 and O14 (line errors and frames heard;
R6 to R9, R17, R188), O15 and O16 (frames offered and sent; R2 to R5). -/

namespace Sys2Proof.Machine

/-! ### Bodies and places -/

/-- A body of fixed bytes is read back field by field; the three that carry numbers or data need their lengths. -/
theorem decodeBody_encodeBody (b : Body) (h : b.wf = true) : decodeBody (bodyKind b) (encodeBody b) = some b := by
  cases b with
  | requestAnswer k r ref =>
    have hlt : ref.toNat < 256 ^ 6 := ref.isLt
    have hread : decodeBody .requestAnswer (encodeBody (.requestAnswer k r ref)) =
        if (toBytes 6 ref.toNat).length = 6 then
          some (.requestAnswer k r (BitVec.ofNat 48 (fromBytes (toBytes 6 ref.toNat)))) else none := rfl
    rw [bodyKind, hread, if_pos (toBytes_length _ _), fromBytes_toBytes 6 _ hlt, BitVec.ofNat_toNat, BitVec.setWidth_eq]
  | zoneReport p i n c d =>
    have hlen : d.length ≤ 20 := by simpa [Body.wf] using h
    have hread : decodeBody .zoneReport (encodeBody (.zoneReport p i n c d)) =
        if d.length ≤ 20 then some (.zoneReport p i n c d) else none := rfl
    rw [bodyKind, hread, if_pos hlen]
  | faultReport e l v =>
    have he : e.toNat < 256 ^ 15 := e.isLt
    have hl : l.toNat < 256 ^ 8 := l.isLt
    have h15 : (toBytes 15 e.toNat).length = 15 := toBytes_length _ _
    have h8 : (toBytes 8 l.toNat).length = 8 := toBytes_length _ _
    rw [bodyKind, encodeBody, decodeBody_faultReport, if_pos (by simp [h15, h8]), List.append_assoc,
      List.take_left' h15, List.drop_left' h15, List.take_left' h8, fromBytes_toBytes 15 _ he, fromBytes_toBytes 8 _ hl]
    simp [List.getD, h15, h8]
  | rollCall c u g w m => rw [bodyKind, decodeBody_rollCall, word16_bytes, word24_bytes]
  | rollOffer c s m e f =>
    show some (Body.rollOffer c (word32 _ _ _ _) (word24 _ _ _) (word16 _ _) f) = _
    rw [word32_bytes, word24_bytes, word16_bytes]
  | rollTake c s u d =>
    show some (Body.rollTake c (word32 _ _ _ _) u d) = _
    rw [word32_bytes]
  | takeAnswer c s r =>
    show some (Body.takeAnswer c (word32 _ _ _ _) r) = _
    rw [word32_bytes]
  | passOffer v r =>
    show some (Body.passOffer v ⟨r.load, word32 _ _ _ _, r.state, r.grade, word16 _ _, r.caliper, word24 _ _ _, r.breaks,
      r.defect, word16 _ _⟩) = _
    rw [word32_bytes, word24_bytes, word16_bytes, word16_bytes]
  | rollWaste s m =>
    show some (Body.rollWaste (word32 _ _ _ _) (word16 _ _)) = _
    rw [word32_bytes, word16_bytes]
  | lotAlert l s =>
    show some (Body.lotAlert (word32 _ _ _ _) (word32 _ _ _ _)) = _
    rw [word32_bytes, word32_bytes]
  | rollEntry p s g w c m =>
    show some (Body.rollEntry p (word32 _ _ _ _) g (word16 _ _) c (word24 _ _ _)) = _
    rw [word32_bytes, word24_bytes, word16_bytes]
  | rollRemove s p =>
    show some (Body.rollRemove (word32 _ _ _ _) p) = _
    rw [word32_bytes]
  | orderRequest q s a b =>
    show some (Body.orderRequest q (word32 _ _ _ _) a b) = _
    rw [word32_bytes]
  | quarantineSet k b l =>
    show some (Body.quarantineSet k (word32 _ _ _ _) (word32 _ _ _ _)) = _
    rw [word32_bytes, word32_bytes]
  | pressState k r e =>
    show some (Body.pressState k (word16 _ _) (word16 _ _)) = _
    rw [word16_bytes, word16_bytes]
  | callWithdraw | passAccept | passDefer | passDone | laneService | quarantineClear | segmentRelease | spliceNow
  | faultAck | logClear | reportRequest | zoneRestart => rfl

theorem byte_toNat (n : Nat) : (byte n).toNat = n % 256 := BitVec.toNat_ofNat n 8

theorem byte_of_toNat {b : Byte} {n : Nat} (h : b.toNat = n) : byte n = b := by
  rw [← h, byte, BitVec.ofNat_toNat, BitVec.setWidth_eq]

theorem inNumbering_iff {n k : Nat} : inNumbering n k = true ↔ 1 ≤ k ∧ k ≤ n := by
  simp [inNumbering]

theorem wf_lane {l p : Nat} : (Place.lane l p).wf = true ↔ (1 ≤ l ∧ l ≤ 8) ∧ 1 ≤ p ∧ p ≤ 4 := by
  simp [Place.wf, inNumbering_iff]

theorem wf_arm {r : Nat} {x : Arm} : (Place.arm r x).wf = true ↔ 1 ≤ r ∧ r ≤ 4 := inNumbering_iff

theorem wf_vehicle {s : Nat} : (Place.vehicle s).wf = true ↔ 1 ≤ s ∧ s ≤ 8 := inNumbering_iff

theorem wf_dock {d : Nat} : (Place.dock d).wf = true ↔ 1 ≤ d ∧ d ≤ 12 := inNumbering_iff

/-- The place that two numbers name. -/
def placeOfNumbers (t v : Nat) : Option Place :=
  match t with
  | 1 => if 1 ≤ v / 16 ∧ v / 16 ≤ 8 ∧ 1 ≤ v % 16 ∧ v % 16 ≤ 4 then some (.lane (v / 16) (v % 16)) else none
  | 2 =>
    if 1 ≤ v / 16 ∧ v / 16 ≤ 4 then
      (if v % 16 = 1 then some (.arm (v / 16) .a) else if v % 16 = 2 then some (.arm (v / 16) .b) else none)
    else none
  | 3 => if 1 ≤ v ∧ v ≤ 8 then some (.vehicle v) else none
  | 4 => if v = 0 then some .carriage else none
  | 5 => if 1 ≤ v ∧ v ≤ 12 then some (.dock v) else none
  | _ => none

theorem decode_eq (c : PlaceCode) : c.decode = placeOfNumbers c.type.toNat c.value.toNat := rfl

theorem decode_of_toNat {c : PlaceCode} {t v : Nat} (ht : c.type.toNat = t) (hv : c.value.toNat = v) :
    c.decode = placeOfNumbers t v := by
  rw [decode_eq, ht, hv]

theorem encode_toNat (p : Place) :
    p.encode.type.toNat = p.key / 256 % 256 ∧ p.encode.value.toNat = p.key % 256 := by
  rw [Place.encode]
  exact ⟨byte_toNat _, by rw [byte_toNat, Nat.mod_mod]⟩

theorem decode_encode (p : Place) (h : p.wf = true) : p.encode.decode = some p := by
  obtain ⟨ht, hv⟩ := encode_toNat p
  cases p with
  | lane l q =>
    obtain ⟨hl, hq⟩ := wf_lane.mp h
    rw [Place.key] at ht hv
    rw [decode_of_toNat (t := 1) (v := l * 16 + q) (by omega) (by omega)]
    simp only [placeOfNumbers, show (l * 16 + q) / 16 = l by omega, show (l * 16 + q) % 16 = q by omega]
    exact if_pos ⟨hl.1, hl.2, hq.1, hq.2⟩
  | arm r x =>
    have hr := wf_arm.mp h
    cases x with
    | a =>
      rw [Place.key] at ht hv
      rw [decode_of_toNat (t := 2) (v := r * 16 + 1) (by omega) (by omega)]
      simp only [placeOfNumbers, show (r * 16 + 1) / 16 = r by omega, show (r * 16 + 1) % 16 = 1 by omega]
      exact if_pos hr
    | b =>
      rw [Place.key] at ht hv
      rw [decode_of_toNat (t := 2) (v := r * 16 + 2) (by omega) (by omega)]
      simp only [placeOfNumbers, show (r * 16 + 2) / 16 = r by omega, show (r * 16 + 2) % 16 = 2 by omega]
      exact if_pos hr
  | vehicle s =>
    have hs := wf_vehicle.mp h
    rw [Place.key] at ht hv
    rw [decode_of_toNat (t := 3) (v := s) (by omega) (by omega)]
    exact if_pos hs
  | carriage => exact decode_of_toNat (t := 4) (v := 0) ht hv
  | dock d =>
    have hd := wf_dock.mp h
    rw [Place.key] at ht hv
    rw [decode_of_toNat (t := 5) (v := d) (by omega) (by omega)]
    exact if_pos hd

theorem encode_eq_of_toNat {p : Place} {c : PlaceCode} (ht : c.type.toNat = p.key / 256)
    (hv : c.value.toNat = p.key % 256) : p.encode = c := by
  rw [Place.encode, byte_of_toNat ht, byte_of_toNat hv]

/-- Two bytes that name a place are the bytes of that place, which lies in the numbering. -/
theorem encode_of_decode {c : PlaceCode} {p : Place} (h : c.decode = some p) : p.wf = true ∧ p.encode = c := by
  have hv : c.value.toNat < 256 := c.value.isLt
  unfold PlaceCode.decode at h
  simp only at h
  split at h
  next ht =>
    split at h
    next hr =>
      obtain rfl := Option.some.inj h
      exact ⟨wf_lane.mpr (by omega), encode_eq_of_toNat (by rw [Place.key]; omega) (by rw [Place.key]; omega)⟩
    · cases h
  next ht =>
    split at h
    next hr =>
      split at h
      · obtain rfl := Option.some.inj h
        exact ⟨wf_arm.mpr hr, encode_eq_of_toNat (by rw [Place.key]; omega) (by rw [Place.key]; omega)⟩
      · split at h
        · obtain rfl := Option.some.inj h
          exact ⟨wf_arm.mpr hr, encode_eq_of_toNat (by rw [Place.key]; omega) (by rw [Place.key]; omega)⟩
        · cases h
    · cases h
  next ht =>
    split at h
    next hr =>
      obtain rfl := Option.some.inj h
      exact ⟨wf_vehicle.mpr hr, encode_eq_of_toNat (by rw [Place.key]; omega) (by rw [Place.key]; omega)⟩
    · cases h
  next ht =>
    split at h
    next hr =>
      obtain rfl := Option.some.inj h
      exact ⟨rfl, encode_eq_of_toNat (by rw [Place.key]; omega) (by rw [Place.key]; omega)⟩
    · cases h
  next ht =>
    split at h
    next hr =>
      obtain rfl := Option.some.inj h
      exact ⟨wf_dock.mpr hr, encode_eq_of_toNat (by rw [Place.key]; omega) (by rw [Place.key]; omega)⟩
    · cases h
  · cases h

/-- Settles O11: kind by kind and place by place, both ways. -/
theorem bodyAndPlaceRoundTrip : Obligations.BodyAndPlaceRoundTrip := by
  unfold Obligations.BodyAndPlaceRoundTrip
  refine ⟨decodeBody_encodeBody, decode_encode, fun c h => ?_⟩
  cases hc : c.decode with
  | none => rfl
  | some p =>
    obtain ⟨hwf, henc⟩ := encode_of_decode hc
    exact absurd henc (h p hwf)

/-! ### The line check (R6, R188) -/

theorem length_encodeBody_le {b : Body} (h : b.wf = true) : (encodeBody b).length ≤ 24 := by
  have hl := lengthOk_encodeBody b h
  generalize (encodeBody b).length = n at hl
  generalize bodyKind b = k at hl
  cases k <;> simp [Kind.lengthOk] at hl <;> omega

/-- What the line check asks of bytes that begin with the start byte. -/
def lineOk (s snd adr knd len : HeardByte) (tail : List HeardByte) : Prop :=
  let n := len.value.toNat
  let body := tail.take n
  let crc := (tail.drop n).take 2
  let covered := snd :: adr :: knd :: len :: body
  n ≤ 24 ∧ body.length = n ∧ crc.length = 2 ∧ (s :: covered ++ crc).all (·.stopBit) ∧
    bytes16 (crc16 (covered.map (·.value))) = crc.map (·.value)

theorem lineCheck_of_ok {s a k n t : HeardByte} {tail : List HeardByte} (hs : s.value = 0xA5#8)
    (h : lineOk s a k n t tail) :
    lineCheck (s :: a :: k :: n :: t :: tail) =
      .frame ⟨a.value, k.value, n.value, (tail.take t.value.toNat).map (·.value)⟩ := by
  rw [lineCheck, if_neg (by simp [hs])]
  exact if_pos h

theorem lineCheck_failed {s a k n t : HeardByte} {tail : List HeardByte} (hs : s.value = 0xA5#8)
    (h : ¬ lineOk s a k n t tail) : lineCheck (s :: a :: k :: n :: t :: tail) = .failed := by
  rw [lineCheck, if_neg (by simp [hs])]
  exact if_neg h

theorem lineCheck_short {s : HeardByte} {rest : List HeardByte} (hs : s.value = 0xA5#8) (h : rest.length < 4) :
    lineCheck (s :: rest) = .failed := by
  have hstart : ¬ s.value ≠ 0xA5#8 := by simp [hs]
  match rest, h with
  | [], _ => exact if_neg hstart
  | [_], _ => exact if_neg hstart
  | [_, _], _ => exact if_neg hstart
  | [_, _, _], _ => exact if_neg hstart

/-- A byte heard with its stop bit. -/
def heardWhole (b : Byte) : HeardByte := ⟨b, true⟩

theorem map_value_heardWhole (bs : List Byte) : (bs.map heardWhole).map (·.value) = bs := by
  simp [heardWhole, Function.comp_def]

theorem encodeFrame_eq (sender : Nat) (f : TxFrame) :
    encodeFrame sender f = 0xA5#8 :: byte sender :: byte f.dest :: (bodyKind f.body).code ::
      byte (encodeBody f.body).length :: (encodeBody f.body ++
        bytes16 (crc16 (byte sender :: byte f.dest :: (bodyKind f.body).code :: byte (encodeBody f.body).length ::
          encodeBody f.body))) := rfl

/-- A whole frame heard as it was sent passes the line check. -/
theorem lineCheck_encodeFrame (sender : Nat) (f : TxFrame) (h : f.body.wf = true) :
    lineCheck ((encodeFrame sender f).map heardWhole) =
      .frame ⟨byte sender, byte f.dest, (bodyKind f.body).code, encodeBody f.body⟩ := by
  have h24 := length_encodeBody_le h
  rw [encodeFrame_eq]
  generalize hcrc : bytes16 (crc16 (byte sender :: byte f.dest :: (bodyKind f.body).code ::
    byte (encodeBody f.body).length :: encodeBody f.body)) = crc
  have hcrc2 : crc.length = 2 := by rw [← hcrc]; rfl
  have hn : (heardWhole (byte (encodeBody f.body).length)).value.toNat = (encodeBody f.body).length :=
    (byte_toNat _).trans (Nat.mod_eq_of_lt (by omega))
  have hlen : ((encodeBody f.body).map heardWhole).length = (encodeBody f.body).length := List.length_map _
  simp only [List.map_cons, List.map_append]
  rw [lineCheck_of_ok rfl]
  · rw [hn, List.take_left' hlen, map_value_heardWhole]
    rfl
  · simp only [lineOk, hn, List.take_left' hlen, List.drop_left' hlen]
    rw [List.take_of_length_le (by simp [hcrc2])]
    refine ⟨h24, hlen, by simp [hcrc2], by simp [heardWhole], ?_⟩
    rw [map_value_heardWhole, ← hcrc]
    simp only [List.map_cons, map_value_heardWhole]
    rfl

theorem takeRaw_of_body (sender dest : Byte) (b : Body) (h : b.wf = true) :
    takeRaw ⟨sender, dest, (bodyKind b).code, encodeBody b⟩ = takeBody ⟨sender, dest⟩ b := by
  funext s
  unfold takeRaw
  simp only [kindOf_code, Option.bind_some, decodeBody_encodeBody b h]

/-- Settles O12: a whole frame passes, and each failing cause breaks one part of the check. -/
theorem framesPassTheLineCheck : Obligations.FramesPassTheLineCheck := by
  unfold Obligations.FramesPassTheLineCheck
  refine ⟨fun sender f hwf _ _ => ⟨lineCheck_encodeFrame sender f hwf, takeRaw_of_body _ _ _ hwf⟩,
    fun b rest hb => ?_, fun a b c d n rest ha hn => ?_, fun a b c d n rest ha hlen => ?_,
    fun a rest ha hlen => lineCheck_short ha hlen, fun a b c d n rest x ha hx hstop => ?_,
    fun a b c d n rest ha hcrc => ?_⟩
  · unfold lineCheck
    exact if_pos hb
  · exact lineCheck_failed ha fun h => absurd h.1 (by omega)
  · refine lineCheck_failed ha fun ⟨_, hbody, hcrc, _⟩ => ?_
    simp only [List.length_take, List.length_drop] at hbody hcrc
    omega
  · refine lineCheck_failed ha fun ⟨_, hbody, _, hall, _⟩ => ?_
    rw [List.all_eq_true] at hall
    have hx' : x ∈ a :: (b :: c :: d :: n :: rest.take n.value.toNat) ++ (rest.drop n.value.toNat).take 2 := by
      rwa [List.take_add, ← List.cons_append, ← List.cons_append, ← List.cons_append, ← List.cons_append,
        ← List.cons_append] at hx
    exact absurd (hall x hx') (by simp [hstop])
  · exact lineCheck_failed ha fun ⟨_, _, _, _, hok⟩ => hcrc hok

/-! ### Line errors (R6, R188) -/

theorem reached_eq_true {now e : Time} (h : liesAfter e now = false) : reached now e = true := by simp [reached, h]

theorem reached_eq_false {now e : Time} (h : liesAfter e now = true) : reached now e = false := by simp [reached, h]

theorem exec_lineError (bs : List HeardByte) (s : State) : exec (.lineError bs) s = .next (s.heardBytes bs) := rfl

theorem exec_frameDiscard (f : RawFrame) (s : State) : exec (.frameDiscard f) s = .next (s.hearAny f) := rfl

/-- Bytes heard with RESET released and the line not ignored are put to the line check. -/
theorem heardBytes_of_listening {s : State} (hh : s.loader.held = false) (hi : s.zone.line.ignoring = false)
    (bs : List HeardByte) : s.heardBytes bs = match lineCheck bs with
      | .nothing => s
      | .badStart => (s.modLine fun l => { l with ignoring := true }).countLineError
      | .failed => s.countLineError
      | .frame f => s.hearAny f := by
  unfold State.heardBytes
  refine (if_neg (by simp [hh, hi])).trans ?_
  cases lineCheck bs <;> rfl

/-- One more line error, in the period of ACTIVE too. -/
def Line.oneError (l : Line) : Line := { l with lineErrors := bump16 l.lineErrors }

theorem countLineError_of_inactive {s : State} (h : s.isActive = false) : s.countLineError = s.modLine Line.oneError :=
  if_neg fun hc => absurd (h.symm.trans hc) (by decide)

theorem countLineError_of_active {s : State} (h : s.isActive = true) :
    s.countLineError =
      if s.zone.line.periodErrors + 1 = 65 then
        (s.modLine fun l => { l.oneError with periodErrors := l.periodErrors + 1 }).onZone fun e z => raise e .errorRate [] z
      else s.modLine fun l => { l.oneError with periodErrors := l.periodErrors + 1 } :=
  if_pos h

/-- What a line error leaves of a line that the bytes made l. -/
theorem countLineError_line {s : State} {l : Line} (hl : s.zone.line = l) (hh : s.loader.held = false) :
    (s.loader.station ≠ .active →
      s.countLineError = { s with zone := { s.zone with line := { l with lineErrors := min 65535 (l.lineErrors + 1) } } }) ∧
    (s.loader.station = .active →
      let z : Zone := { s.zone with line :=
        { l with lineErrors := min 65535 (l.lineErrors + 1), periodErrors := l.periodErrors + 1 } }
      s.countLineError = if l.periodErrors + 1 = 65 then s.endEvent (raise s.env .errorRate [] z)
        else { s with zone := z }) := by
  subst hl
  refine ⟨fun h => ?_, fun h => ?_⟩
  · rw [countLineError_of_inactive (by simp [State.isActive, State.isIn, h])]
    rfl
  · rw [countLineError_of_active (isIn_of_station hh h)]
    rfl

/-- Settles O13: by what the line check makes of the bytes, by the station, and by the time of the period. -/
theorem lineErrors : Obligations.LineErrors := by
  unfold Obligations.LineErrors
  intro s bs hh
  refine ⟨fun hi => ?_, fun hi => ⟨fun f hf => ?_, fun l hl => ?_⟩, ?_, fun hs ht => ?_, fun h => ?_⟩
  · rw [exec_lineError, State.heardBytes, if_pos (by simp [hi])]
  · rw [exec_lineError, exec_frameDiscard, heardBytes_of_listening hh hi, hf]
  · rcases hl with ⟨hfailed, rfl⟩ | ⟨hbad, rfl⟩
    · rw [exec_lineError, heardBytes_of_listening hh hi, hfailed]
      obtain ⟨hidle, hactive⟩ := countLineError_line (s := s) rfl hh
      exact ⟨fun h => congrArg _ (hidle h), fun h => congrArg _ (hactive h)⟩
    · rw [exec_lineError, heardBytes_of_listening hh hi, hbad]
      obtain ⟨hidle, hactive⟩ := countLineError_line (s := s.modLine fun l => { l with ignoring := true }) rfl hh
      exact ⟨fun h => congrArg _ (hidle h), fun h => congrArg _ (hactive h)⟩
  · show Host.Outcome.next s.quietAgain = _
    rw [State.quietAgain, if_neg (by simp [hh])]
    rfl
  · show Host.Outcome.next s.periodEnded = _
    rw [State.periodEnded, if_pos ⟨isIn_of_station hh hs, reached_eq_true ht⟩]
    rfl
  · show Host.Outcome.next s.periodEnded = _
    rw [State.periodEnded, if_neg]
    rintro ⟨hactive, hreached⟩
    rcases h with h | h
    · exact h (station_of_isIn hactive)
    · exact absurd (hreached.symm.trans (reached_eq_false h)) (by decide)

/-! ### Frames heard (R7 to R9, R17) -/

theorem exec_duplicateStation (a k : Byte) (body : List Byte) (s : State) :
    exec (.duplicateStation a k body) s = .next (s.hearAny ⟨byte s.loader.number, a, k, body⟩) := rfl

theorem hearAny_own {s : State} {f : RawFrame} (hh : s.hears = true) (hf : f.sender.toNat = s.loader.number) :
    s.hearAny f = if ownFrame s.zone.line f then s.heardState else s.heardState.duplicate := by
  rw [State.hearAny, hear_of_hears _ _ hh, if_pos hf]

theorem hearAny_other {s : State} {f : RawFrame} (hh : s.hears = true) (hf : f.sender.toNat ≠ s.loader.number) :
    s.hearAny f = ((s.heardState.judged f (takeRaw f)).aliveFrom f.sender).settled := by
  rw [State.hearAny, hear_of_hears _ _ hh, if_neg hf]

theorem hears_held {s : State} (h : s.hears = true) : s.loader.held = false := by
  cases hh : s.loader.held with
  | false => rfl
  | true => rw [hears_of_held hh] at h; cases h

theorem isActive_iff {s : State} (hh : s.loader.held = false) : s.isActive = true ↔ s.loader.station = .active := by
  simp [State.isActive, State.isIn, hh]

theorem mayCommand_eq_false (i : Image) (sender : Nat) (c : FrameClass) : mayCommand i sender c = false ↔
    (c = .terminal ∧ sender ∉ i.permission) ∨ (c = .console ∧ (i.console = 0 ∨ i.console ≠ sender)) := by
  cases c <;> simp [mayCommand]
  by_cases h : i.console = 0 <;> simp [h]

theorem stationOk_eq_false (n : Nat) : stationOk n = false ↔ n < 1 ∨ 30 < n := by
  by_cases h1 : 1 ≤ n <;> by_cases h2 : n ≤ 30 <;> simp [stationOk, h1, h2] <;> omega

/-- What R8 makes of a frame in ACTIVE or JOINING, check by check. -/
theorem judged_eq {s : State} (hh : s.loader.held = false) (f : RawFrame) (take : State → State) :
    s.judged f take =
      if f.addressee ≠ 0 ∧ f.addressee.toNat ≠ s.loader.number then s
      else match kindOf f.kind with
        | none => s.modLine Line.countUnknown
        | some k =>
          if k.lengthOk f.body.length = false ∨ f.sender.toNat < 1 ∨ 30 < f.sender.toNat then
            s.modLine Line.countMalformed
          else if (k.cls = .terminal ∧ f.sender.toNat ∉ s.env.img.permission) ∨
              (k.cls = .console ∧ (s.env.img.console = 0 ∨ s.env.img.console ≠ f.sender.toNat)) then
            s.modLine Line.countRefused
          else if k.cls = .report ∨ s.loader.station ≠ .active then s
          else take s := by
  have hown : s.env.own = s.loader.number := rfl
  simp only [State.judged, judge, hown]
  by_cases haddr : f.addressee ≠ 0 ∧ f.addressee.toNat ≠ s.loader.number
  · simp only [if_pos haddr]
  simp only [if_neg haddr]
  cases hk : kindOf f.kind with
  | none => rfl
  | some k =>
    simp only [← mayCommand_eq_false, ← stationOk_eq_false]
    by_cases hlen : k.lengthOk f.body.length = false ∨ stationOk f.sender.toNat = false
    · have hbool : (!k.lengthOk f.body.length || !stationOk f.sender.toNat) = true := by simpa using hlen
      simp only [if_pos hlen, hbool, if_true]
    have hbool : ¬ (!k.lengthOk f.body.length || !stationOk f.sender.toNat) = true := by simpa using hlen
    simp only [if_neg hlen, if_neg hbool]
    by_cases hcmd : mayCommand s.env.img f.sender.toNat k.cls = false
    · simp only [hcmd, Bool.not_false, if_true]
    have hcmd' : mayCommand s.env.img f.sender.toNat k.cls = true := by simpa using hcmd
    simp only [hcmd', Bool.not_true, Bool.false_eq_true, if_false, reduceCtorEq]
    by_cases hrep : k.cls = .report
    · simp only [hrep, if_true, true_or]
    simp only [hrep, if_false, false_or, isActive_iff hh, ite_not]

/-- Entering INERT with room in the queue: the fault, its report and the time of the next (R18). -/
theorem enterInert_of_room {s : State} (hn : stationOk s.loader.number = true) (hq : s.zone.line.queue.length < 16)
    (code : FaultCode) (context : List CtxElem) :
    s.enterInert code context =
      let r := s.zone.faults.record ⟨code, s.time, context⟩ 1
      { s with loader := { s.loader with station := .inert, inertNext := some (s.time + Config.inertRepeat),
                                         restartAnswer := none }
               zone := { s.zone with faults := r
                                     line := { s.zone.line with
                                       queue := s.zone.line.queue ++ [⟨0, faultReportBody r .line⟩] } } } := by
  rw [State.enterInert, offerInert_of_room (z := { s.zone with faults := s.zone.faults.record ⟨code, s.time, context⟩ 1 })
    hn hq]

/-- Settles O14: the own number by the LI's memory of its frame, another's frame by the four checks. -/
theorem framesHeard : Obligations.FramesHeard := by
  unfold Obligations.FramesHeard
  refine ⟨fun s a k body hears hlt => ?_, fun s f hears hf => ?_⟩
  · have hf : (byte s.loader.number).toNat = s.loader.number := (byte_toNat _).trans (Nat.mod_eq_of_lt hlt)
    have hh := hears_held hears
    simp only [exec_duplicateStation, hearAny_own (f := ⟨byte s.loader.number, a, k, body⟩) hears hf]
    refine ⟨fun ho => congrArg _ (if_pos ho), fun ho hs => ?_, fun ho hs h1 h30 hq => ?_⟩
    · rw [if_neg (by exact fun h => absurd (ho.symm.trans h) (by decide)), State.duplicate,
        if_neg (by simp [State.isIn, hs])]
      rfl
    · rw [if_neg (by exact fun h => absurd (ho.symm.trans h) (by decide)),
        duplicate_of_isIn_joining (s := s.heardState) (isIn_of_station hh hs),
        enterInert_of_room (s := s.heardState) (stationOk_of_bounds h1 h30) hq]
      rfl
  · have hh := hears_held hears
    intro l t
    rw [exec_frameDiscard, hearAny_other hears hf, judged_eq (s := s.heardState) hh]
    rfl

/-! ### Frames offered (R4) -/

theorem dropNewestReport_split (older newer : List TxFrame) (r : TxFrame) (hr : r.isProtocol = false)
    (hn : ∀ g ∈ newer, g.isProtocol = true) : dropNewestReport (older ++ r :: newer) = some (older ++ newer) := by
  have hnone : dropNewestReport newer = none := by
    induction newer with
    | nil => rfl
    | cons g newer ih =>
      rw [dropNewestReport, ih fun x hx => hn x (List.mem_cons_of_mem _ hx)]
      simp [hn g]
  induction older with
  | nil => simp [dropNewestReport, hnone, hr]
  | cons g older ih => simp [dropNewestReport, ih]

theorem dropNewestReport_eq_none {q : List TxFrame} (h : ∀ g ∈ q, g.isProtocol = true) : dropNewestReport q = none := by
  induction q with
  | nil => rfl
  | cons g q ih =>
    rw [dropNewestReport, ih fun x hx => h x (List.mem_cons_of_mem _ hx)]
    simp [h g]

theorem displace_split {sending : Bool} (older newer : List TxFrame) (r : TxFrame) (hr : r.isProtocol = false)
    (hn : ∀ g ∈ newer, g.isProtocol = true) (hs : sending = true → older ≠ []) :
    displace sending (older ++ r :: newer) = some (older ++ newer) := by
  have hdrop := dropNewestReport_split older newer r hr hn
  cases sending with
  | false =>
    cases older with
    | nil => exact hdrop
    | cons g older => exact hdrop
  | true =>
    cases older with
    | nil => exact absurd rfl (hs rfl)
    | cons g older =>
      show (dropNewestReport (older ++ r :: newer)).map (g :: ·) = _
      rw [dropNewestReport_split older newer r hr hn]
      rfl

theorem displace_eq_none {sending : Bool} {q : List TxFrame}
    (h : ∀ g ∈ (if sending then q.tail else q), g.isProtocol = true) : displace sending q = none := by
  cases q with
  | nil => rfl
  | cons f q =>
    cases sending with
    | true =>
      show (dropNewestReport q).map (f :: ·) = none
      rw [dropNewestReport_eq_none (q := q) h]
      rfl
    | false => exact dropNewestReport_eq_none h

/-- A frame offered in ACTIVE goes by R4. -/
theorem offer_active {e : Env} (he : e.station = .active) (f : TxFrame) (z : Zone) : offer e f z = offerActive e f z := by
  rw [offer, he]

theorem offerWaiting_of_room {e : Env} {f : TxFrame} {z : Zone} (h : z.line.waiting.length < 32) :
    offerWaiting e f z = { z with line := { z.line with waiting := z.line.waiting ++ [f] } } := if_pos h

theorem offerWaiting_of_full {e : Env} {f : TxFrame} {z : Zone} (h : 32 ≤ z.line.waiting.length) :
    offerWaiting e f z = frameAccepted e f { z with line := { z.line with dropped := min 65535 (z.line.dropped + 1) } } :=
  if_neg (Nat.not_lt.mpr h)

theorem offerActive_report {e : Env} {f : TxFrame} {z : Zone} (hf : f.isProtocol = false) :
    offerActive e f z = if z.line.waiting = [] ∧ z.line.queue.length < 16 then
      { z with line := { z.line with queue := z.line.queue ++ [f] } } else { z with line := z.line.drop } :=
  if_neg (by simp [hf])

theorem offerActive_waiting {e : Env} {f : TxFrame} {z : Zone} (hf : f.isProtocol = true) (hw : z.line.waiting ≠ []) :
    offerActive e f z = offerWaiting e f z := by
  simp only [offerActive, hf, if_true]
  exact if_pos hw

theorem offerActive_full {e : Env} {f : TxFrame} {z : Zone} (hf : f.isProtocol = true) (hw : z.line.waiting = [])
    (hq : 16 ≤ z.line.queue.length) :
    offerActive e f z = match displace z.line.headSending z.line.queue with
      | some q => frameAccepted e f { z with line := { z.line.drop with queue := q ++ [f] } }
      | none => offerWaiting e f z := by
  simp only [offerActive, hf, if_true, hw]
  refine (if_neg (by simp)).trans ((if_neg (by simpa [Config.queueEntries] using hq)).trans ?_)
  cases displace z.line.headSending z.line.queue <;> rfl

theorem offerActive_room {e : Env} {f : TxFrame} {z : Zone} (hw : z.line.waiting = []) (hq : z.line.queue.length < 16) :
    (offerActive e f z).line = { z.line with queue := z.line.queue ++ [f] } := by
  cases hf : f.isProtocol with
  | false => rw [offerActive_report hf, if_pos ⟨hw, hq⟩]
  | true =>
    simp only [offerActive, hf, if_true, hw]
    rw [if_neg (by simp), if_pos (by simpa [Config.queueEntries] using hq)]
    rfl

/-- Settles O15: by the class of the frame, the fill of the queue and the waiting list. -/
theorem frameOffered : Obligations.FrameOffered := by
  unfold Obligations.FrameOffered
  intro e f z he
  rw [offer_active he]
  refine ⟨fun hq hw => offerActive_room hw hq, fun hf h => ?_, fun hf hq hw newer r older hsplit hr hn hs => ?_,
    fun hf hq hw hall => ?_, fun hf hw hlen => ?_, fun hf hlen => ?_⟩
  · rw [offerActive_report hf, if_neg]
    · rfl
    · rintro ⟨hw, hq⟩
      rcases h with h | h
      · exact absurd hq (Nat.not_lt.mpr h)
      · exact h hw
  · rw [offerActive_full hf hw hq, hsplit, displace_split older newer r hr hn hs]
    rfl
  · rw [offerActive_full hf hw hq, displace_eq_none hall, offerWaiting_of_room (by simp [hw]), hw]
    rfl
  · rw [offerActive_waiting hf hw, offerWaiting_of_room hlen]
  · rw [offerActive_waiting hf (fun hw => by rw [hw] at hlen; cases hlen), offerWaiting_of_full hlen]

/-! ### Frames sent (R2, R3, R5) -/

theorem exec_transmitStart (quiet : Nat) (b : Byte) (s : State) :
    exec (.transmitStart quiet b) s = .next (s.transmitStarted quiet b) := rfl

theorem exec_frameSent (s : State) : exec .frameSent s = .next s.frameSent := rfl

theorem transmitStarted_cons {s : State} {f : TxFrame} {rest : List TxFrame} (hq : s.zone.line.queue = f :: rest)
    (quiet : Nat) (b : Byte) : s.transmitStarted quiet b =
      if s.mayStart quiet f ∧ b = byte s.loader.number then s.modLine fun l => { l with sending := some ⟨f, true⟩ }
      else s := by
  rw [State.transmitStarted, hq]

theorem transmitStarted_nil {s : State} (hq : s.zone.line.queue = []) (quiet : Nat) (b : Byte) :
    s.transmitStarted quiet b = s := by
  rw [State.transmitStarted, hq]

theorem mayStart_iff (s : State) (quiet : Nat) (f : TxFrame) : s.mayStart quiet f = true ↔
    (s.loader.held = false ∧ (s.loader.station = .active ∨ s.loader.station = .inert)) ∧ s.zone.line.sending = none ∧
      (if f.isProtocol then 16 else 24) ≤ quiet := by
  have hgap : (decide (gapOf f ≤ quiet) = true) ↔ (if f.isProtocol then 16 else 24) ≤ quiet := decide_eq_true_iff
  simp only [State.mayStart, State.isIn, Bool.and_eq_true, hgap, Bool.or_eq_true, Bool.not_eq_true', decide_eq_true_eq,
    Option.isNone_iff_eq_none]
  tauto

theorem frameSent_of_sending {s : State} {x : Sending} (hh : s.loader.held = false) (hx : s.zone.line.sending = some x) :
    s.frameSent = s.endEvent (promoteWaiting s.env { s.zone with line := s.zone.line.sent x }) := by
  rw [State.frameSent, hx]
  exact if_neg (by simp [hh])

theorem frameSent_of_idle {s : State} (hx : s.zone.line.sending = none) : s.frameSent = s := by
  rw [State.frameSent, hx]

theorem promoteWaiting_of_none {e : Env} {z : Zone} (h : z.line.waiting = []) : promoteWaiting e z = z := by
  rw [promoteWaiting, h]

theorem promoteWaiting_of_some {e : Env} {z : Zone} {f : TxFrame} {rest : List TxFrame} (h : z.line.waiting = f :: rest)
    (hq : z.line.queue.length < 16) : promoteWaiting e z =
      frameAccepted e f { z with line := { z.line with queue := z.line.queue ++ [f], waiting := rest } } := by
  rw [promoteWaiting, h]
  exact if_pos hq

/-- Settles O16: the conditions of the start, and the entry that FRAME_SENT frees. -/
theorem framesSent : Obligations.FramesSent := by
  unfold Obligations.FramesSent
  refine ⟨fun s quiet b f rest hq => ⟨fun hh hs hx hgap hb => ?_, fun h => ?_, fun s' hq' => ?_⟩,
    fun s x hh hx => ⟨fun hw => ?_, fun f rest hw hlen => ?_, fun s' hx' => ?_⟩⟩
  · rw [exec_transmitStart, transmitStarted_cons hq, if_pos ⟨(mayStart_iff s quiet f).mpr ⟨⟨hh, hs⟩, hx, hgap⟩, hb⟩]
    rfl
  · rw [exec_transmitStart, transmitStarted_cons hq, if_neg]
    rintro ⟨hmay, hb⟩
    obtain ⟨⟨hh, hs⟩, hx, hgap⟩ := (mayStart_iff s quiet f).mp hmay
    rcases h with h | h | h | h | h | h
    · exact absurd hgap (Nat.not_le.mpr h)
    · exact h hb
    · exact h hx
    · exact absurd (hh.symm.trans h) (by decide)
    · rw [h] at hs
      exact absurd hs (by decide)
    · rw [h] at hs
      exact absurd hs (by decide)
  · rw [exec_transmitStart, transmitStarted_nil hq']
  · rw [exec_frameSent, frameSent_of_sending hh hx, promoteWaiting_of_none (z := { s.zone with line := s.zone.line.sent x }) hw]
    rfl
  · rw [exec_frameSent, frameSent_of_sending hh hx, promoteWaiting_of_some (z := { s.zone with line := s.zone.line.sent x }) hw hlen]
    rfl
  · rw [exec_frameSent, frameSent_of_idle hx']

end Sys2Proof.Machine

/-! PROOF. How a frame that is taken ends, for a block that changes the zone and for one that decides a request (R8 to R10);
O57 (faults reported and held; R150, R151, R182, R184), O58 (events at rest; log entry 4, R16), O52 (the waste gate; R168,
R172), O31 (SPLICE NOW; R140 to R145) and O29 (QUARANTINE SET and CLEAR; R64 to R66). -/

namespace Sys2Proof.Machine

/-! ### Frames taken -/

/-- A taken frame whose block changes the zone alone. -/
theorem hearBody_within {s : State} {h : Header} {b : Body} (f : Env → Zone → Zone) (ht : s.takes h (bodyKind b) = true)
    (hw : b.wf = true) (hr : (bodyKind b).cls ≠ .report) :
    s.hearBody h b (fun s => s.within f) = s.endFrame h (f s.env s.heard) :=
  hearBody_of_takes _ ht hw hr

/-- A taken request: the block decides on the zone and the terminal is answered. -/
theorem hearBody_decide {s : State} {h : Header} {b : Body} (k : Kind) (ref : Reference) (f : Env → Zone → Zone × Result)
    (ht : s.takes h (bodyKind b) = true) (hw : b.wf = true) (hr : (bodyKind b).cls ≠ .report) :
    s.hearBody h b (fun s => s.decide h k ref f) =
      s.endFrame h (s.answered h k (f s.env s.heard).2 ref (f s.env s.heard).1) :=
  hearBody_of_takes _ ht hw hr

/-! ### Faults reported (R182, R184) -/

theorem recordAndReport_silent {e : Env} {o : Occurrence} {n : Nat} {z : Zone} {level : Nat}
    (hl : z.faults.level = some level) (hr : levelReports level o.code.severity = false) :
    recordAndReport e o n z = { z with faults := z.faults.record o n } := by
  have hl' : (z.faults.record o n).level = some level := hl
  simp only [recordAndReport, hl', hr, Bool.false_eq_true, if_false]

theorem recordAndReport_reported {e : Env} {o : Occurrence} {n : Nat} {z : Zone} {level : Nat}
    (hl : z.faults.level = some level) (hr : levelReports level o.code.severity = true) :
    recordAndReport e o n z =
      let f := z.faults.record o n
      let sent := offer e ⟨0, faultReportBody f o.code.cls⟩ { z with faults := f }
      if o.code.severity = .stopping ∧ 2 ≤ level then { sent with faults := { sent.faults with level := some 1 } } else sent := by
  have hl' : (z.faults.record o n).level = some level := hl
  simp only [recordAndReport, hl', hr, if_true]

/-- A level reports the severities of Table 10-3-1. -/
theorem levelReports_iff {level : Nat} (h : level ≤ 3) (v : Severity) : levelReports level v = true ↔
    (1 ≤ level ∧ v = .stopping) ∨ (2 ≤ level ∧ v = .degrading) ∨ level = 3 := by
  obtain rfl | rfl | rfl | rfl : level = 0 ∨ level = 1 ∨ level = 2 ∨ level = 3 := by omega
  all_goals cases v <;> simp [levelReports]

/-! ### Held faults (R150, R151) -/

theorem raiseForReel_of_quiet {e : Env} {r : Nat} {z : Zone} {w : Splice} (hw : splice? z r = some w)
    (hq : w.state.splicing = false) (code : FaultCode) (context : List CtxElem) :
    raiseForReel e r code context z = raise e code context z := by
  simp [raiseForReel, hw, hq]

theorem raiseForReel_of_splicing {e : Env} {r : Nat} {z : Zone} {w : Splice} (hw : splice? z r = some w)
    (hs : w.state.splicing = true) (code : FaultCode) (context : List CtxElem) :
    raiseForReel e r code context z =
      modSplice r (fun s => { s with deferred := holdFault ⟨code, e.now, context⟩ s.deferred }) z := by
  simp [raiseForReel, hw, hs]

theorem splicing_iff (s : SpliceState) : s.splicing = true ↔ s ∈ [SpliceState.accelerating, .matched, .pasting, .cutting] := by
  cases s <;> simp [SpliceState.splicing]

/-- A change of a splice record that is known. -/
theorem modSplice_congr {r : Nat} {z : Zone} {w : Splice} (hw : splice? z r = some w) {f g : Splice → Splice}
    (h : f w = g w) : modSplice r f z = modSplice r g z := by
  have : z.splice.stands.modify r f = z.splice.stands.modify r g :=
    Tbl.modify_congr _ _ _ _ fun v hv => by cases hw.symm.trans hv; exact h
  simp only [modSplice, this]

/-- A fault whose code the set does not hold yet joins at its end. -/
theorem holdFault_fresh {o : Occurrence} {l : List HeldFault} (h : ∀ x ∈ l, x.latest.code ≠ o.code) :
    holdFault o l = l ++ [⟨1, o⟩] := by
  induction l with
  | nil => rfl
  | cons a l ih =>
    rw [holdFault, if_neg (h a List.mem_cons_self), ih fun x hx => h x (List.mem_cons_of_mem _ hx)]
    rfl

/-- A fault whose code the set holds is counted in that entry. -/
theorem holdFault_again {o : Occurrence} {first rest : List HeldFault} {x : HeldFault} (hx : x.latest.code = o.code)
    (h : ∀ y ∈ first, y.latest.code ≠ o.code) :
    holdFault o (first ++ x :: rest) = first ++ ⟨satAdd 255 x.count 1, o⟩ :: rest := by
  induction first with
  | nil => exact if_pos hx
  | cons a first ih =>
    rw [List.cons_append, holdFault, if_neg (h a List.mem_cons_self), ih fun y hy => h y (List.mem_cons_of_mem _ hy)]
    rfl

/-- The order in which a deferred set is released: the older latest occurrence first. -/
def releaseOrder (l : List HeldFault) : List HeldFault :=
  match l with
  | [a, b] => if liesAfter a.latest.time b.latest.time then [b, a] else [a, b]
  | l => l

theorem releaseDeferred_of_splice {e : Env} {r : Nat} {z : Zone} {w : Splice} (hw : splice? z r = some w) :
    releaseDeferred e r z = (releaseOrder w.deferred).foldl (fun z h => recordAndReport e h.latest h.count z)
      (modSplice r (fun s => { s with deferred := [] }) z) := by
  simp only [releaseDeferred, hw]
  rfl

/-- Settles O57: recording and reporting by the level, and the deferred set of a reelstand that is splicing. -/
theorem faultsReported : Obligations.FaultsReported := by
  unfold Obligations.FaultsReported
  refine ⟨fun e o n z level hl hle => ?_, fun e r z w hw => ?_⟩
  · have hrep := levelReports_iff hle o.code.severity
    refine ⟨fun h => recordAndReport_silent hl ?_, fun h1 hs => ?_, fun h2 hs => ?_, fun hs h => ?_, fun _ _ => rfl⟩
    · rw [Bool.eq_false_iff, ne_eq, hrep]
      rcases h with h | ⟨h, hne⟩ | ⟨h, hn⟩
      · omega
      · simp [h, hne]
      · simp [h, hn]
    · rw [recordAndReport_reported hl (hrep.mpr (Or.inl ⟨by omega, hs⟩))]
      exact if_neg (by omega)
    · rw [recordAndReport_reported hl (hrep.mpr (Or.inl ⟨by omega, hs⟩))]
      exact if_pos ⟨hs, h2⟩
    · rw [recordAndReport_reported hl (hrep.mpr (Or.inr h))]
      exact if_neg (by simp [hs])
  · have hw' : splice? z r = some w := hw
    simp only
    refine ⟨fun code context hn => ?_, fun code context hs hfresh => ?_, fun code context first h rest hs hd hh hfirst => ?_,
      fun hd => ?_, fun a hd => ?_, fun a b hd => ?_⟩
    · exact raiseForReel_of_quiet hw' (Bool.eq_false_iff.mpr (mt (splicing_iff _).mp hn)) code context
    · rw [raiseForReel_of_splicing hw' ((splicing_iff _).mpr hs)]
      exact modSplice_congr hw' (by rw [holdFault_fresh hfresh])
    · rw [raiseForReel_of_splicing hw' ((splicing_iff _).mpr hs)]
      exact modSplice_congr hw' (by rw [hd, holdFault_again (by exact hh) hfirst]; rfl)
    · rw [releaseDeferred_of_splice hw', hd]
      rfl
    · rw [releaseDeferred_of_splice hw', hd]
      rfl
    · rw [releaseDeferred_of_splice hw', hd, releaseOrder]
      split <;> rfl

/-! ### Events at rest (log entry 4, R16) -/

theorem house_of_idle {e : Env} {z : Zone} (hp : z.transfer.ordersP = []) (ho : z.transfer.ordersO = [])
    (hc : z.transfer.carriage = .idle) : house e z = z := by
  have ht : refreshTriggers e z = z := by
    have hp' : z.transfer.ordersP.map (Order.refreshed e z) = z.transfer.ordersP := by rw [hp]; rfl
    have ho' : z.transfer.ordersO.map (Order.refreshed e z) = z.transfer.ordersO := by rw [ho]; rfl
    rw [refreshTriggers, hp', ho']
  simp only [house, ht, hc, select, suspendedOrder, hp, ho, oldestReady, List.find?_nil]

/-- Nothing waits and nothing changes: the first look at the carriage is the last. -/
theorem settle_of_rest {e : Env} {z : Zone} (ha : z.agenda = []) (hh : house e z = z) (n : Nat) : settle e n z = z := by
  cases n with
  | zero => rfl
  | succ n => simp only [settle, ha, hh, if_true]

theorem finish_of_rest {e : Env} {z : Zone} (h : z.atRest e = true) : finish e z = z := by
  obtain ⟨⟨⟨⟨ha, hp⟩, ho⟩, hc⟩, hw⟩ : (((z.agenda = [] ∧ z.transfer.ordersP = []) ∧ z.transfer.ordersO = []) ∧
      z.transfer.carriage = .idle) ∧ refreshWatches e z = z := by
    simpa [Zone.atRest] using h
  unfold finish
  rw [settle_of_rest ha (house_of_idle hp ho hc), hw, ite_self]

/-- Settles O58: an event with nothing to serve ends, and the blocks' own commands act in ACTIVE only. -/
theorem eventsAtRestEnd : Obligations.EventsAtRestEnd := by
  unfold Obligations.EventsAtRestEnd
  refine ⟨fun s z hrest => ?_, fun c s hc hs => ?_⟩
  · by_cases ha : s.loader.station = .active
    · exact congrArg (fun z => ({ s with zone := z } : State))
        (finish_of_rest (e := ({ s with zone := z } : State).env) (hrest ha))
    · exact endEvent_of_inactive z ha
  · have idle : ∀ f, (.next (s.whenActive f) : Host.Outcome State Fault Refusal) = .next s :=
      fun f => congrArg _ (whenActive_idle hs f)
    cases c <;> simp only [activeOnly, Bool.false_eq_true] at hc <;> exact idle _

/-! ### The waste gate (R168, R172) -/

theorem exec_wasteGateChange (waste : Bool) (s : State) : exec (.wasteGateChange waste) s = .next (s.gateChanged waste) := rfl

/-- In JOINING and ACTIVE the image is there, as the make-up is read from it. -/
theorem hasPress_iff (s : State) : s.hasPress = true ↔ s.env.img.reels ≠ [] := by
  cases hi : s.loader.image <;> simp [State.hasPress, State.env, hi] <;> rfl

theorem gateGood_opens {sp : Spoilage} {e : Env}
    (h : sp.condition = .makeready ∨ sp.condition = .changeover ∨ (sp.condition = .broken ∧ breakActive e = false)) :
    sp.gateGood e = sp.setCondition .production := by
  unfold Spoilage.gateGood
  rcases h with h | h | ⟨h, hb⟩
  · rw [h]
  · rw [h]
  · rw [h]; exact if_neg (by simp [hb])

theorem gateGood_keeps {sp : Spoilage} {e : Env}
    (h : ¬ (sp.condition = .makeready ∨ sp.condition = .changeover ∨ (sp.condition = .broken ∧ breakActive e = false))) :
    sp.gateGood e = sp := by
  unfold Spoilage.gateGood
  cases hc : sp.condition <;> simp_all

theorem gateChanged_good {s : State} (hw : s.inputs.wasteGate = true) (hm : s.measures = true)
    (hp : s.env.img.reels ≠ []) :
    s.gateChanged false =
      let t := s.modInputs fun i => { i with wasteGate := false }
      { t with spoilage := s.spoilage.gateGood t.env } := by
  have hpress : (s.modInputs fun i => { i with wasteGate := false }).hasPress = true :=
    (hasPress_iff _).mpr hp
  have hmeas : (s.modInputs fun i => { i with wasteGate := false }).measures = true := hm
  simp only [State.gateChanged, hw, hmeas, hpress, Bool.not_false, Bool.and_self, if_true]
  rfl

/-- Settles O52: the change to good moves the condition; status and log follow it. -/
theorem wasteGateTaken : Obligations.WasteGateTaken := by
  unfold Obligations.WasteGateTaken
  intro waste s
  simp only
  refine ⟨fun ⟨hw, hg, hm, hp, hc⟩ => ?_, fun hn => ?_, fun sp k => ⟨rfl, rfl, rfl, rfl⟩⟩
  · subst hg
    rw [exec_wasteGateChange, gateChanged_good hw hm hp]
    have hgate := gateGood_opens (sp := s.spoilage) (e := (s.modInputs fun i => { i with wasteGate := false }).env) hc
    simp only [hgate]
    rfl
  · rw [exec_wasteGateChange]
    by_cases hopen : s.inputs.wasteGate = true ∧ waste = false ∧ s.measures = true ∧ s.env.img.reels ≠ []
    · obtain ⟨hw, rfl, hm, hp⟩ := hopen
      rw [gateChanged_good hw hm hp]
      have hgate := gateGood_keeps (sp := s.spoilage) (e := (s.modInputs fun i => { i with wasteGate := false }).env)
        fun hc => hn ⟨hw, rfl, hm, hp, hc⟩
      simp only [hgate]
      rfl
    · have hclosed : ¬ (s.inputs.wasteGate && !waste && (s.modInputs fun i => { i with wasteGate := waste }).measures &&
          (s.modInputs fun i => { i with wasteGate := waste }).hasPress) = true := by
        intro h
        simp only [Bool.and_eq_true, Bool.not_eq_true', hasPress_iff] at h
        obtain ⟨⟨⟨hw, hg⟩, hm⟩, hp⟩ := h
        exact hopen ⟨hw, hg, hm, hp⟩
      refine congrArg _ ?_
      simp only [State.gateChanged]
      exact if_neg hclosed

/-! ### SPLICE NOW (R145) -/

theorem exec_spliceNow {h : Header} {b : Byte} {s : State} (ht : s.takes h .spliceNow = true) :
    exec (.spliceNow h b) s = .next (s.endFrame h (s.answered h .spliceNow (spliceByHand s.env b.toNat s.heard).2
      (refByte b.toNat) (spliceByHand s.env b.toNat s.heard).1)) :=
  congrArg _ (hearBody_decide .spliceNow _ _ ht rfl (by simp [bodyKind, Kind.cls]))

theorem spliceState_of_splice {z : Zone} {r : Nat} {x : Splice} (hx : splice? z r = some x) :
    spliceState z r = some x.state := by
  simp [spliceState, hx]

theorem startAcceleration_eq (e : Env) (r : Nat) (z : Zone) : startAcceleration e r z =
    let z := modSplice r (fun s =>
      { s with accelerateOut := true, pasteFired := false, knifeFired := false, pasteDone := false, knifeDone := false,
               matchTimer := some (e.now + Config.matchTime), state := .accelerating }) z
    if (reelIns e r).speedMatched then enterMatched r z else z := rfl

theorem evalPaste_of_other {z : Zone} {r : Nat} (h : ∀ x, splice? z r = some x → x.state ≠ .matched) : evalPaste z r = z := by
  have hno : (splice? z r).any (·.state = .matched) = false := by
    cases hx : splice? z r with
    | none => rfl
    | some x => simpa using h x hx
  simp [evalPaste, hno]

theorem evalPaste_of_wanted {z : Zone} {r : Nat} {x : Splice} (hx : splice? z r = some x) (hs : x.state = .matched)
    (hp : pasteWanted z r = true) : evalPaste z r = modSplice r (fun s => { s with pasteArmed := true }) z := by
  simp [evalPaste, hx, hs, hp]

/-- Settles O31: by the splice state, with the manual splice pending or a start without its conditions. -/
theorem spliceNowDecided : Obligations.SpliceNowDecided := by
  unfold Obligations.SpliceNowDecided
  intro h b s ht
  simp only
  rw [exec_spliceNow ht]
  generalize s.heard = z
  generalize hr : b.toNat = r
  refine ⟨fun hx => ?_, fun x hx => ⟨fun hs hm => ?_, fun hs hm => ?_, fun hs => ?_, fun hs => ?_, fun hs => ?_⟩⟩
  · simp [spliceByHand, spliceState, hx]
  · simp only [spliceByHand, spliceState_of_splice hx, hs, startAcceleration_eq, hm, modSplice_modSplice,
      Bool.false_eq_true, if_false]
    rfl
  · simp only [spliceByHand, spliceState_of_splice hx, hs, startAcceleration_eq, hm, modSplice_modSplice, if_true]
    rfl
  · have hsame : evalPaste (modSplice r (fun s => { s with manual := true }) z) r =
        modSplice r (fun s => { s with manual := true }) z := by
      refine evalPaste_of_other fun y hy => ?_
      rw [splice?_modSplice, hx] at hy
      cases hy
      simp [hs]
    simp only [spliceByHand, spliceState_of_splice hx, hs, hsame]
    rfl
  · have hy : splice? (modSplice r (fun s => { s with manual := true }) z) r = some { x with manual := true } := by
      rw [splice?_modSplice, hx]; rfl
    have harm := evalPaste_of_wanted hy hs (by simp [pasteWanted, hy])
    simp only [spliceByHand, spliceState_of_splice hx, hs, harm, modSplice_modSplice]
    rfl
  · cases hst : x.state <;> simp [hst] at hs <;> simp [spliceByHand, spliceState_of_splice hx, hst]

/-! ### QUARANTINE SET and CLEAR (R64 to R66) -/

theorem exec_quarantineSet {h : Header} {k : Byte} {base limit : Serial} {s : State}
    (ht : s.takes h .quarantineSet = true) : exec (.quarantineSet h k base limit) s =
      let d := quarantineWritten k.toNat base limit s.heard
      .next (s.endFrame h (s.answered h .quarantineSet d.2.1 (refByte d.2.2) d.1)) :=
  congrArg _ (hearBody_within _ ht rfl (by simp [bodyKind, Kind.cls]))

theorem exec_quarantineClear {h : Header} {k : Byte} {s : State} (ht : s.takes h .quarantineClear = true) :
    exec (.quarantineClear h k) s =
      let d := quarantineCleared k.toNat s.heard
      .next (s.endFrame h (s.answered h .quarantineClear d.2 (refByte k.toNat) d.1)) :=
  congrArg _ (hearBody_decide .quarantineClear _ _ ht rfl (by simp [bodyKind, Kind.cls]))

/-- After a write only the slot written and the others cover a serial. -/
theorem quarantined_writeSlot {z : Zone} {j : Nat} {slot : Slot} {x : Serial} (hs : z.stock.slots.sorted = true)
    (hj : slot.covers x = false) (ho : ∀ y ∈ z.stock.slots, y.1 ≠ j → y.2.covers x = false) :
    quarantined (writeSlot j slot z) x = false := by
  have hnone : (z.stock.slots.set j slot).any (fun y => y.2.covers x) = false := by
    rw [List.any_eq_false]
    rintro ⟨k, v⟩ hm
    have hk := Tbl.get?_of_mem (Tbl.sorted_set _ j slot hs) hm
    rw [Tbl.get?_set] at hk
    by_cases hkj : k = j
    · rw [if_pos hkj] at hk
      cases hk
      simp [hj]
    · rw [if_neg hkj] at hk
      simpa using ho _ (Tbl.mem_of_get? hk) hkj
  simp only [quarantined, writeSlot, Zone.push, hnone, Bool.and_false]

/-- Settles O29: the checks in their order, the slot written or cleared. -/
theorem quarantineDecided : Obligations.QuarantineDecided := by
  unfold Obligations.QuarantineDecided
  refine ⟨fun h k base limit s ht => ?_, fun h k s ht => ?_⟩
  · simp only
    rw [exec_quarantineSet ht]
    generalize s.heard = z
    have hlots : (base &&& 0xFFFFFF00#32).toNat ≤ (limit &&& 0xFFFFFF00#32).toNat ↔
        ¬ (lotFirst limit).toNat < (lotFirst base).toNat := Nat.not_lt.symm
    have pass : ∀ {a : Nat}, a ≤ 4 → (base &&& 0xFFFFFF00#32).toNat ≤ (limit &&& 0xFFFFFF00#32).toNat →
        ¬ (4 < a ∨ (lotFirst limit).toNat < (lotFirst base).toNat) := fun ha hl hc =>
      hc.elim (by omega) (hlots.mp hl)
    refine ⟨fun hc => ?_, fun hk hl hf => ?_, fun j hk hl hf => ?_, fun x h1 h4 hl hx ho => ?_, fun h1 h4 hl ho => ?_,
      fun j x hs hj hy => quarantined_writeSlot hs hj hy⟩
    · rw [hlots, not_not] at hc
      simp only [quarantineWritten, if_pos hc]
    · have h0 : k.toNat = 0 := by rw [hk]; rfl
      simp only [quarantineWritten, h0, if_neg (pass (a := 0) (by omega) hl), hf]
      rfl
    · have h0 : k.toNat = 0 := by rw [hk]; rfl
      simp only [quarantineWritten, h0, if_neg (pass (a := 0) (by omega) hl), hf]
      rfl
    · simp only [quarantineWritten, if_neg (pass h4 hl), if_neg (show ¬ k.toNat = 0 by omega), hx, Option.any_some, ho,
        decide_true, if_true]
    · have hno : (z.stock.slots.get? k.toNat).any (fun x => x.origin = .image) = false := by
        cases hx : z.stock.slots.get? k.toNat with
        | none => rfl
        | some x => simpa using ho x hx
      simp only [quarantineWritten, if_neg (pass h4 hl), if_neg (show ¬ k.toNat = 0 by omega), hno, Bool.false_eq_true,
        if_false]
      rfl
  · simp only
    rw [exec_quarantineClear ht]
    generalize s.heard = z
    refine ⟨fun hc => ?_, fun x h1 h4 hx ho => ?_, fun h1 h4 hx => ?_, fun x h1 h4 hx ho => ?_⟩
    · have hc' : k.toNat = 0 ∨ 4 < k.toNat := hc.imp (fun h => by rw [h]; rfl) id
      simp only [quarantineCleared, if_pos hc']
    · simp only [quarantineCleared, if_neg (show ¬ (k.toNat = 0 ∨ 4 < k.toNat) by omega), hx, ho, if_true]
    · simp only [quarantineCleared, if_neg (show ¬ (k.toNat = 0 ∨ 4 < k.toNat) by omega), hx]
    · simp only [quarantineCleared, if_neg (show ¬ (k.toNat = 0 ∨ 4 < k.toNat) by omega), hx, ho, if_false]
      rfl

end Sys2Proof.Machine

/-! PROOF. What an offered frame and a raised fault leave alone, field by field; O36 (PRESS STATE; R110, R167, R171, R172), O53
(the copy pulse; R158 to R161, R174), O54 (copies counted; R169, R170, R172) and O55 (marks and accounts; R154 to R162). -/

namespace Sys2Proof.Machine

/-! ### What an offered frame and a raised fault leave alone -/

@[simp] theorem offer_track (e : Env) (f : TxFrame) (z : Zone) : (offer e f z).track = z.track :=
  (congrArg Zone.track (show offer e f z = _ from offer_lineAndCalls e f z)).trans rfl

@[simp] theorem offer_stock (e : Env) (f : TxFrame) (z : Zone) : (offer e f z).stock = z.stock :=
  (congrArg Zone.stock (show offer e f z = _ from offer_lineAndCalls e f z)).trans rfl

@[simp] theorem offer_transfer (e : Env) (f : TxFrame) (z : Zone) : (offer e f z).transfer = z.transfer :=
  (congrArg Zone.transfer (show offer e f z = _ from offer_lineAndCalls e f z)).trans rfl

@[simp] theorem offer_reels (e : Env) (f : TxFrame) (z : Zone) : (offer e f z).reels = z.reels :=
  (congrArg Zone.reels (show offer e f z = _ from offer_lineAndCalls e f z)).trans rfl

@[simp] theorem offer_splice (e : Env) (f : TxFrame) (z : Zone) : (offer e f z).splice = z.splice :=
  (congrArg Zone.splice (show offer e f z = _ from offer_lineAndCalls e f z)).trans rfl

@[simp] theorem offer_folder (e : Env) (f : TxFrame) (z : Zone) : (offer e f z).folder = z.folder :=
  (congrArg Zone.folder (show offer e f z = _ from offer_lineAndCalls e f z)).trans rfl

@[simp] theorem offer_faults (e : Env) (f : TxFrame) (z : Zone) : (offer e f z).faults = z.faults :=
  (congrArg Zone.faults (show offer e f z = _ from offer_lineAndCalls e f z)).trans rfl

@[simp] theorem offer_agenda (e : Env) (f : TxFrame) (z : Zone) : (offer e f z).agenda = z.agenda :=
  (congrArg Zone.agenda (show offer e f z = _ from offer_lineAndCalls e f z)).trans rfl

@[simp] theorem recordAndReport_track (e : Env) (o : Occurrence) (n : Nat) (z : Zone) :
    (recordAndReport e o n z).track = z.track :=
  (congrArg Zone.track (show recordAndReport e o n z = _ from recordAndReport_frame e o n z)).trans rfl

@[simp] theorem raise_track (e : Env) (code : FaultCode) (context : List CtxElem) (z : Zone) :
    (raise e code context z).track = z.track :=
  recordAndReport_track e _ 1 z

@[simp] theorem recordAndReport_stock (e : Env) (o : Occurrence) (n : Nat) (z : Zone) :
    (recordAndReport e o n z).stock = z.stock :=
  (congrArg Zone.stock (show recordAndReport e o n z = _ from recordAndReport_frame e o n z)).trans rfl

@[simp] theorem raise_stock (e : Env) (code : FaultCode) (context : List CtxElem) (z : Zone) :
    (raise e code context z).stock = z.stock :=
  recordAndReport_stock e _ 1 z

@[simp] theorem recordAndReport_transfer (e : Env) (o : Occurrence) (n : Nat) (z : Zone) :
    (recordAndReport e o n z).transfer = z.transfer :=
  (congrArg Zone.transfer (show recordAndReport e o n z = _ from recordAndReport_frame e o n z)).trans rfl

@[simp] theorem raise_transfer (e : Env) (code : FaultCode) (context : List CtxElem) (z : Zone) :
    (raise e code context z).transfer = z.transfer :=
  recordAndReport_transfer e _ 1 z

@[simp] theorem recordAndReport_reels (e : Env) (o : Occurrence) (n : Nat) (z : Zone) :
    (recordAndReport e o n z).reels = z.reels :=
  (congrArg Zone.reels (show recordAndReport e o n z = _ from recordAndReport_frame e o n z)).trans rfl

@[simp] theorem raise_reels (e : Env) (code : FaultCode) (context : List CtxElem) (z : Zone) :
    (raise e code context z).reels = z.reels :=
  recordAndReport_reels e _ 1 z

@[simp] theorem recordAndReport_splice (e : Env) (o : Occurrence) (n : Nat) (z : Zone) :
    (recordAndReport e o n z).splice = z.splice :=
  (congrArg Zone.splice (show recordAndReport e o n z = _ from recordAndReport_frame e o n z)).trans rfl

@[simp] theorem raise_splice (e : Env) (code : FaultCode) (context : List CtxElem) (z : Zone) :
    (raise e code context z).splice = z.splice :=
  recordAndReport_splice e _ 1 z

@[simp] theorem recordAndReport_folder (e : Env) (o : Occurrence) (n : Nat) (z : Zone) :
    (recordAndReport e o n z).folder = z.folder :=
  (congrArg Zone.folder (show recordAndReport e o n z = _ from recordAndReport_frame e o n z)).trans rfl

@[simp] theorem raise_folder (e : Env) (code : FaultCode) (context : List CtxElem) (z : Zone) :
    (raise e code context z).folder = z.folder :=
  recordAndReport_folder e _ 1 z

@[simp] theorem recordAndReport_agenda (e : Env) (o : Occurrence) (n : Nat) (z : Zone) :
    (recordAndReport e o n z).agenda = z.agenda :=
  (congrArg Zone.agenda (show recordAndReport e o n z = _ from recordAndReport_frame e o n z)).trans rfl

@[simp] theorem raise_agenda (e : Env) (code : FaultCode) (context : List CtxElem) (z : Zone) :
    (raise e code context z).agenda = z.agenda :=
  recordAndReport_agenda e _ 1 z

/-! ### PRESS STATE (R110, R167, R171, R172) -/

theorem exec_runStart {h : Header} {run edition : BitVec 16} {s : State} (ht : s.takes h .pressState = true) :
    exec (.runStart h run edition) s =
      .next (({ s with spoilage := s.spoilage.runStart run.toNat edition.toNat } : State).endFrame h s.heard) :=
  congrArg _ (hearBody_of_takes _ ht rfl (by simp [bodyKind, Kind.cls]))

theorem exec_editionChange {h : Header} {edition : BitVec 16} {s : State} (ht : s.takes h .pressState = true) :
    exec (.editionChange h edition) s =
      .next (({ s with spoilage := s.spoilage.editionChange edition.toNat } : State).endFrame h s.heard) :=
  congrArg _ (hearBody_of_takes _ ht rfl (by simp [bodyKind, Kind.cls]))

theorem exec_runEnd {h : Header} {s : State} (ht : s.takes h .pressState = true) :
    exec (.runEnd h) s = .next (((takeRunEnd s.heardState).aliveFrom h.sender).settled) :=
  congrArg _ (hearBody_of_takes _ ht rfl (by simp [bodyKind, Kind.cls]))

theorem foldl_push (l : List Task) (z : Zone) :
    l.foldl (fun z t => z.push t) z = { z with agenda := z.agenda ++ l } := by
  induction l generalizing z with
  | nil => simp
  | cons t l ih =>
    rw [List.foldl_cons, ih]
    simp [Zone.push]

/-- Every RUNOUT call is asked to be withdrawn, in table order. -/
theorem withdrawRunouts_eq (z : Zone) : withdrawRunouts z = { z with agenda := (z.agenda ++
    (z.supply.calls.filter fun x => x.2.need = .runout x.1).map fun x => Task.withdrawCall x.2.need) } := by
  rw [withdrawRunouts, ← foldl_push, List.foldl_map]

/-- The status bits of a run that is opened, and the log bits they set on the way. -/
theorem runStart_eq (sp : Spoilage) (run edition : Nat) : sp.runStart run edition = { sp with
    condition := .makeready, run := ⟨run, 1, Counts.zero, 0⟩, edition := ⟨edition, Counts.zero⟩
    lastRun := if sp.condition = .idle then sp.lastRun else sp.run, windowCopies := 0, windowWaste := 0
    status := { sp.status with makeready := true, breaks := false, changeover := false, rateHigh := false }
    log := sp.log.union { sp.status with makeready := true, rateHigh := false } } := by
  by_cases hc : sp.condition = .idle
  · simp only [Spoilage.runStart, PressCondition.running, hc, ne_eq, not_true_eq_false, decide_false, Bool.false_eq_true,
      if_false, if_true, Spoilage.openRun, Spoilage.discardWindow, Spoilage.setRateHigh, Spoilage.setCondition,
      Spoilage.setStatus, Causes.forCondition, Causes.union, Spoilage.mk.injEq, Causes.mk.injEq]
    simp
  · simp only [Spoilage.runStart, PressCondition.running, hc, ne_eq, not_false_eq_true, decide_true,
      if_false, if_true, Spoilage.openRun, Spoilage.closeRun, Spoilage.discardWindow, Spoilage.setRateHigh,
      Spoilage.setCondition, Spoilage.setStatus, Causes.forCondition, Causes.union, Spoilage.mk.injEq, Causes.mk.injEq]
    simp

theorem runEnd_eq {sp : Spoilage} (hc : sp.condition ≠ .idle) : sp.runEnd = { sp with
    condition := .idle, lastRun := sp.run, windowCopies := 0, windowWaste := 0, status := Causes.clear
    log := sp.log.union { sp.status with rateHigh := false } } := by
  simp only [Spoilage.runEnd, PressCondition.running, hc, ne_eq, not_false_eq_true, decide_true,
    if_true, Spoilage.closeRun, Spoilage.discardWindow, Spoilage.setRateHigh,
    Spoilage.setCondition, Spoilage.setStatus, Causes.forCondition, Causes.union, Causes.clear, Spoilage.mk.injEq,
    Causes.mk.injEq]
  simp

theorem editionChange_eq {sp : Spoilage} (hi : sp.condition ≠ .idle) (hb : sp.condition ≠ .broken) (edition : Nat) :
    sp.editionChange edition = (sp.openEdition edition).setCondition .changeover := by
  unfold Spoilage.editionChange
  cases hc : sp.condition <;> simp_all

/-- Settles O36: the records, the condition and the bits of RUN START, EDITION CHANGE and RUN END. -/
theorem pressStateTaken : Obligations.PressStateTaken := by
  unfold Obligations.PressStateTaken
  intro h run edition s ht
  simp only
  refine ⟨?_, fun hi => ⟨?_, ?_⟩, fun hi => ⟨fun hb => ?_, fun hb => ?_, ?_⟩⟩
  · rw [exec_runStart ht, runStart_eq]
  · have he : s.spoilage.editionChange edition.toNat = s.spoilage := by rw [Spoilage.editionChange, hi]
    rw [exec_editionChange ht, he]
  · have he : takeRunEnd s.heardState = s.heardState := if_neg (by simp [PressCondition.running, hi])
    rw [exec_runEnd ht, he]
    rfl
  · have he : s.spoilage.editionChange edition.toNat = s.spoilage.openEdition edition.toNat := by
      rw [Spoilage.editionChange, hb]
    rw [exec_editionChange ht, he]
    rfl
  · rw [exec_editionChange ht, editionChange_eq hi hb]
    simp [Spoilage.openEdition, Spoilage.setCondition, Spoilage.setStatus, Causes.forCondition, satAdd, Config.max32]
  · have he : takeRunEnd s.heardState =
        ({ s.heardState with spoilage := s.spoilage.runEnd } : State).within fun _ z => withdrawRunouts z :=
      if_pos (by simp [PressCondition.running, hi])
    rw [exec_runEnd ht, he, runEnd_eq hi]
    simp only [State.within, withdrawRunouts_eq]
    rfl

/-! ### Copies counted (R169, R170, R172) -/

/-- A length below a whole metre and its metres carry at 1,000 mm, as long as the metres do not stop at their maximum. -/
theorem metres_add {x : Metres} {mm : Nat} (h : x.m + (x.rest + mm) / 1000 ≤ 4294967295) :
    (x.add mm).rest < 1000 ∧ (x.add mm).m * 1000 + (x.add mm).rest = x.m * 1000 + x.rest + mm := by
  have hm : (x.add mm).m = x.m + (x.rest + mm) / 1000 := Nat.min_eq_right h
  have hr : (x.add mm).rest = (x.rest + mm) % 1000 := rfl
  omega

/-- One write for each of several webs, each number once. -/
theorem get?_foldl_set {f : Metres → Metres} {webs : List Nat} (hn : webs.Nodup) (t : Tbl Metres) (r : Nat) :
    (webs.foldl (fun t r => t.set r (f ((t.get? r).getD ⟨0, 0⟩))) t).get? r =
      if r ∈ webs then some (f ((t.get? r).getD ⟨0, 0⟩)) else t.get? r := by
  induction webs generalizing t with
  | nil => simp
  | cons a webs ih =>
    obtain ⟨hna, hn⟩ := List.nodup_cons.mp hn
    rw [List.foldl_cons, ih hn, Tbl.get?_set]
    by_cases hr : r = a
    · subst hr
      simp [hna]
    · simp [hr]

theorem addCopy_webWaste (c : Counts) (k : Category) (overlap : Bool) (cutoff : Nat) (webs : List Nat) :
    (c.addCopy k overlap cutoff webs).webWaste = if k.isWaste then
      webs.foldl (fun t r => t.set r (((t.get? r).getD ⟨0, 0⟩).add cutoff)) c.webWaste else c.webWaste := by
  cases k <;> cases overlap <;> rfl

theorem addCopy_sheet (c : Counts) (k : Category) (overlap : Bool) (cutoff : Nat) (webs : List Nat) :
    (c.addCopy k overlap cutoff webs).sheet = c.sheet.add (cutoff * webs.length) := by
  cases k <;> cases overlap <;> rfl

theorem addCopy_overlap (c : Counts) (k : Category) (overlap : Bool) (cutoff : Nat) (webs : List Nat) :
    (c.addCopy k overlap cutoff webs).overlap = if overlap then min 4294967295 (c.overlap + 1) else c.overlap := by
  cases k <;> cases overlap <;> rfl

/-- Each category has its own count. -/
theorem addCopy_categories (c : Counts) (k : Category) (overlap : Bool) (cutoff : Nat) (webs : List Nat) :
    let new := c.addCopy k overlap cutoff webs
    new.good = (if k = .good then min 4294967295 (c.good + 1) else c.good) ∧
      new.makeready = (if k = .makeready then min 4294967295 (c.makeready + 1) else c.makeready) ∧
      new.splice = (if k = .splice then min 4294967295 (c.splice + 1) else c.splice) ∧
      new.breaks = (if k = .broken then min 4294967295 (c.breaks + 1) else c.breaks) ∧
      new.changeover = (if k = .changeover then min 4294967295 (c.changeover + 1) else c.changeover) ∧
      new.running = (if k = .running then min 4294967295 (c.running + 1) else c.running) := by
  cases k <;> cases overlap <;> exact ⟨rfl, rfl, rfl, rfl, rfl, rfl⟩

theorem isWaste_iff {k : Category} (h : k ≠ .idle) : k.isWaste = true ↔ k ≠ .good := by
  cases k <;> simp_all [Category.isWaste]

/-- A copy of a run category reaches the edition and run counts, the window and the status bits. -/
theorem countCopy_run {k : Category} (h : k ≠ .idle) (s : Spoilage) (overlap : Bool) (cutoff : Nat) (webs : List Nat) :
    s.countCopy k overlap cutoff webs =
      let t := s.setStatus (s.status.forCopy k)
      { t with edition := { s.edition with counts := s.edition.counts.addCopy k overlap cutoff webs }
               run := { s.run with counts := s.run.counts.addCopy k overlap cutoff webs }
               windowCopies := s.windowCopies + 1
               windowWaste := s.windowWaste + (if k.isWaste then 1 else 0) } :=
  if_neg h

/-- Settles O54: the category of a copy and what it counts. -/
theorem copiesCounted : Obligations.CopiesCounted := by
  unfold Obligations.CopiesCounted
  refine ⟨fun c window waste => ?_, fun s overlap cutoff webs => rfl, fun s k overlap cutoff webs hk => ?_⟩
  · cases c <;> cases window <;> cases waste <;> simp [category]
  · simp only
    rw [countCopy_run hk]
    have hw : (if k.isWaste then 1 else 0) = (if k = .good then 0 else 1) := by
      by_cases hg : k = .good
      · rw [hg]; rfl
      · rw [if_pos ((isWaste_iff hk).mpr hg), if_neg hg]
    refine ⟨rfl, rfl, rfl, rfl, rfl, rfl, rfl, rfl, rfl, congrArg _ hw, rfl, fun old new hon => ?_⟩
    have hnew : new = old.addCopy k overlap cutoff webs := by
      rcases hon with ⟨ho, hn⟩ | ⟨ho, hn⟩
      · rw [hn, ho]
      · rw [hn, ho]
    subst hnew
    obtain ⟨hgood, hmake, hsplice, hbreaks, hchange, hrun⟩ := addCopy_categories old k overlap cutoff webs
    refine ⟨hgood, hmake, hsplice, hbreaks, hchange, hrun, addCopy_overlap .., fun _ hm => ?_, fun hnw => ?_,
      fun hwst hnd r => ?_⟩
    · rw [addCopy_sheet]
      exact metres_add hm
    · rw [addCopy_webWaste, if_neg (by rw [isWaste_iff hk]; exact hnw)]
    · rw [addCopy_webWaste, if_pos ((isWaste_iff hk).mpr hwst), get?_foldl_set (f := (·.add cutoff)) hnd]

/-! ### Marks and accounts (R154 to R162) -/

theorem web?_modWeb (r : Nat) (f : WebPath → WebPath) (z : Zone) : web? (modWeb r f z) r = (web? z r).map f := by
  simp [web?, modWeb, Tbl.get?_modify]

/-- A change of a web record that is known. -/
theorem modWeb_congr {r : Nat} {z : Zone} {w : WebPath} (hw : web? z r = some w) {f g : WebPath → WebPath}
    (h : f w = g w) : modWeb r f z = modWeb r g z := by
  have : z.folder.webs.modify r f = z.folder.webs.modify r g :=
    Tbl.modify_congr _ _ _ _ fun v hv => by cases hw.symm.trans hv; exact h
  simp only [modWeb, this]

/-- Of the web records a disposal reaches the unattributed waste alone. -/
theorem web?_dispose {e : Env} {r : Nat} {f : Serial} {m : Nat} {z : Zone} {w : WebPath} (hw : web? z r = some w) :
    ∃ u, web? (dispose e r f m z) r = some { w with unattributed := u } := by
  unfold dispose
  split
  · exact ⟨_, hw⟩
  · exact ⟨_, by rw [web?_modWeb, hw]; rfl⟩
  · split
    · exact ⟨_, hw⟩
    · exact ⟨_, hw⟩
  · exact ⟨_, by rw [web?, offer_folder]; exact hw⟩

theorem closeAccount_of_folder {e : Env} {r : Nat} {z : Zone} {w : WebPath} {f : Serial} (hw : web? z r = some w)
    (hf : w.folderRoll = some f) : closeAccount e r z =
      let m := w.wasteLength / 1000
      modWeb r (fun x => { x with lastClosed := some ⟨f, m, w.wasteCopies, disposalOf z f m⟩ }) (dispose e r f m z) := by
  simp only [closeAccount, hw, hf]

theorem closeAccount_of_none {e : Env} {r : Nat} {z : Zone} {w : WebPath} (hw : web? z r = some w)
    (hf : w.folderRoll = none) : closeAccount e r z = z := by
  simp only [closeAccount, hw, hf]

/-- What closing an account leaves of the web record. -/
theorem web?_closeAccount {e : Env} {r : Nat} {z : Zone} {w : WebPath} (hw : web? z r = some w) :
    ∃ u c, web? (closeAccount e r z) r = some { w with unattributed := u, lastClosed := c } ∧
      ∀ f, w.folderRoll = some f →
        c = some ⟨f, w.wasteLength / 1000, w.wasteCopies, disposalOf z f (w.wasteLength / 1000)⟩ := by
  cases hf : w.folderRoll with
  | none => exact ⟨w.unattributed, w.lastClosed, by rw [closeAccount_of_none hw hf, hw, ← hf], nofun⟩
  | some f =>
    obtain ⟨u, hu⟩ := web?_dispose (e := e) (f := f) (m := w.wasteLength / 1000) hw
    refine ⟨u, some ⟨f, w.wasteLength / 1000, w.wasteCopies, disposalOf z f (w.wasteLength / 1000)⟩, ?_, ?_⟩
    · rw [closeAccount_of_folder hw hf]
      simp only
      rw [web?_modWeb, hu, ← hf]
      rfl
    · rintro f' ⟨⟩
      rfl

theorem arriveAt_of_arriving {e : Env} {r : Nat} {z : Zone} {w : WebPath} {m : Mark} (hw : web? z r = some w)
    (hm : arrivingMark e r w = some m) : arriveAt e r z = modWeb r (fun w => w.arrived m e.img.ejectCount)
      (closeAccount e r (modWeb r (fun w => { w with marks := w.marks.tail }) z)) := by
  simp only [arriveAt, hw, hm]

theorem arriveAt_of_none {e : Env} {r : Nat} {z : Zone} {w : WebPath} (hw : web? z r = some w)
    (hm : arrivingMark e r w = none) : arriveAt e r z = z := by
  simp only [arriveAt, hw, hm]

theorem arrivingMark_cons {e : Env} {r : Nat} {w : WebPath} {m : Mark} {rest : List Mark} {c : ReelCfg}
    (hm : w.marks = m :: rest) (hc : e.img.reel? r = some c) :
    arrivingMark e r w = if c.path ≤ (webCounter e r - m.position).toNat then some m else none := by
  simp only [arrivingMark, hm, hc]

theorem disposalOf_none (z : Zone) (f : Serial) : disposalOf z f 0 = .none := rfl

theorem disposalOf_unattributed (z : Zone) {m : Nat} (hm : m ≠ 0) : disposalOf z 0 m = .unattributed := by
  rw [disposalOf, if_neg hm, if_pos rfl]

theorem disposalOf_own {z : Zone} {f : Serial} {m : Nat} (hm : m ≠ 0) (hf : f ≠ 0) (ho : ownPlace z f ≠ none) :
    disposalOf z f m = .own := by
  rw [disposalOf, if_neg hm, if_neg hf, if_pos (Option.isSome_iff_ne_none.mpr ho)]

theorem disposalOf_line {z : Zone} {f : Serial} {m : Nat} (hm : m ≠ 0) (hf : f ≠ 0) (ho : ownPlace z f = none) :
    disposalOf z f m = .line := by
  rw [disposalOf, if_neg hm, if_neg hf, if_neg (by simp [ho])]

theorem getLast?_append_one {α : Type} (l : List α) (a : α) : (l ++ [a]).getLast? = some a := by simp

/-- Settles O55: an arrival, the account it closes, and how marks come onto the path. -/
theorem markArrivesAndAccountCloses : Obligations.MarkArrivesAndAccountCloses := by
  unfold Obligations.MarkArrivesAndAccountCloses
  refine ⟨fun e r z w c hw hc => ?_, fun e r z w f hw hf => ?_, ⟨fun w m => ?_, fun e r s z w hw => ?_⟩,
    fun z folder metres => ?_⟩
  · have hw' : web? z r = some w := hw
    refine ⟨fun hm => arriveAt_of_none hw' (by simp only [arrivingMark, hm]), fun m rest hm => ⟨fun hnear => ?_, fun hfar => ?_⟩⟩
    · exact arriveAt_of_none hw' ((arrivingMark_cons hm hc).trans (if_neg (Nat.not_le.mpr hnear)))
    · rw [arriveAt_of_arriving hw' ((arrivingMark_cons hm hc).trans (if_pos hfar))]
      have htail : web? (modWeb r (fun w => { w with marks := w.marks.tail }) z) r = some { w with marks := rest } := by
        rw [web?_modWeb, hw', Option.map_some, hm]
        rfl
      obtain ⟨u, c', hclosed, hacct⟩ := web?_closeAccount (e := e) htail
      have harr := web?_modWeb r (fun w => w.arrived m e.img.ejectCount)
        (closeAccount e r (modWeb r (fun w => { w with marks := w.marks.tail }) z))
      rw [hclosed] at harr
      unfold web? at harr
      rw [harr]
      exact ⟨rfl, fun f hf => hacct f hf⟩
  · have hw' : web? z r = some w := hw
    simp only
    rw [closeAccount_of_folder hw' hf]
    refine ⟨fun hm => ?_, fun hm hf0 => ?_, fun k y hm hf0 hy hp => ?_, fun hm hf0 ho => ?_⟩
    · simp only [hm, dispose, disposalOf_none]
    · subst hf0
      simp only [dispose, disposalOf_unattributed z hm]
      rfl
    · have ho : ownPlace z f = some k := by simp [ownPlace, hy, hp]
      simp only [dispose, disposalOf_own (z := z) hm hf0 (by simp [ho]), ho]
      rfl
    · have ho' : ownPlace z f = none := by
        rcases ho with ho | ⟨k, y, hy, hp⟩
        · simp [ownPlace, ho]
        · simp [ownPlace, hy, hp]
      simp only [dispose, disposalOf_line hm hf0 ho']
      rfl
  · have hfits : (w.marks.length < 4 ∧ ∀ front tail, w.marks = front ++ [tail] →
        1 ≤ (m.position - tail.position).toNat ∧ (m.position - tail.position).toNat < 2 ^ 39) ↔
        (w.marks.length < Config.pathMarks ∧ w.marks.getLast?.all (fun t => positionAfter m.position t.position) = true) := by
      refine and_congr Iff.rfl ⟨fun h => ?_, fun h front tail ht => ?_⟩
      · rcases List.eq_nil_or_concat w.marks with hn | ⟨front, tail, ht⟩
        · rw [hn]; rfl
        · rw [List.concat_eq_append] at ht
          rw [ht, getLast?_append_one]
          simpa [positionAfter] using h front tail ht
      · rw [ht, getLast?_append_one] at h
        simpa [positionAfter] using h
    simp only
    rw [hfits]
    exact ⟨fun h => if_pos h, fun h => if_neg h⟩
  · have hw' : web? z r = some w := hw
    refine ⟨fun hf => ?_, fun f hf hm => ?_, fun f front tail hf hm => ?_⟩
    · exact modWeb_congr (g := fun _ => _) hw' (by simp only [WebPath.threaded, hf])
    · refine modWeb_congr (g := fun _ => _) hw' ?_
      simp only [WebPath.threaded, hf, WebPath.latest, hm]
      rfl
    · refine modWeb_congr (g := fun _ => _) hw' ?_
      simp only [WebPath.threaded, hf, WebPath.latest, hm, getLast?_append_one]
      rfl
  · exact ⟨fun h => by rw [h, disposalOf_none], fun hm hf => by rw [hf, disposalOf_unattributed z hm],
      fun hm hf ho => disposalOf_own hm hf ho, fun hm hf ho => disposalOf_line hm hf ho⟩

/-! ### The copy pulse (R158 to R161, R174) -/

theorem exec_folderCopyPulse (s : State) : exec .folderCopyPulse s = .next s.copyTaken := rfl

theorem exec_rateWindowEnd (s : State) : exec .rateWindowEnd s = .next s.rateWindowEnded := rfl

theorem webActive_iff (e : Env) (z : Zone) (r : Nat) : webActive e z r = true ↔
    (∃ c, e.img.reel? r = some c ∧ c.webInUse = true) ∧ (∃ w, z.splice.stands.get? r = some w ∧ w.state ≠ .empty) ∧
      ∃ w, z.folder.webs.get? r = some w ∧ w.folderRoll ≠ none := by
  simp only [webActive, splice?, web?, Bool.and_eq_true, Option.any_eq_true, decide_eq_true_eq, ne_eq,
    Option.isSome_iff_ne_none, and_assoc]

/-- A web is active by what a charge does not touch. -/
theorem webActive_charge (e : Env) (z : Zone) (r j cutoff : Nat) :
    webActive e (modWeb j (fun w => w.charge cutoff) z) r = webActive e z r := by
  have hroll : (web? (modWeb j (fun w => w.charge cutoff) z) r).any (fun w => w.folderRoll.isSome) =
      (web? z r).any fun w => w.folderRoll.isSome := by
    simp only [web?, modWeb, Tbl.get?_modify]
    split
    · cases z.folder.webs.get? r <;> rfl
    · rfl
  simp only [webActive, hroll]
  rfl

/-- Charging the webs of a list, each number once: the active ones of the list, and nothing else. -/
theorem foldl_charge (e : Env) {l : List Nat} (hl : l.Nodup) (z : Zone) :
    let t := l.foldl (fun z r => if webActive e z r then modWeb r (fun w => w.charge e.img.cutoff) z else z) z
    (∀ r, t.folder.webs.get? r =
      if r ∈ l ∧ webActive e z r = true then (z.folder.webs.get? r).map (·.charge e.img.cutoff)
      else z.folder.webs.get? r) ∧
    t = { z with folder := { z.folder with webs := t.folder.webs } } := by
  induction l generalizing z with
  | nil => exact ⟨fun r => by simp, rfl⟩
  | cons a l ih =>
    obtain ⟨hna, hn⟩ := List.nodup_cons.mp hl
    simp only [List.foldl_cons]
    by_cases ha : webActive e z a = true
    · rw [if_pos ha]
      obtain ⟨hget, hrest⟩ := ih hn (modWeb a (fun w => w.charge e.img.cutoff) z)
      refine ⟨fun r => ?_, hrest⟩
      rw [hget r, webActive_charge]
      simp only [modWeb, Tbl.get?_modify, List.mem_cons]
      by_cases hr : r = a
      · subst hr
        simp [hna, ha]
      · simp [hr]
    · rw [if_neg ha]
      obtain ⟨hget, hrest⟩ := ih hn z
      refine ⟨fun r => ?_, hrest⟩
      rw [hget r]
      by_cases hr : r = a
      · subst hr
        simp [ha]
      · simp [hr]

theorem reel_mem_upTo {i : Image} {r : Nat} {c : ReelCfg} (h : i.reel? r = some c) : r ∈ upTo i.reels.length := by
  unfold Image.reel? nth at h
  cases r with
  | zero => cases h
  | succ k =>
    have := List.getElem?_eq_some_iff.mp h
    obtain ⟨hk, -⟩ := this
    exact mem_upTo.mpr ⟨by omega, by omega⟩

theorem get?_copyCharge (e : Env) (z : Zone) (r : Nat) : (copyCharge e z).folder.webs.get? r =
    if webActive e z r then (z.folder.webs.get? r).map (·.charge e.img.cutoff) else z.folder.webs.get? r := by
  obtain ⟨hget, -⟩ := foldl_charge e (nodup_upTo e.img.reels.length) z
  refine (hget r).trans ?_
  by_cases ha : webActive e z r = true
  · obtain ⟨⟨c, hc, -⟩, -⟩ := (webActive_iff e z r).mp ha
    rw [if_pos ha, if_pos ⟨reel_mem_upTo hc, ha⟩]
  · rw [if_neg ha, if_neg fun h => ha h.2]

theorem copyTaken_of_press {s : State} (hm : s.measures = true) (hp : s.env.img.reels ≠ []) :
    s.copyTaken = let d := copyPulse s.env s.spoilage s.zone
      ({ s with spoilage := d.1 } : State).endEvent d.2 :=
  if_pos (by simp [hm, hasPress_iff, hp])

theorem rateWindowEnded_of_press {s : State} (hm : s.measures = true) (hp : s.env.img.reels ≠ []) :
    s.rateWindowEnded = if windowDue s.env.img s.spoilage then
      ({ s with spoilage := s.spoilage.endWindow s.env.img } : State).endEvent (raiseRateHigh s.env s.spoilage s.zone)
      else s := by
  have hpress := (hasPress_iff s).mpr hp
  simp only [State.rateWindowEnded, hm, hpress, Bool.true_and]
  rfl

theorem windowDue_iff (i : Image) (s : Spoilage) :
    windowDue i s = true ↔ (4 + i.rateX) * 2 ^ i.rateY / 4 ≤ s.windowCopies := decide_eq_true_iff

theorem windowDue_of_short {i : Image} {s : Spoilage} (h : s.windowCopies < (4 + i.rateX) * 2 ^ i.rateY / 4) :
    ¬ windowDue i s = true := fun hd => absurd ((windowDue_iff i s).mp hd) (Nat.not_le.mpr h)

/-- The category of the copy of a pulse, and the counters with that copy counted. -/
def pulseCategory (e : Env) (s : Spoilage) (z : Zone) : Category :=
  category s.condition (windowOpen (copyArrivals e z)) e.inputs.wasteGate

def pulseCounted (e : Env) (s : Spoilage) (z : Zone) : Spoilage :=
  s.countCopy (pulseCategory e s z) (decide (2 ≤ ((copyArrivals e z).folder.webs.filter fun w => 0 < w.2.window).length))
    e.img.cutoff ((reelNumbers e).filter (webActive e (copyArrivals e z)))

/-- The window is full with the copy just counted. -/
def pulseFills (e : Env) (s : Spoilage) (z : Zone) : Prop :=
  pulseCategory e s z ≠ .idle ∧ (4 + e.img.rateX) * 2 ^ e.img.rateY / 4 ≤ (pulseCounted e s z).windowCopies

theorem copyPulse_filling {e : Env} {s : Spoilage} {z : Zone} (h : pulseFills e s z) :
    copyPulse e s z = ((pulseCounted e s z).endWindow e.img, copyWindows
      (if (pulseCategory e s z).isWaste then copyCharge e (raiseRateHigh e (pulseCounted e s z) (copyArrivals e z))
       else raiseRateHigh e (pulseCounted e s z) (copyArrivals e z))) := by
  have hdue : (windowDue e.img (pulseCounted e s z) && pulseCategory e s z ≠ .idle) = true := by
    simp only [Bool.and_eq_true, windowDue_iff]
    exact ⟨h.2, decide_eq_true h.1⟩
  have hz : (if (windowDue e.img (pulseCounted e s z) && pulseCategory e s z ≠ .idle) = true then
      raiseRateHigh e (pulseCounted e s z) (copyArrivals e z) else copyArrivals e z) =
      raiseRateHigh e (pulseCounted e s z) (copyArrivals e z) := if_pos hdue
  unfold copyPulse
  exact Prod.ext (if_pos hdue) (congrArg (fun y => copyWindows (if (pulseCategory e s z).isWaste then copyCharge e y else y)) hz)

theorem copyPulse_not_filling {e : Env} {s : Spoilage} {z : Zone} (h : ¬ pulseFills e s z) :
    copyPulse e s z = (pulseCounted e s z, copyWindows
      (if (pulseCategory e s z).isWaste then copyCharge e (copyArrivals e z) else copyArrivals e z)) := by
  have hdue : ¬ (windowDue e.img (pulseCounted e s z) && pulseCategory e s z ≠ .idle) = true := by
    simp only [Bool.and_eq_true, windowDue_iff]
    exact fun ⟨h1, h2⟩ => h ⟨of_decide_eq_true h2, h1⟩
  have hz : (if (windowDue e.img (pulseCounted e s z) && pulseCategory e s z ≠ .idle) = true then
      raiseRateHigh e (pulseCounted e s z) (copyArrivals e z) else copyArrivals e z) = copyArrivals e z := if_neg hdue
  unfold copyPulse
  exact Prod.ext (if_neg hdue) (congrArg (fun y => copyWindows (if (pulseCategory e s z).isWaste then copyCharge e y else y)) hz)

theorem charged_eq {α : Type} (k : Category) (a b : α) :
    (if k.isWaste then a else b) = if k = .idle ∨ k = .good then b else a := by
  cases k <;> rfl

/-- Settles O53: the parts of a copy pulse in their order, the charge and the rate window. -/
theorem copyPulseTaken : Obligations.CopyPulseTaken := by
  unfold Obligations.CopyPulseTaken
  refine ⟨fun s hm hp _ => ?_, fun e z => ?_, fun s i => ⟨fun h => ?_, fun h => ?_⟩, fun e s z => ⟨fun h hr => ?_, fun h => ?_⟩⟩
  · simp only
    rw [exec_folderCopyPulse, copyTaken_of_press hm hp, exec_rateWindowEnd, rateWindowEnded_of_press hm hp]
    refine ⟨fun hn => ?_, fun hf => ?_, fun hw => ?_, fun hw => ?_, fun s' hm' => ⟨?_, ?_⟩⟩
    · rw [copyPulse_not_filling (e := s.env) (s := s.spoilage) (z := s.zone) hn, charged_eq]
      rfl
    · rw [copyPulse_filling (e := s.env) (s := s.spoilage) (z := s.zone) hf, charged_eq]
      rfl
    · exact congrArg _ (if_pos ((windowDue_iff _ _).mpr hw))
    · exact congrArg _ (if_neg (windowDue_of_short hw))
    · exact congrArg _ (if_neg (by simp [hm']))
    · exact congrArg _ (if_neg (by simp [hm']))
  · simp only
    refine ⟨fun r => webActive_iff e z r, fun r w hw => ⟨fun ha => ?_, fun ha => ?_⟩, fun r hn => ?_, ?_⟩
    · rw [get?_copyCharge, if_pos ((webActive_iff e z r).mpr ha), hw]
      rfl
    · rw [get?_copyCharge, if_neg (mt (webActive_iff e z r).mp ha), hw]
    · rw [get?_copyCharge, hn]
      exact ite_self _
    · obtain ⟨-, hrest⟩ := foldl_charge e (nodup_upTo e.img.reels.length) z
      have hrest' : copyCharge e z = { z with folder := { z.folder with webs := (copyCharge e z).folder.webs } } := hrest
      rw [hrest']
  · simp only [Spoilage.endWindow, Spoilage.aboveLimit, h, decide_true, if_true]
    rfl
  · simp only [Spoilage.endWindow, Spoilage.aboveLimit, Nat.not_lt.mpr h, decide_false, Bool.false_eq_true, if_false]
    rfl
  · exact if_pos ⟨by simpa [Spoilage.aboveLimit] using h, by simp [hr]⟩
  · refine if_neg ?_
    rintro ⟨hl, hr⟩
    rcases h with h | h
    · exact absurd (by simpa [Spoilage.aboveLimit] using hl) (Nat.not_lt.mpr h)
    · simp [h] at hr

end Sys2Proof.Machine

/-! PROOF. What the splice states, the runout engine's drive and the arms leave alone; O49 (acceleration inputs; R139 to R142),
O50 (paste and knife; R119, R142 to R146) and O51 (web breaks; R146, R168, R175, R176). -/

namespace Sys2Proof.Machine

/-! ### A deferred set told (R151) -/

/-- The held faults are told one after the other. -/
def tellHeld (e : Env) (l : List HeldFault) (z : Zone) : Zone :=
  l.foldl (fun z h => recordAndReport e h.latest h.count z) z

/-- Telling held faults leaves alone what one told fault leaves alone. -/
theorem tellHeld_keeps {β : Type} {e : Env} (g : Zone → β) (hg : ∀ o n z, g (recordAndReport e o n z) = g z)
    (l : List HeldFault) (z : Zone) : g (tellHeld e l z) = g z := by
  induction l generalizing z with
  | nil => rfl
  | cons h l ih => exact (ih _).trans (hg _ _ z)

@[simp] theorem tellHeld_track (e : Env) (l : List HeldFault) (z : Zone) : (tellHeld e l z).track = z.track :=
  tellHeld_keeps Zone.track (recordAndReport_track e) l z

@[simp] theorem tellHeld_stock (e : Env) (l : List HeldFault) (z : Zone) : (tellHeld e l z).stock = z.stock :=
  tellHeld_keeps Zone.stock (recordAndReport_stock e) l z

@[simp] theorem tellHeld_transfer (e : Env) (l : List HeldFault) (z : Zone) : (tellHeld e l z).transfer = z.transfer :=
  tellHeld_keeps Zone.transfer (recordAndReport_transfer e) l z

@[simp] theorem tellHeld_reels (e : Env) (l : List HeldFault) (z : Zone) : (tellHeld e l z).reels = z.reels :=
  tellHeld_keeps Zone.reels (recordAndReport_reels e) l z

@[simp] theorem tellHeld_splice (e : Env) (l : List HeldFault) (z : Zone) : (tellHeld e l z).splice = z.splice :=
  tellHeld_keeps Zone.splice (recordAndReport_splice e) l z

@[simp] theorem tellHeld_folder (e : Env) (l : List HeldFault) (z : Zone) : (tellHeld e l z).folder = z.folder :=
  tellHeld_keeps Zone.folder (recordAndReport_folder e) l z

@[simp] theorem tellHeld_agenda (e : Env) (l : List HeldFault) (z : Zone) : (tellHeld e l z).agenda = z.agenda :=
  tellHeld_keeps Zone.agenda (recordAndReport_agenda e) l z

theorem tellHeld_empty (e : Env) (z : Zone) : tellHeld e (releaseOrder []) z = z := rfl

theorem tellHeld_one (e : Env) (h : HeldFault) (z : Zone) :
    tellHeld e (releaseOrder [h]) z = recordAndReport e h.latest h.count z := rfl

theorem tellHeld_two (e : Env) (a b : HeldFault) (z : Zone) : tellHeld e (releaseOrder [a, b]) z =
    if liesAfter a.latest.time b.latest.time then
      recordAndReport e a.latest a.count (recordAndReport e b.latest b.count z)
    else recordAndReport e b.latest b.count (recordAndReport e a.latest a.count z) := by
  unfold releaseOrder
  dsimp only
  split <;> rfl

/-! ### Changes of the splice state (R151) -/

/-- A reelstand that stays out of the splicing states, or goes into or on in them, changes its state alone. -/
theorem setSpliceState_of_plain {e : Env} {r : Nat} {st : SpliceState} {z : Zone} {w : Splice} (hw : splice? z r = some w)
    (h : w.state.splicing = false ∨ st.splicing = true) :
    setSpliceState e r st z = modSplice r (fun s => { s with state := st }) z := by
  refine if_neg ?_
  rcases h with h | h <;> simp [hw, h]

/-- A reelstand that leaves the splicing states releases its deferred set. -/
theorem setSpliceState_of_leaving {e : Env} {r : Nat} {st : SpliceState} {z : Zone} {w : Splice}
    (hw : splice? z r = some w) (hs : w.state.splicing = true) (ht : st.splicing = false) :
    setSpliceState e r st z =
      tellHeld e (releaseOrder w.deferred) (modSplice r (fun s => { s with state := st, deferred := [] }) z) := by
  have hw' : splice? (modSplice r (fun s => { s with state := st }) z) r = some { w with state := st } := by
    rw [splice?_modSplice, hw]; rfl
  refine (if_pos (by simp [hw, hs, ht])).trans ?_
  rw [releaseDeferred_of_splice hw', modSplice_modSplice]
  rfl

/-- Either way with nothing deferred the state alone changes. -/
theorem setSpliceState_of_nothing_held {e : Env} {r : Nat} {st : SpliceState} {z : Zone} {w : Splice}
    (hw : splice? z r = some w) (hd : w.deferred = []) :
    setSpliceState e r st z = modSplice r (fun s => { s with state := st }) z := by
  by_cases h : w.state.splicing = false ∨ st.splicing = true
  · exact setSpliceState_of_plain hw h
  · obtain ⟨hs, ht⟩ := not_or.mp h
    rw [setSpliceState_of_leaving hw (by simpa using hs) (by simpa using ht), hd, tellHeld_empty]
    exact modSplice_congr hw (by rw [← hd])

/-! ### Conditions on a splice record that is known (R140, R142) -/

theorem mayAccelerate_iff {e : Env} {r : Nat} {z : Zone} {w : Splice} (hw : splice? z r = some w) :
    mayAccelerate e r z = true ↔ w.state = .prepared ∧ timeToSplice z r ≤ leadA e r ∧ 100 ≤ webSpeed e r ∧
      w.inhibited = false ∧ (reelIns e r).webBreak = false := by
  simp only [mayAccelerate, hw, Option.any_some, Bool.and_eq_true, decide_eq_true_eq, Bool.not_eq_true', and_assoc]

theorem lateRollDue_iff {e : Env} {r : Nat} {z : Zone} {w : Splice} (hw : splice? z r = some w) :
    lateRollDue e r z = true ↔ w.state = .single ∧ timeToSplice z r ≤ leadA e r ∧ w.lateRaised = false := by
  simp only [lateRollDue, hw, Option.any_some, Bool.and_eq_true, decide_eq_true_eq, Bool.not_eq_true', and_assoc]

theorem evalSplice_starting {e : Env} {r : Nat} {z : Zone} (h : mayAccelerate e r z = true) (ha : e.station = .active) :
    evalSplice e r z = startAcceleration e r z :=
  if_pos (by simp [h, Env.active, ha])

theorem evalSplice_late {e : Env} {r : Nat} {z : Zone} (hn : ¬ (mayAccelerate e r z = true ∧ e.station = .active))
    (h : lateRollDue e r z = true) : evalSplice e r z = modSplice r (fun s => { s with lateRaised := true })
      (raise e .lateRoll
        ([.reelstand r, .serial (runningSerial z r), .number (timeToSplice z r)] ++ lateCallContext z r) z) :=
  (if_neg (by simpa [Env.active] using hn)).trans (if_pos h)

theorem evalSplice_rest {e : Env} {r : Nat} {z : Zone} (hn : ¬ (mayAccelerate e r z = true ∧ e.station = .active))
    (h : ¬ lateRollDue e r z = true) : evalSplice e r z = z :=
  (if_neg (by simpa [Env.active] using hn)).trans (if_neg h)

/-- During a web break a reelstand that is not SINGLE stays as it is. -/
theorem evalSplice_of_break {e : Env} {r : Nat} {z : Zone} {w : Splice} (hw : splice? z r = some w)
    (hb : (reelIns e r).webBreak = true) (hs : w.state ≠ .single) : evalSplice e r z = z :=
  evalSplice_rest (fun h => absurd ((mayAccelerate_iff hw).mp h.1).2.2.2.2 (by simp [hb]))
    (fun h => hs ((lateRollDue_iff hw).mp h).1)

theorem runningMeas_iff {z : Zone} {r : Nat} (p : Meas → Prop) : (∃ m, runningMeas z r = some m ∧ p m) ↔
    ∃ y x, z.reels.get? r = some y ∧ y.running = some x ∧ p (y.meas x) := by
  simp only [runningMeas, reel?]
  cases z.reels.get? r with
  | none => simp
  | some y => cases hx : y.running <;> simp [hx]

theorem pasteWanted_iff {z : Zone} {r : Nat} {w : Splice} (hw : splice? z r = some w) : pasteWanted z r = true ↔
    w.manual = true ∨ ∃ y x, z.reels.get? r = some y ∧ y.running = some x ∧
      (y.meas x).remaining ≤ (y.meas x).spliceLength := by
  rw [← runningMeas_iff fun m => m.remaining ≤ m.spliceLength]
  simp [pasteWanted, hw, Option.any_eq_true]

/-- A timer has expired in its state. -/
theorem timerDue_iff {e : Env} {r : Nat} {z : Zone} {w : Splice} (hw : splice? z r = some w) (st : SpliceState)
    (timer : Splice → Option Time) : timerDue e z r st timer = true ↔
      w.state = st ∧ ∃ t, timer w = some t ∧ liesAfter t e.now = false := by
  simp [timerDue, hw, reached, Option.any_eq_true]

/-! ### Standby ready, speed matched and the match time (R139, R141) -/

theorem exec_standbyReadyChange (r : Nat) (on : Bool) (s : State) :
    exec (.standbyReadyChange r on) s = .next (s.standbyReadyTaken r on) := rfl

theorem exec_speedMatchedChange (r : Nat) (on : Bool) (s : State) :
    exec (.speedMatchedChange r on) s = .next (s.speedMatchedTaken r on) := rfl

theorem exec_matchTimeout {s : State} (ha : s.isActive = true) (r : Nat) :
    exec (.matchTimeout r) s = .next (s.endEvent (matchTimedOut s.env r s.zone)) :=
  congrArg _ (whenActive_active ha _)

/-- Reelstand inputs as they stand after a change of one of its lines. -/
def State.withReelIns (s : State) (r : Nat) (i : ReelIns) : State :=
  { s with inputs := { s.inputs with reels := s.inputs.reels.set r i } }

theorem standbyReadyTaken_same {s : State} {r : Nat} {on : Bool} (h : (s.reelIns r).standbyReady = on) :
    s.standbyReadyTaken r on = s.withReelIns r { s.reelIns r with standbyReady := on } := if_pos h

theorem standbyReadyTaken_changed {s : State} {r : Nat} {on : Bool} (h : (s.reelIns r).standbyReady ≠ on)
    (ha : s.isActive = true) :
    s.standbyReadyTaken r on =
      let t := s.withReelIns r { s.reelIns r with standbyReady := on }
      t.endEvent (standbyReadyChanged t.env r on s.zone) :=
  (if_neg h).trans (whenActive_active (s := s.withReelIns r { s.reelIns r with standbyReady := on }) ha _)

theorem speedMatchedTaken_same {s : State} {r : Nat} {on : Bool} (h : (s.reelIns r).speedMatched = on) :
    s.speedMatchedTaken r on = s.withReelIns r { s.reelIns r with speedMatched := on } := if_pos h

theorem speedMatchedTaken_changed {s : State} {r : Nat} {on : Bool} (h : (s.reelIns r).speedMatched ≠ on)
    (ha : s.isActive = true) :
    s.speedMatchedTaken r on =
      let t := s.withReelIns r { s.reelIns r with speedMatched := on }
      t.endEvent (speedMatchedChanged t.env r on s.zone) :=
  (if_neg h).trans (whenActive_active (s := s.withReelIns r { s.reelIns r with speedMatched := on }) ha _)

theorem standbyReadyChanged_rest {e : Env} {r : Nat} {on : Bool} {z : Zone} {w : Splice} (hw : splice? z r = some w)
    (h : w.state ∉ [.loaded, .prepared, .accelerating, .matched] ∨ (w.state = .loaded ∧ on = false) ∨
      (w.state ∈ [.prepared, .accelerating, .matched] ∧ on = true)) : standbyReadyChanged e r on z = z := by
  unfold standbyReadyChanged
  rw [spliceState_of_splice hw]
  cases hst : w.state <;> simp_all

theorem speedMatchedChanged_rest {e : Env} {r : Nat} {on : Bool} {z : Zone} {w : Splice} (hw : splice? z r = some w)
    (h : w.state ∉ [.accelerating, .matched] ∨ (w.state = .accelerating ∧ on = false) ∨ (w.state = .matched ∧ on = true)) :
    speedMatchedChanged e r on z = z := by
  unfold speedMatchedChanged
  rw [spliceState_of_splice hw]
  cases hst : w.state <;> simp_all

/-- Matched on the start of an acceleration, or on speed matched: the paste is armed where it is wanted. -/
theorem enterMatched_eq {r : Nat} {z : Zone} {w : Splice} (hw : splice? z r = some w) {armed : Bool}
    (h : armed = true ↔ w.pasteArmed = true ∨ pasteWanted z r = true) :
    enterMatched r z = modSplice r (fun s => { s with state := .matched, matchTimer := none, pasteArmed := armed }) z := by
  have hm : splice? (modSplice r (fun s => { s with state := .matched, matchTimer := none }) z) r =
      some { w with state := .matched, matchTimer := none } := by rw [splice?_modSplice, hw]; rfl
  have hwant : pasteWanted (modSplice r (fun s => { s with state := .matched, matchTimer := none }) z) r =
      pasteWanted z r := by
    rw [Bool.eq_iff_iff, pasteWanted_iff hw, pasteWanted_iff hm]
    rfl
  unfold enterMatched
  cases hp : pasteWanted z r with
  | true =>
    have ha : armed = true := h.mpr (Or.inr hp)
    rw [evalPaste_of_wanted hm rfl (hwant.trans hp), modSplice_modSplice, ha]
  | false =>
    have ha : armed = w.pasteArmed := by
      rw [Bool.eq_iff_iff, h]
      simp [hp]
    have hno : evalPaste (modSplice r (fun s => { s with state := .matched, matchTimer := none }) z) r =
        modSplice r (fun s => { s with state := .matched, matchTimer := none }) z :=
      if_neg (by simp [hwant, hp])
    rw [hno]
    exact modSplice_congr hw (by rw [ha])

/-- Settles O49: the levels by the splice state, the match time, and when an acceleration starts. -/
theorem accelerationInputs : Obligations.AccelerationInputs := by
  unfold Obligations.AccelerationInputs
  refine ⟨fun r on s w ha hw => ?_, fun e r z w hw => ?_⟩
  · have hw' : splice? s.zone r = some w := hw
    simp only
    rw [exec_standbyReadyChange, exec_speedMatchedChange, exec_matchTimeout ha]
    refine ⟨fun h => congrArg _ (standbyReadyTaken_same h), fun h => congrArg _ (speedMatchedTaken_same h),
      fun h => ⟨fun hs hon => ?_, fun hs hon => ?_, fun hs hon => ?_, fun hs => ?_⟩,
      fun h => ⟨fun hs hon => ?_, fun hs hon => ?_, fun hs => ?_⟩, fun at' hs ht hl hd => ?_, fun h => ?_⟩
    · rw [standbyReadyTaken_changed h ha]
      simp only [standbyReadyChanged, spliceState_of_splice hw', hs, hon, if_true]
      rfl
    · rw [standbyReadyTaken_changed h ha]
      simp only [standbyReadyChanged, spliceState_of_splice hw', hs, hon, Bool.false_eq_true, if_false]
      rw [setSpliceState_of_plain hw' (Or.inl (by rw [hs]; rfl))]
      rfl
    · rw [standbyReadyTaken_changed h ha]
      rcases hs with hs | hs
      · simp only [standbyReadyChanged, spliceState_of_splice hw', hs, hon, Bool.false_eq_true, if_false]
        rfl
      · simp only [standbyReadyChanged, spliceState_of_splice hw', hs, hon, Bool.false_eq_true, if_false]
        rfl
    · rw [standbyReadyTaken_changed h ha]
      simp only [standbyReadyChanged_rest hw' hs]
      rfl
    · rw [speedMatchedTaken_changed h ha]
      simp only [speedMatchedChanged, spliceState_of_splice hw', hs, hon, if_true]
      rfl
    · rw [speedMatchedTaken_changed h ha]
      simp only [speedMatchedChanged, spliceState_of_splice hw', hs, hon, Bool.false_eq_true, if_false]
      rfl
    · rw [speedMatchedTaken_changed h ha]
      simp only [speedMatchedChanged_rest hw' hs]
      rfl
    · have hfire : matchTimedOut s.env r s.zone = matchExpired s.env r s.zone :=
        if_pos ((timerDue_iff hw' _ _).mpr ⟨hs, at', ht, hl⟩)
      have hdrop : splice? (modSplice r (fun s => { s.dropAcceleration with inhibited := true }) s.zone) r =
          some { w.dropAcceleration with inhibited := true } := by rw [splice?_modSplice, hw']; rfl
      rw [hfire, matchExpired, setSpliceState_of_nothing_held hdrop hd, modSplice_modSplice]
      rfl
    · refine congrArg (fun z => Host.Outcome.next (s.endEvent z)) (if_neg fun hdue => ?_)
      obtain ⟨hs, t, ht, hl⟩ := (timerDue_iff hw' _ _).mp hdue
      rcases h with h | h | ⟨t', ht', hl'⟩
      · exact h hs
      · rw [h] at ht; cases ht
      · rw [ht'] at ht; cases ht
        exact absurd (hl'.symm.trans hl) (by decide)
  · have hw' : splice? z r = some w := hw
    simp only
    have hmay := mayAccelerate_iff (e := e) hw'
    refine ⟨fun ⟨hs, hT, hv, hi, hb, ha⟩ hm => ?_, fun armed ⟨hs, hT, hv, hi, hb, ha⟩ hm harm => ?_, fun hl => ?_,
      fun hn hl => ?_, fun hs hwant => ?_, fun h => ?_⟩
    · rw [evalSplice_starting (hmay.mpr ⟨hs, hT, hv, hi, hb⟩) ha, startAcceleration_eq]
      simp only [hm, Bool.false_eq_true, if_false]
      rfl
    · rw [evalSplice_starting (hmay.mpr ⟨hs, hT, hv, hi, hb⟩) ha, startAcceleration_eq]
      simp only [hm, if_true]
      rw [enterMatched_eq (w := { w with accelerateOut := true, pasteFired := false, knifeFired := false, pasteDone := false, knifeDone := false, matchTimer := some (e.now + Config.matchTime), state := .accelerating })
        (by rw [splice?_modSplice, hw']; rfl) (armed := armed), modSplice_modSplice]
      · rfl
      · rw [harm, pasteWanted_iff (by rw [splice?_modSplice, hw']; rfl)]
        rfl
    · rw [evalSplice_late (fun h => by rw [hmay, hl.1] at h; exact absurd h.1.1 (by decide))
        ((lateRollDue_iff hw').mpr hl)]
      have hrun : runningSerial z r = (w.running.map fun x => armSerial z r x).getD 0 := by
        rw [runningSerial, runningArm, hw', Option.bind_some]
        cases w.running <;> rfl
      rw [hrun]
      unfold lateCallContext
      cases z.supply.calls.get? (Need.runout r).key <;> rfl
    · refine evalSplice_rest (fun h => hn ?_) (fun h => hl ((lateRollDue_iff hw').mp h))
      obtain ⟨hs, hT, hv, hi, hb⟩ := hmay.mp h.1
      exact ⟨hs, hT, hv, hi, hb, h.2⟩
    · exact evalPaste_of_wanted hw' hs ((pasteWanted_iff hw').mpr hwant)
    · rcases h with h | h
      · exact evalPaste_of_other fun x hx => by cases hw'.symm.trans hx; exact h
      · refine if_neg fun hc => h ((pasteWanted_iff hw').mp ?_)
        exact (Bool.and_eq_true_iff.mp hc).2

/-! ### Web breaks (R146, R168, R175, R176) -/

theorem exec_webBreak (r : Nat) (s : State) : exec (.webBreak r) s = .next (s.webBreakTaken r) := rfl

theorem exec_webBreakClear (r : Nat) (s : State) : exec (.webBreakClear r) s = .next (s.webBreakCleared r) := rfl

/-- A reelstand of the make-up. -/
theorem reelOfImage_isNone (s : State) (r : Nat) : (s.loader.image.bind (·.reel? r)).isNone = true ↔
    s.loader.image = none ∨ s.env.img.reel? r = none := by
  cases hi : s.loader.image with
  | none => simp
  | some i => simp [State.env, hi]

/-- A line that was so already, and a break that nobody takes, only follow the level. -/
theorem webBreakTaken_level {s : State} {r : Nat} (h : (s.reelIns r).webBreak = true ∨ s.measures = false ∨
    s.loader.image = none ∨ s.env.img.reel? r = none) :
    s.webBreakTaken r = s.withReelIns r { s.reelIns r with webBreak := true } := by
  refine if_pos ?_
  rw [Bool.or_eq_true, Bool.or_eq_true, or_assoc]
  exact h.imp id (Or.imp (fun h => by rw [Bool.not_eq_true']; exact h) (reelOfImage_isNone s r).mpr)

theorem webBreakCleared_level {s : State} {r : Nat} (h : (s.reelIns r).webBreak = false ∨ s.measures = false ∨
    s.loader.image = none ∨ s.env.img.reel? r = none) :
    s.webBreakCleared r = s.withReelIns r { s.reelIns r with webBreak := false } := by
  refine if_pos ?_
  rw [Bool.or_eq_true, Bool.or_eq_true, or_assoc]
  exact h.imp (fun h => by rw [Bool.not_eq_true']; exact h)
    (Or.imp (fun h => by rw [Bool.not_eq_true']; exact h) (reelOfImage_isNone s r).mpr)

theorem webBreakTaken_acts {s : State} {r : Nat} (hb : (s.reelIns r).webBreak = false) (hm : s.measures = true)
    (hi : s.loader.image ≠ none) (hr : s.env.img.reel? r ≠ none) :
    s.webBreakTaken r =
      let t := (s.withReelIns r { s.reelIns r with webBreak := true }).breakPassed r
      if t.isActive then t.onZone fun e z => webBroken e r z else t := by
  refine if_neg ?_
  rw [Bool.or_eq_true, Bool.or_eq_true, or_assoc]
  rintro (h | h | h)
  · exact absurd (hb.symm.trans h) (by decide)
  · rw [Bool.not_eq_true'] at h
    exact absurd (hm.symm.trans h) (by decide)
  · exact ((reelOfImage_isNone s r).mp h).elim hi hr

theorem webBreakCleared_acts {s : State} {r : Nat} (hb : (s.reelIns r).webBreak = true) (hm : s.measures = true)
    (hi : s.loader.image ≠ none) (hr : s.env.img.reel? r ≠ none) :
    s.webBreakCleared r =
      let t := s.withReelIns r { s.reelIns r with webBreak := false }
      State.whenActive (if webInUse s.env.img r then { t with spoilage := s.spoilage.breakCleared t.env }
        else { t with spoilage := s.spoilage }) fun e z => evalSplice e r z := by
  refine if_neg ?_
  rw [Bool.or_eq_true, Bool.or_eq_true, or_assoc]
  rintro (h | h | h)
  · rw [Bool.not_eq_true'] at h
    exact absurd (hb.symm.trans h) (by decide)
  · rw [Bool.not_eq_true'] at h
    exact absurd (hm.symm.trans h) (by decide)
  · exact ((reelOfImage_isNone s r).mp h).elim hi hr

/-- The break passed to the counters and counted on the running roll. -/
theorem breakPassed_eq (s : State) (r : Nat) : s.breakPassed r =
    { s with spoilage := { s.spoilage.webBroke s.env.img r with
               heldAlerts := s.spoilage.heldAlerts ++ ((countBreak s.env r s.zone).2.map HeldAlert.mk).toList }
             zone := (countBreak s.env r s.zone).1 } := rfl

theorem webBroke_heldAlerts (sp : Spoilage) (i : Image) (r : Nat) : (sp.webBroke i r).heldAlerts = sp.heldAlerts := by
  unfold Spoilage.webBroke
  split <;> rfl

/-- Nothing is held: the counters take the break. -/
theorem breakPassed_none {s : State} {r : Nat} (h : (countBreak s.env r s.zone).2 = none) : s.breakPassed r =
    { s with spoilage := s.spoilage.webBroke s.env.img r, zone := (countBreak s.env r s.zone).1 } := by
  rw [breakPassed_eq, h, Option.map_none, Option.toList_none, List.append_nil, ← webBroke_heldAlerts s.spoilage s.env.img r]

theorem countBreak_idle {e : Env} {r : Nat} {z : Zone} (h : runningArm z r = none) : countBreak e r z = (z, none) := by
  rw [countBreak, h]

theorem armSerial_of_roll {z : Zone} {r : Nat} {x : Arm} {w : Roll} (h : rollAt z (.arm r x) = some w) :
    armSerial z r x = w.serial := by
  simp [armSerial, h]

theorem armSerial_of_none {z : Zone} {r : Nat} {x : Arm} (h : rollAt z (.arm r x) = none) : armSerial z r x = 0 := by
  simp [armSerial, h]

theorem countBreak_missing {e : Env} {r : Nat} {x : Arm} {z : Zone} (hx : runningArm z r = some x)
    (hw : rollAt z (.arm r x) = none) : countBreak e r z =
      (raiseForReel e r .mismatch [.place (.arm r x), .serial 0, .serial 0] z, none) := by
  simp only [countBreak, hx, writeRoll_absent e _ _ _ _ hw, hw, armSerial_of_none hw]
  rfl

theorem countBreak_quiet {e : Env} {r : Nat} {x : Arm} {w : Roll} {z : Zone} (hx : runningArm z r = some x)
    (hw : rollAt z (.arm r x) = some w)
    (h : ¬ ((w.broke e.img.lotThreshold).defect = true ∧ w.defect = false ∧ w.serial ≠ 0)) :
    countBreak e r z = (setRoll (.arm r x) (w.broke e.img.lotThreshold) z, none) := by
  simp only [countBreak, hx, armSerial_of_roll hw, writeRoll_agrees e _ _ _ _ hw, hw]
  exact if_neg (by simpa using h)

theorem countBreak_alerting {e : Env} {r : Nat} {x : Arm} {w : Roll} {z : Zone} (hx : runningArm z r = some x)
    (hw : rollAt z (.arm r x) = some w) (hd : (w.broke e.img.lotThreshold).defect = true) (hn : w.defect = false)
    (hs : w.serial ≠ 0) : countBreak e r z =
      let new := w.broke e.img.lotThreshold
      let z' := setRoll (.arm r x) new z
      if e.active then (raiseAlert e w.serial (some r) new.breaks (sendAlert e w.serial z'), none)
      else (raiseAlert e w.serial (some r) new.breaks z', some w.serial) := by
  simp only [countBreak, hx, armSerial_of_roll hw, writeRoll_agrees e _ _ _ _ hw, hw]
  exact if_pos ⟨hd, by simp [hn], hs⟩

/-- The record of the running arm takes the break and its defect flag from the threshold on. -/
theorem broke_eq (w : Roll) (threshold : Nat) : w.broke threshold = { w with
    breaks := min 7 (w.breaks + 1)
    defect := w.defect || decide (0 < threshold ∧ threshold ≤ min 7 (w.breaks + 1)) } := by
  simp only [Roll.broke, satAdd, Bool.decide_and]
  rfl

/-- The station acts: ACTIVE, with RESET released. -/
theorem env_active (s : State) (ha : s.isActive = true) : s.env.active = true := by
  rw [State.isActive, State.isIn, Bool.and_eq_true] at ha
  exact ha.2

theorem env_not_active {s : State} (hm : s.measures = true) (ha : s.isActive = false) : s.env.active = false := by
  have hj : s.isIn .joining = true := by
    rw [State.measures, Bool.or_eq_true] at hm
    exact hm.resolve_left (by rw [show s.isIn .active = false from ha]; decide)
  have hs : s.loader.station = .joining := station_of_isIn hj
  exact decide_eq_false (by show ¬ s.loader.station = .active; rw [hs]; decide)

theorem webBroke_eq (sp : Spoilage) (i : Image) (r : Nat) : sp.webBroke i r =
    if (i.reel? r).any (·.webInUse) = true ∧ sp.condition ≠ .idle then sp.setCondition .broken else sp := by
  simp only [Spoilage.webBroke, webInUse, PressCondition.running, ne_eq, decide_eq_true_eq]

/-- The end of a break at the counters: a run in BREAK goes on where the web is in use, the gate good and no break left. -/
theorem breakGoesOn (i : Image) (sp : Spoilage) (t : State) (r : Nat) :
    (if webInUse i r then { t with spoilage := sp.breakCleared t.env } else { t with spoilage := sp }) =
      { t with spoilage := if (i.reel? r).any (·.webInUse) = true ∧ sp.condition = .broken ∧
        t.inputs.wasteGate = false ∧ breakActive t.env = false then sp.setCondition .production else sp } := by
  unfold webInUse
  by_cases hu : (i.reel? r).any (·.webInUse) = true
  · rw [if_pos hu]
    simp only [hu, true_and, Spoilage.breakCleared, Bool.not_eq_true']
    rfl
  · rw [if_neg hu, if_neg (fun h => hu h.1)]

/-- A break taken: what the counters, the running roll and the splice make of it, in ACTIVE and in JOINING. -/
theorem webBreakTaken_of_count {s : State} {r : Nat} (hb : (s.reelIns r).webBreak = false) (hm : s.measures = true)
    (hi : s.loader.image ≠ none) (hr : s.env.img.reel? r ≠ none) {z : Zone}
    (hc : countBreak (s.withReelIns r { s.reelIns r with webBreak := true }).env r s.zone = (z, none)) :
    let t : State := { s.withReelIns r { s.reelIns r with webBreak := true } with
      spoilage := s.spoilage.webBroke s.env.img r }
    (s.isActive = true → s.webBreakTaken r = t.endEvent (webBroken t.env r z)) ∧
      (s.isActive = false → s.webBreakTaken r = { t with zone := z }) := by
  have hp := breakPassed_none (s := s.withReelIns r { s.reelIns r with webBreak := true }) (r := r)
    (congrArg Prod.snd hc)
  have hz : (countBreak (s.withReelIns r { s.reelIns r with webBreak := true }).env r
      (s.withReelIns r { s.reelIns r with webBreak := true }).zone).1 = z := congrArg Prod.fst hc
  rw [webBreakTaken_acts hb hm hi hr, hp, hz]
  exact ⟨fun ha => if_pos (by exact ha), fun ha => if_neg (by exact Bool.eq_false_iff.mp ha)⟩

/-- In a splice under way before the paste a break lets the reelstand fall to PREPARED and tells what was held. -/
theorem webBroken_of_accelerating {e : Env} {r : Nat} {z : Zone} {w : Splice} (hw : splice? z r = some w)
    (hs : w.state = .accelerating ∨ w.state = .matched) (hb : (reelIns e r).webBreak = true) :
    webBroken e r z = tellHeld e (releaseOrder w.deferred) (modSplice r (fun w =>
      { w.dropAcceleration with state := .prepared, deferred := [] }) z) := by
  have hdrop : splice? (modSplice r Splice.dropAcceleration z) r = some w.dropAcceleration := by
    rw [splice?_modSplice, hw]; rfl
  have hsplicing : w.dropAcceleration.state.splicing = true := by rcases hs with h | h <;> simp [Splice.dropAcceleration, h, SpliceState.splicing]
  have hset := setSpliceState_of_leaving (e := e) (st := .prepared) hdrop hsplicing rfl
  rw [modSplice_modSplice] at hset
  have hlast : splice? (tellHeld e (releaseOrder w.deferred) (modSplice r (fun w =>
      { w.dropAcceleration with state := .prepared, deferred := [] }) z)) r =
      some { w.dropAcceleration with state := .prepared, deferred := [] } := by
    rw [splice?, tellHeld_splice]
    exact (splice?_modSplice r _ z).trans (by rw [hw]; rfl)
  have henter : webBroken e r z = enterPrepared e r (modSplice r Splice.dropAcceleration z) := by
    unfold webBroken
    rw [spliceState_of_splice hw]
    rcases hs with h | h <;> rw [h]
  rw [henter, enterPrepared, hset]
  exact evalSplice_of_break hlast hb (by simp)

/-- Settles O51: the break of a web, its end, and the fall of a splice under way. -/
theorem webBreaksTaken : Obligations.WebBreaksTaken := by
  unfold Obligations.WebBreaksTaken
  refine ⟨fun r s => ?_, fun e r z w hw => ?_⟩
  · simp only
    rw [exec_webBreak, exec_webBreakClear]
    refine ⟨fun h => congrArg _ (webBreakTaken_level h), fun h => congrArg _ (webBreakCleared_level h),
      fun hm hi hr => ⟨fun hb hx => ?_, fun x w hb hx hw => ⟨fun h => ?_, fun hal hd hs ha => ?_, fun hal hd hs ha => ?_⟩,
        fun x hb hx hw => ?_, fun hb => ⟨fun ha => ?_, fun ha => ?_⟩⟩⟩
    · obtain ⟨hact, hidle⟩ := webBreakTaken_of_count hb hm hi hr (countBreak_idle hx)
      rw [← webBroke_eq]
      exact ⟨fun ha => congrArg _ (hact ha), fun ha => congrArg _ (hidle ha)⟩
    · have hquiet := countBreak_quiet (e := (s.withReelIns r { s.reelIns r with webBreak := true }).env) hx hw (by
        rw [broke_eq]
        rintro ⟨hd, hn, hs⟩
        rw [hn, Bool.false_or, decide_eq_true_eq] at hd
        rcases h with h | h | h
        · exact h hd
        · exact absurd (hn.symm.trans h) (by decide)
        · exact hs h)
      rw [broke_eq] at hquiet
      obtain ⟨hact, hidle⟩ := webBreakTaken_of_count hb hm hi hr hquiet
      rw [← webBroke_eq]
      exact ⟨fun ha => congrArg _ (hact ha), fun ha => congrArg _ (hidle ha)⟩
    · have hcount := countBreak_alerting (e := (s.withReelIns r { s.reelIns r with webBreak := true }).env) hx hw
        (by rw [broke_eq, hd, Bool.false_or]; exact decide_eq_true hal) hd hs
      rw [broke_eq] at hcount
      have hcount' := hcount.trans (if_pos (env_active (s.withReelIns r { s.reelIns r with webBreak := true }) ha))
      obtain ⟨hact, -⟩ := webBreakTaken_of_count hb hm hi hr hcount'
      rw [← webBroke_eq, hact ha]
      rfl
    · have hcount := countBreak_alerting (e := (s.withReelIns r { s.reelIns r with webBreak := true }).env) hx hw
        (by rw [broke_eq, hd, Bool.false_or]; exact decide_eq_true hal) hd hs
      rw [broke_eq] at hcount
      have hidle : (s.withReelIns r { s.reelIns r with webBreak := true }).env.active = false :=
        env_not_active (s := s.withReelIns r { s.reelIns r with webBreak := true }) hm ha
      have hcount' := hcount.trans (if_neg (by rw [hidle]; decide))
      rw [← webBroke_eq, webBreakTaken_acts hb hm hi hr, breakPassed_eq]
      simp only
      have hpass : countBreak (s.withReelIns r { s.reelIns r with webBreak := true }).env r
          (s.withReelIns r { s.reelIns r with webBreak := true }).zone = _ := hcount'
      rw [hpass]
      refine congrArg _ ((if_neg (Bool.eq_false_iff.mp ha)).trans ?_)
      rw [webBroke_heldAlerts]
      rfl
    · obtain ⟨hact, hidle⟩ := webBreakTaken_of_count hb hm hi hr (countBreak_missing hx hw)
      rw [← webBroke_eq]
      exact ⟨fun ha => congrArg _ (hact ha), fun ha => congrArg _ (hidle ha)⟩
    · rw [webBreakCleared_acts hb hm hi hr]
      simp only [breakGoesOn]
      exact congrArg _ (whenActive_active (by exact ha) _)
    · rw [webBreakCleared_acts hb hm hi hr]
      simp only [breakGoesOn]
      exact congrArg _ (whenActive_idle (by exact ha) _)
  · have hw' : splice? z r = some w := hw
    simp only
    refine ⟨fun hs hb => ⟨fun hd => ?_, fun h hd => ?_, fun h k hd => ?_⟩, fun hs => ?_, fun hs => ?_, fun hs => ?_⟩
    · rw [webBroken_of_accelerating hw' hs hb, hd, tellHeld_empty]
      exact modSplice_congr hw' (by rw [← hd]; rfl)
    · rw [webBroken_of_accelerating hw' hs hb, hd, tellHeld_one]
      rfl
    · rw [webBroken_of_accelerating hw' hs hb, hd, tellHeld_two]
      rfl
    · simp only [webBroken, spliceState_of_splice hw', hs]
    · simp only [webBroken, spliceState_of_splice hw', hs]
    · unfold webBroken
      rw [spliceState_of_splice hw']
      cases hst : w.state <;> simp_all

end Sys2Proof.Machine

/-! PROOF. What the runout engine and the splice sequencer leave alone as they drive a reelstand; O50 (paste and knife; R119, R120,
R142 to R146). -/

namespace Sys2Proof.Machine

/-! ### What driving a reelstand leaves alone (R119 to R131, R140 to R142, R147) -/

/-- Track, roll table, transfer station and web paths stand. -/
def driven (z t : Zone) : Prop :=
  t.track = z.track ∧ t.stock = z.stock ∧ t.transfer = z.transfer ∧ t.folder = z.folder

theorem driven.refl (z : Zone) : driven z z := ⟨rfl, rfl, rfl, rfl⟩

theorem driven.trans {z t u : Zone} (h : driven z t) (h' : driven t u) : driven z u :=
  ⟨h'.1.trans h.1, h'.2.1.trans h.2.1, h'.2.2.1.trans h.2.2.1, h'.2.2.2.trans h.2.2.2⟩

theorem modSplice_driven (r : Nat) (f : Splice → Splice) (z : Zone) : driven z (modSplice r f z) := .refl z

theorem raise_driven (e : Env) (code : FaultCode) (context : List CtxElem) (z : Zone) : driven z (raise e code context z) :=
  ⟨raise_track .., raise_stock .., raise_transfer .., raise_folder ..⟩

theorem tellHeld_driven (e : Env) (l : List HeldFault) (z : Zone) : driven z (tellHeld e l z) :=
  ⟨tellHeld_track .., tellHeld_stock .., tellHeld_transfer .., tellHeld_folder ..⟩

theorem raiseForReel_driven (e : Env) (r : Nat) (code : FaultCode) (context : List CtxElem) (z : Zone) :
    driven z (raiseForReel e r code context z) := by
  unfold raiseForReel
  split
  · exact modSplice_driven ..
  · exact raise_driven ..

theorem releaseDeferred_driven (e : Env) (r : Nat) (z : Zone) : driven z (releaseDeferred e r z) := by
  cases hw : splice? z r with
  | none =>
    have h : releaseDeferred e r z = z := by simp only [releaseDeferred, hw]
    rw [h]
    exact .refl z
  | some w =>
    rw [releaseDeferred_of_splice hw]
    exact (modSplice_driven r _ z).trans (tellHeld_driven e _ _)

theorem setSpliceState_driven (e : Env) (r : Nat) (st : SpliceState) (z : Zone) : driven z (setSpliceState e r st z) := by
  unfold setSpliceState
  dsimp only
  split
  · exact (modSplice_driven r _ z).trans (releaseDeferred_driven e r _)
  · exact modSplice_driven r _ z

theorem evalPaste_driven (z : Zone) (r : Nat) : driven z (evalPaste z r) := by
  unfold evalPaste
  split
  · exact modSplice_driven ..
  · exact .refl z

theorem enterMatched_driven (r : Nat) (z : Zone) : driven z (enterMatched r z) :=
  (modSplice_driven r _ z).trans (evalPaste_driven _ r)

theorem startAcceleration_driven (e : Env) (r : Nat) (z : Zone) : driven z (startAcceleration e r z) := by
  rw [startAcceleration_eq]
  dsimp only
  split
  · exact (modSplice_driven r _ z).trans (enterMatched_driven r _)
  · exact modSplice_driven r _ z

theorem evalSplice_driven (e : Env) (r : Nat) (z : Zone) : driven z (evalSplice e r z) := by
  unfold evalSplice
  split
  · exact startAcceleration_driven e r z
  · split
    · exact (raise_driven e _ _ z).trans (modSplice_driven r _ _)
    · exact .refl z

theorem evalRunout_driven (e : Env) (r : Nat) (z : Zone) : driven z (evalRunout e r z) := by
  unfold evalRunout
  split
  · refine driven.trans ?_ (raise_driven e _ _ _)
    dsimp only
    split
    · exact setSpliceState_driven e r .prepared _
    · exact .refl z
  · exact .refl z

theorem evalRunoutCall_driven (e : Env) (r : Nat) (z : Zone) : driven z (evalRunoutCall e r z) := by
  unfold evalRunoutCall
  split
  · split
    · exact .refl z
    · split <;> exact .refl z
    · exact .refl z
  · exact .refl z

theorem lengthGiven_driven (e : Env) (r : Nat) (z : Zone) : driven z (lengthGiven e r z) :=
  (evalPaste_driven z r).trans (evalRunout_driven e r _)

theorem recomputeTime_driven (e : Env) (r : Nat) (give : Bool) (z : Zone) : driven z (recomputeTime e r give z) := by
  unfold recomputeTime
  split
  · exact .refl z
  · dsimp only
    split
    · exact driven.trans (evalSplice_driven e r (modReel r _ z)) (evalRunoutCall_driven e r _)
    · exact evalRunoutCall_driven e r (modReel r _ z)

/-- The arm's record seeded from its roll, before T is recomputed and anything given (R98, R120). -/
def measSeeded (r : Nat) (x : Arm) (c : ReelCfg) (z : Zone) : Zone :=
  modReel r (fun y => y.setMeas x ((y.meas x).seeded c (rollAt z (.arm r x))))
    { z with supply := { z.supply with noStockRaised := z.supply.noStockRaised.erase r } }

theorem seedArm_of_cfg {e : Env} {r : Nat} {c : ReelCfg} (hc : e.img.reel? r = some c) (x : Arm) (z : Zone) :
    seedArm e r x z = recomputeTime e r true (lengthGiven e r (setTime e r (measSeeded r x c z))) := by
  simp only [seedArm, hc]
  rfl

theorem seedArm_of_none {e : Env} {r : Nat} (hc : e.img.reel? r = none) (x : Arm) (z : Zone) : seedArm e r x z = z := by
  simp only [seedArm, hc]

theorem measSeeded_driven (e : Env) (r : Nat) (x : Arm) (c : ReelCfg) (z : Zone) :
    driven z (setTime e r (measSeeded r x c z)) := .refl z

theorem seedArm_driven (e : Env) (r : Nat) (x : Arm) (z : Zone) : driven z (seedArm e r x z) := by
  cases hc : e.img.reel? r with
  | none =>
    rw [seedArm_of_none hc]
    exact .refl z
  | some c =>
    rw [seedArm_of_cfg hc]
    exact (measSeeded_driven e r x c z).trans ((lengthGiven_driven e r _).trans (recomputeTime_driven e r true _))

theorem modReel_driven (r : Nat) (f : Reel → Reel) (z : Zone) : driven z (modReel r f z) := .refl z

theorem reportRunningArm_driven (e : Env) (r : Nat) (x : Option Arm) (z : Zone) : driven z (reportRunningArm e r x z) := by
  unfold reportRunningArm
  split
  · exact modReel_driven r _ z
  · dsimp only
    split
    · exact modReel_driven r _ z
    · exact (modReel_driven r _ z).trans (seedArm_driven e r _ _)

/-! ### The measurement records under the drive -/

theorem setSpliceState_reels (e : Env) (r : Nat) (st : SpliceState) (z : Zone) : (setSpliceState e r st z).reels = z.reels := by
  unfold setSpliceState
  dsimp only
  split
  · cases hw : splice? (modSplice r (fun s => { s with state := st }) z) r with
    | none => simp only [releaseDeferred, hw, modSplice_reels]
    | some w =>
      rw [releaseDeferred_of_splice hw]
      exact (tellHeld_reels e _ _).trans rfl
  · rfl

theorem evalPaste_reels (z : Zone) (r : Nat) : (evalPaste z r).reels = z.reels := by
  unfold evalPaste
  split <;> rfl

theorem startAcceleration_reels (e : Env) (r : Nat) (z : Zone) : (startAcceleration e r z).reels = z.reels := by
  rw [startAcceleration_eq]
  dsimp only
  split
  · exact evalPaste_reels _ r
  · rfl

theorem evalSplice_reels (e : Env) (r : Nat) (z : Zone) : (evalSplice e r z).reels = z.reels := by
  unfold evalSplice
  split
  · exact startAcceleration_reels e r z
  · split
    · exact raise_reels ..
    · rfl

theorem evalRunout_reels (e : Env) (r : Nat) (z : Zone) : (evalRunout e r z).reels = z.reels := by
  unfold evalRunout
  split
  · refine (raise_reels ..).trans ?_
    dsimp only
    split
    · exact setSpliceState_reels e r _ _
    · rfl
  · rfl

theorem evalRunoutCall_reels (e : Env) (r : Nat) (z : Zone) : (evalRunoutCall e r z).reels = z.reels := by
  unfold evalRunoutCall
  split
  · split
    · rfl
    · split <;> rfl
    · rfl
  · rfl

theorem lengthGiven_reels (e : Env) (r : Nat) (z : Zone) : (lengthGiven e r z).reels = z.reels :=
  (evalRunout_reels e r _).trans (evalPaste_reels z r)

theorem reel?_modReel (r : Nat) (f : Reel → Reel) (z : Zone) : reel? (modReel r f z) r = (reel? z r).map f := by
  simp [reel?, modReel, Tbl.get?_modify]

theorem reel?_setTime (e : Env) (r : Nat) (z : Zone) : reel? (setTime e r z) r =
    (reel? z r).map fun y => { y with timeToSplice := y.estimate (webSpeed e r) } := reel?_modReel r _ z

theorem reel?_measSeeded (r : Nat) (x : Arm) (c : ReelCfg) (z : Zone) : reel? (measSeeded r x c z) r =
    (reel? z r).map fun y => y.setMeas x ((y.meas x).seeded c (rollAt z (.arm r x))) := reel?_modReel r _ _

/-- T aside, recomputing it leaves the measurement records of a reelstand. -/
theorem recomputeTime_meas {e : Env} {r : Nat} {give : Bool} {z : Zone} {y : Reel} (hy : reel? z r = some y) :
    ∃ t, reel? (recomputeTime e r give z) r = some { y with timeToSplice := t } := by
  have hset : reel? (modReel r (fun y' => { y' with timeToSplice := y.estimate (webSpeed e r) }) z) r =
      some { y with timeToSplice := y.estimate (webSpeed e r) } := by rw [reel?_modReel, hy]; rfl
  refine ⟨y.estimate (webSpeed e r), ?_⟩
  unfold recomputeTime
  rw [hy]
  dsimp only
  rw [reel?, evalRunoutCall_reels]
  split
  · rw [evalSplice_reels]
    exact hset
  · exact hset

theorem setMeas_meas (y : Reel) (x : Arm) (m : Meas) : (y.setMeas x m).meas x = m := by cases x <;> rfl

theorem setMeas_meas_other (y : Reel) (x : Arm) (m : Meas) : (y.setMeas x m).meas x.other = y.meas x.other := by
  cases x <;> rfl

theorem setMeas_other_meas (y : Reel) (x : Arm) (m : Meas) : (y.setMeas x.other m).meas x = y.meas x := by
  cases x <;> rfl

theorem meas_timeToSplice (y : Reel) (t : Nat) (x : Arm) : ({ y with timeToSplice := t } : Reel).meas x = y.meas x := by
  cases x <;> rfl

theorem other_other (x : Arm) : x.other.other = x := by cases x <;> rfl

/-- An arm reported running whose record was not in use is seeded from its roll, and the other is in NO_ROLL. -/
theorem reportRunningArm_meas {e : Env} {r : Nat} {x : Arm} {z : Zone} {y : Reel} {c : ReelCfg} (hy : reel? z r = some y)
    (hx : (y.meas x).state = .noRoll) (hc : e.img.reel? r = some c) :
    ∃ y', reel? (reportRunningArm e r (some x) z) r = some y' ∧ y'.meas x = (y.meas x).seeded c (rollAt z (.arm r x)) ∧
      (y'.meas x.other).state = .noRoll := by
  have halready : ((reel? z r).any fun y => (y.meas x).state ≠ .noRoll) = false := by simp [hy, hx]
  have hfirst : reel? (modReel r (fun y => y.setMeas x.other { y.meas x.other with state := .noRoll }) z) r =
      some (y.setMeas x.other { y.meas x.other with state := .noRoll }) := by rw [reel?_modReel, hy]; rfl
  have hseed : ∀ z1 : Zone, reel? z1 r = some (y.setMeas x.other { y.meas x.other with state := .noRoll }) →
      rollAt z1 (.arm r x) = rollAt z (.arm r x) → ∃ y', reel? (seedArm e r x z1) r = some y' ∧
        y'.meas x = (y.meas x).seeded c (rollAt z (.arm r x)) ∧ (y'.meas x.other).state = .noRoll := by
    intro z1 h1 hroll
    have ht := reel?_setTime e r (measSeeded r x c z1)
    rw [reel?_measSeeded, h1, Option.map_some, Option.map_some, setMeas_other_meas, hroll] at ht
    have hgiven := (congrArg (fun t : Tbl Reel => t.get? r) (lengthGiven_reels e r _)).trans ht
    obtain ⟨t', ht'⟩ := recomputeTime_meas (e := e) (give := true) hgiven
    refine ⟨_, (congrArg (reel? · r) (seedArm_of_cfg hc x z1)).trans ht', ?_, ?_⟩
    · rw [meas_timeToSplice, meas_timeToSplice, setMeas_meas]
    · rw [meas_timeToSplice, meas_timeToSplice, setMeas_meas_other, setMeas_meas]
  unfold reportRunningArm
  dsimp only
  rw [halready]
  exact hseed _ hfirst rfl

/-! ### The splice record under the drive -/

/-- Neither splicing nor PREPARED: the drive can raise the runout and, in SINGLE, the late roll, and no more. -/
def SpliceState.standing (s : SpliceState) : Prop := s.splicing = false ∧ s ≠ .prepared

/-- The two raised flags may have changed, the late one only in SINGLE. -/
def flagsOnly (w w' : Splice) : Prop :=
  ∃ a b, w' = { w with runoutRaised := a, lateRaised := b } ∧ (w.state ≠ .single → b = w.lateRaised)

theorem flagsOnly.refl (w : Splice) : flagsOnly w w := ⟨_, _, rfl, fun _ => rfl⟩

theorem flagsOnly.trans {w w' w'' : Splice} (h : flagsOnly w w') (h' : flagsOnly w' w'') : flagsOnly w w'' := by
  obtain ⟨a, b, rfl, hb⟩ := h
  obtain ⟨a', b', rfl, hb'⟩ := h'
  exact ⟨a', b', rfl, fun hs => (hb' hs).trans (hb hs)⟩

theorem flagsOnly.state {w w' : Splice} (h : flagsOnly w w') : w'.state = w.state := by
  obtain ⟨a, b, rfl, -⟩ := h
  rfl

/-- What a drive makes of the splice record of a standing reelstand. -/
def drivesFlags (r : Nat) (z t : Zone) : Prop :=
  ∀ w, splice? z r = some w → w.state.standing → ∃ w', splice? t r = some w' ∧ flagsOnly w w'

theorem drivesFlags.of_splice {r : Nat} {z t : Zone} (h : t.splice = z.splice) : drivesFlags r z t := fun w hw _ =>
  ⟨w, by rw [splice?, h]; exact hw, .refl w⟩

theorem drivesFlags.trans {r : Nat} {z t u : Zone} (h : drivesFlags r z t) (h' : drivesFlags r t u) : drivesFlags r z u := by
  intro w hw hs
  obtain ⟨w', hw', hf⟩ := h w hw hs
  obtain ⟨w'', hw'', hf'⟩ := h' w' hw' (by rw [hf.state]; exact hs)
  exact ⟨w'', hw'', hf.trans hf'⟩

theorem evalPaste_flags (z : Zone) (r : Nat) : drivesFlags r z (evalPaste z r) := by
  intro w hw hs
  refine ⟨w, ?_, .refl w⟩
  rw [evalPaste_of_other fun x hx => ?_]
  · exact hw
  · cases hw.symm.trans hx
    intro h
    exact absurd (h ▸ hs.1) (by decide)

theorem evalRunout_flags (e : Env) (r : Nat) (z : Zone) : drivesFlags r z (evalRunout e r z) := by
  intro w hw hs
  unfold evalRunout
  split
  · have hq : ((splice? z r).any fun s => s.state.splicing) = false := by rw [hw]; exact hs.1
    dsimp only
    rw [hq]
    refine ⟨{ w with runoutRaised := true }, ?_, ⟨true, w.lateRaised, rfl, fun _ => rfl⟩⟩
    rw [splice?, raise_splice]
    exact (splice?_modSplice r (fun s => { s with runoutRaised := true }) z).trans (by rw [hw]; rfl)
  · exact ⟨w, hw, .refl w⟩

theorem evalSplice_flags (e : Env) (r : Nat) (z : Zone) : drivesFlags r z (evalSplice e r z) := by
  intro w hw hs
  have hno : ¬ (mayAccelerate e r z = true ∧ e.station = .active) := fun h => hs.2 ((mayAccelerate_iff hw).mp h.1).1
  by_cases hl : lateRollDue e r z = true
  · rw [evalSplice_late hno hl]
    refine ⟨{ w with lateRaised := true }, ?_, ⟨w.runoutRaised, true, rfl, fun h => absurd ((lateRollDue_iff hw).mp hl).1 h⟩⟩
    rw [splice?_modSplice, splice?, raise_splice]
    exact congrArg (Option.map _) hw
  · rw [evalSplice_rest hno hl]
    exact ⟨w, hw, .refl w⟩

theorem evalRunoutCall_splice (e : Env) (r : Nat) (z : Zone) : (evalRunoutCall e r z).splice = z.splice := by
  unfold evalRunoutCall
  split
  · split
    · rfl
    · split <;> rfl
    · rfl
  · rfl

theorem modReel_flags (r : Nat) (f : Reel → Reel) (z : Zone) : drivesFlags r z (modReel r f z) := .of_splice rfl

theorem recomputeTime_flags (e : Env) (r : Nat) (give : Bool) (z : Zone) : drivesFlags r z (recomputeTime e r give z) := by
  unfold recomputeTime
  split
  · exact .of_splice rfl
  · dsimp only
    refine drivesFlags.trans ?_ (.of_splice (evalRunoutCall_splice e r _))
    split
    · exact (modReel_flags r _ z).trans (evalSplice_flags e r _)
    · exact modReel_flags r _ z

theorem lengthGiven_flags (e : Env) (r : Nat) (z : Zone) : drivesFlags r z (lengthGiven e r z) :=
  (evalPaste_flags z r).trans (evalRunout_flags e r _)

theorem measSeeded_flags (e : Env) (r : Nat) (x : Arm) (c : ReelCfg) (z : Zone) :
    drivesFlags r z (setTime e r (measSeeded r x c z)) := .of_splice rfl

theorem seedArm_flags (e : Env) (r : Nat) (x : Arm) (z : Zone) : drivesFlags r z (seedArm e r x z) := by
  cases hc : e.img.reel? r with
  | none =>
    rw [seedArm_of_none hc]
    exact .of_splice rfl
  | some c =>
    rw [seedArm_of_cfg hc]
    exact (measSeeded_flags e r x c z).trans ((lengthGiven_flags e r _).trans (recomputeTime_flags e r true _))

theorem reportRunningArm_flags (e : Env) (r : Nat) (x : Option Arm) (z : Zone) :
    drivesFlags r z (reportRunningArm e r x z) := by
  unfold reportRunningArm
  split
  · exact modReel_flags r _ z
  · dsimp only
    split
    · exact modReel_flags r _ z
    · exact (modReel_flags r _ z).trans (seedArm_flags e r _ _)

/-! ### Arms and their records -/

theorem arm_key_ne_other (r : Nat) (x : Arm) : (Place.arm r x).key ≠ (Place.arm r x.other).key := by
  cases x <;> simp [Place.key, Arm.other]

/-- A record on an arm takes a state. -/
theorem setArmState_of_roll {e : Env} {r : Nat} {x : Arm} {z : Zone} {k : Roll} (hk : rollAt z (.arm r x) = some k)
    (st : RollState) : setArmState e r x st z = setRoll (.arm r x) { k with state := st } z := by
  rw [setArmState, armSerial_of_roll hk, writeRoll_agrees e _ _ _ _ hk]

/-- Out of the splicing states an arm's record takes a state, or misses, without touching the splice records. -/
theorem setArmState_splice {e : Env} {r : Nat} {x : Arm} {st : RollState} {z : Zone} {w : Splice}
    (hw : splice? z r = some w) (hq : w.state.splicing = false) : (setArmState e r x st z).splice = z.splice := by
  cases hk : rollAt z (.arm r x) with
  | some k =>
    rw [setArmState_of_roll hk]
    rfl
  | none =>
    have h : setArmState e r x st z = raiseForReel e r .mismatch [.place (.arm r x), .serial (armSerial z r x), .serial 0] z :=
      writeRoll_absent e _ _ _ _ hk
    rw [h, raiseForReel_of_quiet hw hq]
    exact raise_splice ..

/-- A change of state leaves the rest of the record but the deferred set. -/
theorem splice?_setSpliceState {e : Env} {r : Nat} {st : SpliceState} {z : Zone} {w : Splice} (hw : splice? z r = some w) :
    ∃ d, splice? (setSpliceState e r st z) r = some { w with state := st, deferred := d } := by
  by_cases h : w.state.splicing = false ∨ st.splicing = true
  · refine ⟨w.deferred, ?_⟩
    rw [setSpliceState_of_plain hw h, splice?_modSplice, hw]
    rfl
  · obtain ⟨hs, ht⟩ := not_or.mp h
    refine ⟨[], ?_⟩
    rw [setSpliceState_of_leaving hw (by simpa using hs) (by simpa using ht), splice?, tellHeld_splice]
    exact (splice?_modSplice r _ z).trans (by rw [hw]; rfl)

theorem rollAt_of_stock {z t : Zone} (h : t.stock = z.stock) (p : Place) : rollAt t p = rollAt z p := by
  simp only [rollAt, h]

theorem armSerial_of_stock {z t : Zone} (h : t.stock = z.stock) (r : Nat) (x : Arm) : armSerial t r x = armSerial z r x := by
  simp only [armSerial, rollAt_of_stock h]

theorem runningArm_of_splice {z : Zone} {r : Nat} {w : Splice} (hw : splice? z r = some w) : runningArm z r = w.running := by
  simp [runningArm, hw]

/-! ### Failing a splice and the arm swap (R144, R146) -/

/-- The outputs off and the timers stopped. -/
def Splice.outputsOff (s : Splice) : Splice :=
  { s with accelerateOut := false, pasteOut := false, knifeOut := false, matchTimer := none, pasteTimer := none,
           knifeTimer := none }

/-- A splice fails with nothing held: outputs off, timers stopped, press stop on, the fault of its code. -/
theorem enterFailed_eq {e : Env} {r : Nat} {z : Zone} {w : Splice} (hw : splice? z r = some w) (hd : w.deferred = [])
    (code : FaultCode) (cause : SpliceCause) : enterFailed e r code cause z =
      let off := modSplice r (fun w => { w.outputsOff with state := .spliceFailed }) z
      let stop : Zone := { off with splice := { off.splice with pressStop := true } }
      let x := w.running.getD .a
      raise e code [.reelstand r, .arm x, .serial (armSerial z r x), .serial (armSerial z r x.other), .cause cause] stop := by
  have hoff : splice? (modSplice r Splice.outputsOff z) r = some w.outputsOff := by rw [splice?_modSplice, hw]; rfl
  have hset := setSpliceState_of_nothing_held (e := e) (st := .spliceFailed) hoff hd
  rw [modSplice_modSplice] at hset
  have hlast : splice? (modSplice r (fun w => { w.outputsOff with state := .spliceFailed }) z) r =
      some { w.outputsOff with state := .spliceFailed } := by rw [splice?_modSplice, hw]; rfl
  have hrun : ((modSplice r (fun w => { w.outputsOff with state := .spliceFailed }) z).splice.stands.get? r).bind
      (·.running) = w.running := congrArg (fun s : Option Splice => s.bind (·.running)) hlast
  have hset' : setSpliceState e r .spliceFailed (modSplice r (fun s => { s with
      accelerateOut := false, pasteOut := false, knifeOut := false, matchTimer := none, pasteTimer := none,
      knifeTimer := none }) z) = _ := hset
  simp only [enterFailed, hset', runningArm, splice?, hrun]
  rfl

/-- The zone as the arm swap finds it when it reports the new running arm. -/
def armsSwapped (e : Env) (r : Nat) (x : Arm) (cutting : Bool) (z : Zone) : Zone :=
  let z := modSplice r (fun s =>
    { s with accelerateOut := false, running := some x.other, runoutRaised := false, lateRaised := false, inhibited := false })
    (setArmState e r x .butt (setArmState e r x.other .running z))
  if cutting then setSpliceState e r .single z else z

theorem swapArms_eq {e : Env} {r : Nat} {x : Arm} {z : Zone} {w : Splice} (hw : splice? z r = some w)
    (hx : w.running = some x) : swapArms e r z =
      let t := reportRunningArm e r (some x.other) (armsSwapped e r x (w.state = .cutting) z)
      t.push (.requestOrder (buttClearRequest r x (armSerial t r x))) := by
  simp only [swapArms, hw, hx, armsSwapped, decide_eq_true_eq]

/-- In SPLICE_FAILED the swap leaves the state and tells nothing of the splice but the runout. -/
theorem swapArms_failed {e : Env} {r : Nat} {x : Arm} {z : Zone} {w : Splice} (hw : splice? z r = some w)
    (hx : w.running = some x) (hs : w.state = .spliceFailed) : ∃ w', splice? (swapArms e r z) r = some w' ∧
      flagsOnly { w with accelerateOut := false, running := some x.other, runoutRaised := false, lateRaised := false,
                         inhibited := false } w' := by
  have hq : w.state.splicing = false := by rw [hs]; rfl
  have hfirst := setArmState_splice (e := e) (x := x.other) (st := .running) hw hq
  have hw1 : splice? (setArmState e r x.other .running z) r = some w := by rw [splice?, hfirst]; exact hw
  have hw2 : splice? (setArmState e r x .butt (setArmState e r x.other .running z)) r = some w := by
    rw [splice?, setArmState_splice hw1 hq]; exact hw1
  have hw3 : splice? (armsSwapped e r x (w.state = .cutting) z) r = some { w with
      accelerateOut := false, running := some x.other, runoutRaised := false, lateRaised := false, inhibited := false } := by
    have hno : ¬ (decide (w.state = .cutting)) = true := by simp [hs]
    unfold armsSwapped
    dsimp only
    rw [if_neg hno, splice?_modSplice, hw2]
    rfl
  obtain ⟨w', hw', hf⟩ := reportRunningArm_flags e r (some x.other) _ _ hw3 ⟨hq, by simp [hs]⟩
  rw [swapArms_eq hw hx]
  exact ⟨w', hw', hf⟩

/-- As from CUTTING, with a roll on each arm: what the swap leaves for the report of the new running arm. -/
theorem armsSwapped_cutting {e : Env} {r : Nat} {x : Arm} {z : Zone} {w : Splice} {a b : Roll} (hw : splice? z r = some w)
    (ha : rollAt z (.arm r x) = some a) (hb : rollAt z (.arm r x.other) = some b) :
    let t := armsSwapped e r x true z
    t.stock = (setRoll (.arm r x) { a with state := .butt } (setRoll (.arm r x.other) { b with state := .running } z)).stock ∧
      t.reels = z.reels ∧ ∃ d, splice? t r = some { w with
        accelerateOut := false, running := some x.other, runoutRaised := false, lateRaised := false, inhibited := false
        state := .single, deferred := d } := by
  have hb' := setArmState_of_roll (e := e) hb .running
  have ha' : rollAt (setRoll (.arm r x.other) { b with state := .running } z) (.arm r x) = some a := by
    rw [rollAt_setRoll_ne (arm_key_ne_other r x)]
    exact ha
  have hz : armsSwapped e r x true z = setSpliceState e r .single (modSplice r (fun s =>
      { s with accelerateOut := false, running := some x.other, runoutRaised := false, lateRaised := false,
               inhibited := false })
      (setRoll (.arm r x) { a with state := .butt } (setRoll (.arm r x.other) { b with state := .running } z))) := by
    simp only [armsSwapped, if_true, hb', setArmState_of_roll ha']
  simp only
  rw [hz]
  refine ⟨(setSpliceState_driven e r .single _).2.1, (setSpliceState_reels e r .single _), ?_⟩
  obtain ⟨d, hd⟩ := splice?_setSpliceState (e := e) (st := .single) (z := modSplice r (fun s =>
      { s with accelerateOut := false, running := some x.other, runoutRaised := false, lateRaised := false,
               inhibited := false })
      (setRoll (.arm r x) { a with state := .butt } (setRoll (.arm r x.other) { b with state := .running } z)))
    ((splice?_modSplice r _ _).trans (congrArg (Option.map _) hw))
  exact ⟨d, hd⟩

/-! ### Paste and knife (R142, R143) -/

theorem exec_pasteDone {s : State} (ha : s.isActive = true) (r : Nat) :
    exec (.pasteDone r) s = .next (s.endEvent (pasteMade s.env r s.zone)) := congrArg _ (whenActive_active ha _)

theorem exec_pasteTimeout {s : State} (ha : s.isActive = true) (r : Nat) :
    exec (.pasteTimeout r) s = .next (s.endEvent (pasteTimedOut s.env r s.zone)) := congrArg _ (whenActive_active ha _)

theorem exec_knifeFallback {s : State} (ha : s.isActive = true) (r : Nat) :
    exec (.knifeFallback r) s = .next (s.endEvent (knifeFallbackDue s.env r s.zone)) := congrArg _ (whenActive_active ha _)

theorem exec_knifeDone {s : State} (ha : s.isActive = true) (r : Nat) :
    exec (.knifeDone r) s = .next (s.endEvent (knifeMade s.env r s.zone)) := congrArg _ (whenActive_active ha _)

theorem exec_knifeTimeout {s : State} (ha : s.isActive = true) (r : Nat) :
    exec (.knifeTimeout r) s = .next (s.endEvent (knifeTimedOut s.env r s.zone)) := congrArg _ (whenActive_active ha _)

/-- A timer that is not set, has not come, or belongs to another state does nothing. -/
theorem not_timerDue {e : Env} {r : Nat} {z : Zone} {w : Splice} (hw : splice? z r = some w) {st : SpliceState}
    {timer : Splice → Option Time}
    (h : w.state ≠ st ∨ timer w = none ∨ ∃ t, timer w = some t ∧ liesAfter t e.now = true) :
    ¬ timerDue e z r st timer = true := by
  rw [timerDue_iff hw]
  rintro ⟨hs, t, ht, hl⟩
  rcases h with h | h | ⟨t', ht', hl'⟩
  · exact h hs
  · rw [h] at ht; cases ht
  · rw [ht'] at ht; cases ht
    exact absurd (hl'.symm.trans hl) (by decide)

/-- The knife's fallback comes 10 ds after paste done. -/
theorem knifeFallback_due {e : Env} {r : Nat} {z : Zone} {w : Splice} (hw : splice? z r = some w) {t : Time}
    (hs : w.state = .cutting) (ht : w.knifeArmed = some t) (hl : liesAfter (t + 10) e.now = false) :
    timerDue e z r .cutting (fun s => s.knifeArmed.map (· + Config.knifeFallback)) = true :=
  (timerDue_iff hw _ _).mpr ⟨hs, t + Config.knifeFallback, by rw [ht]; rfl, hl⟩

theorem knifeFallback_not_due {e : Env} {r : Nat} {z : Zone} {w : Splice} (hw : splice? z r = some w)
    (h : w.state ≠ .cutting ∨ w.knifeArmed = none ∨ ∃ t, w.knifeArmed = some t ∧ liesAfter (t + 10) e.now = true) :
    ¬ timerDue e z r .cutting (fun s => s.knifeArmed.map (· + Config.knifeFallback)) = true := by
  refine not_timerDue hw ?_
  rcases h with h | h | ⟨t, ht, hl⟩
  · exact Or.inl h
  · exact Or.inr (Or.inl (by rw [h]; rfl))
  · exact Or.inr (Or.inr ⟨t + Config.knifeFallback, by rw [ht]; rfl, hl⟩)

theorem pasteMade_eq {e : Env} {r : Nat} {z : Zone} {w : Splice} (hw : splice? z r = some w) : pasteMade e r z =
    if w.state = .pasting then
      modSplice r (fun s => { s with pasteOut := false, pasteTimer := none, pasteDone := true, knifeArmed := some e.now,
                                     state := .cutting }) (markSplice e r z)
    else if w.state = .spliceFailed ∧ w.pasteFired ∧ !w.pasteDone then
      modSplice r (fun s => { s with pasteDone := true }) (markSplice e r z)
    else z := by
  simp only [pasteMade, hw]

theorem knifeMade_eq {e : Env} {r : Nat} {z : Zone} {w : Splice} (hw : splice? z r = some w) : knifeMade e r z =
    if (w.state = .cutting ∨ w.state = .spliceFailed) ∧ w.knifeFired ∧ !w.knifeDone then
      swapArms e r (modSplice r (fun s => { s with knifeOut := false, knifeTimer := none, knifeDone := true }) z)
    else z := by
  simp only [knifeMade, hw]

/-- Settles O50: paste, knife and their times, the arm swap and the failure of a splice. -/
theorem pasteAndKnife : Obligations.PasteAndKnife := by
  unfold Obligations.PasteAndKnife
  refine ⟨fun r s w ha hw => ?_, fun e r z w x y c a b hw hs hx hy hm hc ha hb => ?_,
    fun e r z w code cause hw hd => enterFailed_eq hw hd code cause⟩
  · have hw' : splice? s.zone r = some w := hw
    simp only
    rw [exec_pasteDone ha, exec_pasteTimeout ha, exec_knifeFallback ha, exec_knifeDone ha, exec_knifeTimeout ha,
      pasteMade_eq hw', knifeMade_eq hw']
    have same : ∀ {z t : Zone}, z = t → Host.Outcome.next (s.endEvent z) = (.next (s.endEvent t) : Host.Outcome State Fault Refusal) :=
      fun h => congrArg _ (congrArg _ h)
    refine ⟨fun hs => same (if_pos hs), fun hs hf hd => same ((if_neg (by simp [hs])).trans (if_pos ⟨hs, hf, by simp [hd]⟩)),
      fun hn h => same ((if_neg hn).trans (if_neg ?_)), fun t hs ht hl => ?_, fun h => ?_, fun t hs ht hl => ?_,
      fun h => ?_, fun hs hf hd => same (if_pos ⟨hs, hf, by simp [hd]⟩), fun h => same (if_neg ?_),
      fun t hs ht hl => ?_, fun h => ?_, fun x hx hs => ?_, fun hd => enterFailed_eq hw' hd .missedPaste .pasteTimer⟩
    · rintro ⟨hs, hf, hd⟩
      rcases h with h | h | h
      · exact h hs
      · exact absurd (h.symm.trans hf) (by decide)
      · simp [h] at hd
    · exact same (if_pos ((timerDue_iff (e := s.env) hw' .pasting Splice.pasteTimer).mpr ⟨hs, t, ht, hl⟩))
    · exact same (if_neg (not_timerDue (e := s.env) (timer := Splice.pasteTimer) hw' h))
    · exact same (if_pos (knifeFallback_due (e := s.env) hw' hs ht hl))
    · exact same (if_neg (knifeFallback_not_due (e := s.env) hw' h))
    · rintro ⟨hs, hf, hd⟩
      rcases h with h | h | h
      · exact h (by simpa using hs)
      · exact absurd (h.symm.trans hf) (by decide)
      · simp [h] at hd
    · exact same (if_pos ((timerDue_iff (e := s.env) hw' .cutting Splice.knifeTimer).mpr ⟨hs, t, ht, hl⟩))
    · exact same (if_neg (not_timerDue (e := s.env) (timer := Splice.knifeTimer) hw' h))
    · obtain ⟨w', hw', hf⟩ := swapArms_failed (e := s.env) hw' hx hs
      have hget : (swapArms s.env r s.zone).splice.stands.get? r = some w' := hw'
      rw [hget]
      obtain ⟨a, b, rfl, hb⟩ := hf
      rw [Option.map_some, hb (by simp [hs]), hs]
  · have hw' : splice? z r = some w := hw
    obtain ⟨hstock, hreels, d, hsp⟩ := armsSwapped_cutting (e := e) hw' ha hb
    have hroll := rollAt_of_stock hstock (.arm r x.other)
    rw [rollAt_setRoll_ne (arm_key_ne_other r x).symm, rollAt_setRoll_same] at hroll
    obtain ⟨w1, hw1, a1, b1, rfl, -⟩ := reportRunningArm_flags e r (some x.other) _ _ hsp ⟨rfl, by simp⟩
    obtain ⟨y1, hy1, hmeas, hother⟩ := reportRunningArm_meas (e := e) (x := x.other) (z := armsSwapped e r x true z)
      ((congrArg (fun t : Tbl Reel => t.get? r) hreels).trans hy) hm hc
    have hst : (reportRunningArm e r (some x.other) (armsSwapped e r x true z)).stock = _ :=
      (reportRunningArm_driven e r (some x.other) _).2.1.trans hstock
    have hbutt := rollAt_of_stock hst (.arm r x)
    rw [rollAt_setRoll_same] at hbutt
    have hcut : decide (w.state = .cutting) = true := by simp [hs]
    simp only
    rw [swapArms_eq hw' hx, hcut]
    simp only
    refine ⟨hbutt, (rollAt_of_stock hst (.arm r x.other)).trans ((rollAt_of_stock hstock _).symm.trans hroll), fun k h1 h2 => ?_,
      ?_, ?_, ⟨_, by rw [armSerial_of_roll hbutt]; rfl⟩⟩
    · refine (congrArg (fun t : Stock => t.rolls.get? k) hst).trans ?_
      simp only [setRoll, Tbl.get?_set, h1, h2, if_false]
    · exact (congrArg (Option.map _) hw1).trans rfl
    · refine (congrArg (Option.map _) hy1).trans ?_
      rw [Option.map_some, hmeas, hroll]
      rw [other_other] at hother
      rw [hother]

end Sys2Proof.Machine

/-! PROOF. O45 (arm events; R136 to R138, R147, R150, R156), O46 (encoder pulses and gates, T, the runout call; R117, R118, R127,
R130, R131) and O48 (revolution indexes; R121 to R128, R142, R143). -/

namespace Sys2Proof.Machine

/-! ### Arm inputs (R135, R138) -/

theorem exec_armOpenChange (r : Nat) (x : Arm) (on : Bool) (s : State) : exec (.armOpenChange r x on) s =
    .next ((s.modReelIns r (·.setOpen x on)).whenActive fun _ z => z) := rfl

theorem exec_rollPresentChange (r : Nat) (x : Arm) (on : Bool) (s : State) : exec (.rollPresentChange r x on) s =
    .next ((s.modReelIns r (·.setPresent x on)).whenActive fun _ z => z) := rfl

theorem exec_armDisagreeTimeout {s : State} (ha : s.isActive = true) (r : Nat) (x : Arm) :
    exec (.armDisagreeTimeout r x) s = .next (s.endEvent (armDisagreed s.env r x s.zone)) :=
  congrArg _ (whenActive_active ha _)

/-- The arm's watch ended. -/
def watchEnded (r : Nat) (x : Arm) (z : Zone) : Zone :=
  { z with splice := { z.splice with watch := z.splice.watch.erase (Place.arm r x).key } }

theorem armDisagreed_due {e : Env} {r : Nat} {x : Arm} {z : Zone} {t : Time}
    (ht : z.splice.watch.get? (Place.arm r x).key = some t) (hl : liesAfter (t + 50) e.now = false) :
    armDisagreed e r x z =
      if rollPresent e r x then
        (if (rollAt z (.arm r x)).isNone then armFound e r x (watchEnded r x z) else watchEnded r x z)
      else if (rollAt z (.arm r x)).isSome then armLost e r x (watchEnded r x z) else watchEnded r x z := by
  refine if_pos ?_
  rw [ht]
  exact congrArg not hl

theorem armDisagreed_early {e : Env} {r : Nat} {x : Arm} {z : Zone}
    (h : z.splice.watch.get? (Place.arm r x).key = none ∨
      ∃ t, z.splice.watch.get? (Place.arm r x).key = some t ∧ liesAfter (t + 50) e.now = true) :
    armDisagreed e r x z = z := by
  refine if_neg ?_
  rcases h with h | ⟨t, ht, hl⟩
  · rw [h]
    exact Bool.false_ne_true
  · rw [ht]
    intro hc
    have hn : (!liesAfter (t + 50) e.now) = true := hc
    rw [hl] at hn
    exact absurd hn (by decide)

/-! ### A roll lost (R138, Table 7-2-1) -/

/-- The record of an arm gone, its reservation released, a BUTT_CLEAR request held for it withdrawn. -/
def armCleared (e : Env) (r : Nat) (x : Arm) (serial : Serial) (z : Zone) : Zone :=
  withdrawButtClear r x (eraseRoll (.arm r x) (release (Place.arm r x).key
    (raiseForReel e r .mismatch [.place (.arm r x), .serial serial] z)))

theorem withdrawButtClear_eq (r : Nat) (x : Arm) (z : Zone) : withdrawButtClear r x z = { z with transfer := { z.transfer with
    heldP := z.transfer.heldP.filter fun q => decide (¬ (q.origin = .buttClear ∧ q.source = .arm r x)) } } := by
  have hf : (fun q : OrderReq => !(q.origin = .buttClear && q.source = .arm r x)) =
      fun q => decide (¬ (q.origin = .buttClear ∧ q.source = .arm r x)) := by
    funext q
    simp only [decide_not, Bool.decide_and]
  simp only [withdrawButtClear, hf]

@[simp] theorem release_splice (key : Nat) (z : Zone) : (release key z).splice = z.splice := by
  unfold release
  split
  · split <;> rfl
  · rfl

theorem release_of_unreserved {key : Nat} {z : Zone} (h : ∀ w, z.stock.rolls.get? key = some w → w.reservation = none) :
    release key z = z := by
  unfold release
  split
  · rename_i w hw
    exact if_neg (by simp [h w hw])
  · rfl

/-- Clearing an arm leaves the splice records but for the fault held. -/
theorem splice_armCleared (e : Env) (r : Nat) (x : Arm) (serial : Serial) (z : Zone) : (armCleared e r x serial z).splice =
    (raiseForReel e r .mismatch [.place (.arm r x), .serial serial] z).splice := release_splice _ _

theorem splice?_armCleared_quiet {e : Env} {r : Nat} {x : Arm} {serial : Serial} {z : Zone} {w : Splice}
    (hw : splice? z r = some w) (hq : w.state.splicing = false) : splice? (armCleared e r x serial z) r = some w := by
  rw [splice?, splice_armCleared, raiseForReel_of_quiet hw hq, raise_splice]
  exact hw

theorem splice?_armCleared_splicing {e : Env} {r : Nat} {x : Arm} {serial : Serial} {z : Zone} {w : Splice}
    (hw : splice? z r = some w) (hs : w.state.splicing = true) : ∃ d, splice? (armCleared e r x serial z) r =
      some { w with deferred := d } := by
  refine ⟨holdFault ⟨.mismatch, e.now, [.place (.arm r x), .serial serial]⟩ w.deferred, ?_⟩
  rw [splice?, splice_armCleared, raiseForReel_of_splicing hw hs]
  exact (splice?_modSplice r _ z).trans (by rw [hw]; rfl)

theorem armLost_eq {e : Env} {r : Nat} {x : Arm} {z : Zone} {w : Splice} {k : Roll} (hw : splice? z r = some w)
    (hk : rollAt z (.arm r x) = some k) : armLost e r x z =
      let z := armCleared e r x k.serial z
      match w.state with
      | .empty | .spliceFailed => z
      | .single =>
        if w.running = some x then
          reportRunningArm e r none (modSplice r (fun s => { s with running := none }) (setSpliceState e r .empty z))
        else z
      | .loaded | .prepared | .accelerating | .matched =>
        let z := modSplice r Splice.dropAcceleration z
        if w.running = some x then threadRunning e r x.other z
        else setSpliceState e r .single (modSplice r (fun s => { s with inhibited := false }) z)
      | .pasting | .cutting => enterFailed e r (failureCode w.state) (.rollPresent x) z := by
  simp only [armLost, hw, armSerial_of_roll hk]
  rfl

/-- An arm lost from LOADED to MATCHED: the standby roll runs, or the reelstand is SINGLE. -/
theorem armLost_standing {e : Env} {r : Nat} {x : Arm} {z : Zone} {w : Splice} {k : Roll} (hw : splice? z r = some w)
    (hk : rollAt z (.arm r x) = some k) (hs : w.state ∈ [SpliceState.loaded, .prepared, .accelerating, .matched]) :
    armLost e r x z =
      let z := modSplice r Splice.dropAcceleration (armCleared e r x k.serial z)
      if w.running = some x then threadRunning e r x.other z
      else setSpliceState e r .single (modSplice r (fun s => { s with inhibited := false }) z) := by
  rw [armLost_eq hw hk]
  cases hst : w.state <;> simp_all

/-- Leaving the splicing states with the set as it then stands. -/
theorem setSpliceState_releasing {e : Env} {r : Nat} {st : SpliceState} {z : Zone} {w : Splice} (hw : splice? z r = some w)
    (hs : w.state.splicing = true) (ht : st.splicing = false) :
    setSpliceState e r st z = releaseDeferred e r (modSplice r (fun s => { s with state := st }) z) :=
  if_pos (by simp [hw, hs, ht])

/-! ### A roll becomes running (R119, R136, R156) -/

/-- The zone as the new running arm is reported in it. -/
def madeRunning (e : Env) (r : Nat) (x : Arm) (z : Zone) : Zone :=
  modSplice r (fun s => { s with running := some x, runoutRaised := false, lateRaised := false, inhibited := false })
    (setSpliceState e r .single (setArmState e r x .running z))

theorem threadRunning_eq (e : Env) (r : Nat) (x : Arm) (z : Zone) : threadRunning e r x z =
    reportRunningRoll e r (armSerial z r x) (reportRunningArm e r (some x) (madeRunning e r x z)) := rfl

theorem madeRunning_of_roll {e : Env} {r : Nat} {x : Arm} {z : Zone} {w : Splice} {k : Roll} (hw : splice? z r = some w)
    (hk : rollAt z (.arm r x) = some k) : driven (setRoll (.arm r x) { k with state := .running } z) (madeRunning e r x z) ∧
      (madeRunning e r x z).reels = z.reels ∧ ∃ d, splice? (madeRunning e r x z) r = some { w with
        state := .single, running := some x, runoutRaised := false, lateRaised := false, inhibited := false, deferred := d } := by
  have hset := setArmState_of_roll (e := e) hk .running
  obtain ⟨d, hd⟩ := splice?_setSpliceState (e := e) (st := .single)
    (z := setRoll (.arm r x) { k with state := .running } z) (w := w) hw
  refine ⟨?_, ?_, d, ?_⟩
  · rw [madeRunning, hset]
    exact setSpliceState_driven e r .single _
  · rw [madeRunning, hset]
    exact setSpliceState_reels e r .single _
  · rw [madeRunning, hset, splice?_modSplice, hd]
    rfl

/-! ### A roll found (R138) -/

theorem standbyArm_iff {z : Zone} {r : Nat} {x : Arm} {w : Splice} (hw : splice? z r = some w) :
    standbyArm z r = x ↔ w.running = some x.other ∨ (w.running = none ∧ x = .a) := by
  rw [standbyArm, runningArm_of_splice hw]
  cases hr : w.running with
  | none => simp [eq_comm]
  | some y => cases x <;> cases y <;> simp [Arm.other]

theorem armFound_eq {e : Env} {r : Nat} {x : Arm} {z : Zone} {w : Splice} (hw : splice? z r = some w) : armFound e r x z =
    if w.state = .empty then threadRunning e r x (setRoll (.arm r x) (unidentified .running) z)
    else if w.state = .single ∧ w.running ≠ some x then
      (becomeLoaded e r x (setRoll (.arm r x) (unidentified .standby) z)).push (.withdrawCall (.runout r))
    else if standbyArm z r = x then setRoll (.arm r x) (unidentified .standby) z
    else setRoll (.arm r x) (unidentified .butt) z := by
  simp only [armFound, hw]

theorem isSome_of_ne_none {α : Type} {o : Option α} (h : o ≠ none) : o.isSome = true := Option.isSome_iff_ne_none.mpr h

/-- Settles O45: the inputs, the watch that has run, and a roll lost or found by splice state. -/
theorem armEvents : Obligations.ArmEvents := by
  unfold Obligations.ArmEvents
  refine ⟨fun r x on s => ?_, fun e r x z w k hw hk => ?_, fun e r x z w y c k v hw hy hm hc hk hv => ?_,
    fun e r x z w hw hk => ?_⟩
  · simp only
    rw [exec_armOpenChange, exec_rollPresentChange]
    refine ⟨fun ha => ⟨?_, ?_⟩, fun ha => ⟨?_, ?_, congrArg _ (whenActive_idle ha _)⟩,
      fun t ha ht hl => ⟨fun y hp hn hy hs => ?_, fun y w hp hw hy hs hx hres => ?_, fun hp hn => ?_, fun hp hn => ?_,
        fun heq => ?_⟩, fun ha h => ?_⟩
    · cases x <;> exact congrArg _ (whenActive_active (by exact ha) _)
    · cases x <;> exact congrArg _ (whenActive_active (by exact ha) _)
    · cases x <;> exact congrArg _ (whenActive_idle (by exact ha) _)
    · cases x <;> exact congrArg _ (whenActive_idle (by exact ha) _)
    · rw [exec_armDisagreeTimeout ha, armDisagreed_due (e := s.env) ht hl, if_pos hp, if_pos (by rw [hn]; rfl),
        armFound_eq (z := watchEnded r x s.zone) hy, if_pos hs]
      rfl
    · have hy' : splice? (watchEnded r x s.zone) r = some y := hy
      have hw' : rollAt (watchEnded r x s.zone) (.arm r x) = some w := hw
      have hq : y.state.splicing = false := by rw [hs]; rfl
      rw [exec_armDisagreeTimeout ha, armDisagreed_due (e := s.env) ht hl, if_neg (by simp [hp]), if_pos (by rw [hw]; rfl),
        armLost_eq hy' hw', hs]
      simp only [if_neg hx]
      rw [armCleared, raiseForReel_of_quiet hy' hq, release_of_unreserved, withdrawButtClear_eq]
      · rfl
      · intro v hv
        rw [raise_stock] at hv
        cases hw.symm.trans hv
        exact hres
    · rw [exec_armDisagreeTimeout ha, armDisagreed_due (e := s.env) ht hl, if_pos hp, if_pos (by rw [hn]; rfl)]
      rfl
    · rw [exec_armDisagreeTimeout ha, armDisagreed_due (e := s.env) ht hl, if_neg (by simp [hp]), if_pos (isSome_of_ne_none hn)]
      rfl
    · rw [exec_armDisagreeTimeout ha, armDisagreed_due (e := s.env) ht hl, heq]
      cases rollAt s.zone (.arm r x) <;> rfl
    · rw [exec_armDisagreeTimeout ha, armDisagreed_early (e := s.env) h]
  · have hw' : splice? z r = some w := hw
    have hcleared : armCleared e r x k.serial z = _ := withdrawButtClear_eq r x _
    simp only
    have hquiet : w.state ∉ [SpliceState.accelerating, .matched, .pasting, .cutting] → w.state.splicing = false :=
      fun h => Bool.eq_false_iff.mpr (mt (splicing_iff _).mp h)
    refine ⟨fun hn => raiseForReel_of_quiet hw' (hquiet hn) _ _, fun hs hd => ?_, fun h => ?_, fun hs hx => ?_,
      fun hs hx => ?_, fun hs hx => ⟨fun hn => ?_, fun hsp => ?_⟩, fun hs => ?_, fun hs => ?_⟩
    · rw [raiseForReel_of_splicing hw' ((splicing_iff _).mpr hs)]
      exact modSplice_congr hw' (by rw [hd]; rfl)
    · rw [armLost_eq hw' hk]
      rcases h with h | h | ⟨h, hx⟩
      · simp only [h]
        exact hcleared
      · simp only [h]
        exact hcleared
      · simp only [h, if_neg hx]
        exact hcleared
    · rw [armLost_eq hw' hk]
      have hq := splice?_armCleared_quiet (e := e) (x := x) (serial := k.serial) hw' (by rw [hs]; rfl)
      simp only [hs, if_pos hx, setSpliceState_of_plain hq (Or.inl (by rw [hs]; rfl)), modSplice_modSplice]
      rw [hcleared]
      rfl
    · rw [armLost_standing hw' hk hs]
      simp only [if_pos hx]
      rw [hcleared]
      rfl
    · have hq := splice?_armCleared_quiet (e := e) (x := x) (serial := k.serial) hw' (hquiet hn)
      rw [armLost_standing hw' hk hs]
      simp only [if_neg hx]
      rw [modSplice_modSplice,
        setSpliceState_of_plain (splice?_modSplice r _ _ |>.trans (congrArg (Option.map _) hq))
          (Or.inl (by exact hquiet hn)), modSplice_modSplice, hcleared]
      rfl
    · obtain ⟨d, hd⟩ := splice?_armCleared_splicing (e := e) (x := x) (serial := k.serial) hw' ((splicing_iff _).mpr hsp)
      rw [armLost_standing hw' hk hs]
      simp only [if_neg hx]
      rw [modSplice_modSplice,
        setSpliceState_releasing (splice?_modSplice r _ _ |>.trans (congrArg (Option.map _) hd))
          ((splicing_iff _).mpr hsp) rfl, modSplice_modSplice, hcleared]
      rfl
    · rw [armLost_eq hw' hk]
      simp only [hs]
      rw [hcleared]
      rfl
    · rw [armLost_eq hw' hk]
      simp only [hs]
      rw [hcleared]
      rfl
  · have hw' : splice? z r = some w := hw
    obtain ⟨hdriven, hreels, d, hsp⟩ := madeRunning_of_roll (e := e) hw' hk
    have hreport := reportRunningArm_driven e r (some x) (madeRunning e r x z)
    obtain ⟨-, hstock, -, hfolder⟩ := hdriven.trans hreport
    obtain ⟨w1, hw1, a, b, rfl, -⟩ := reportRunningArm_flags e r (some x) _ _ hsp ⟨rfl, by simp⟩
    have hroll : rollAt (madeRunning e r x z) (.arm r x) = some { k with state := .running } :=
      (rollAt_of_stock hdriven.2.1 _).trans (rollAt_setRoll_same _ _ _)
    obtain ⟨y1, hy1, hmeas, hother⟩ := reportRunningArm_meas (e := e) (x := x) (z := madeRunning e r x z)
      ((congrArg (fun t : Tbl Reel => t.get? r) hreels).trans hy) hm hc
    simp only
    rw [threadRunning_eq, armSerial_of_roll hk]
    refine ⟨(rollAt_of_stock hstock _).trans (rollAt_setRoll_same _ _ _), fun j hj => ?_, ?_, ?_, ?_⟩
    · refine (congrArg (fun t : Stock => t.rolls.get? j) hstock).trans ?_
      simp only [setRoll, Tbl.get?_set, hj, if_false]
    · exact (congrArg (Option.map _) hw1).trans rfl
    · refine (congrArg (Option.map _) hy1).trans ?_
      rw [Option.map_some, hmeas, hroll, hother]
    · exact congrArg (fun f : Folder => (f.webs.modify r (fun w => w.threaded (webCounter e r) k.serial)).get? r) hfolder
  · have hw' : splice? z r = some w := hw
    simp only
    rw [armFound_eq hw', ← standbyArm_iff hw']
    refine ⟨fun hs => if_pos hs, fun hs hx => ⟨fun hr => ?_, fun hr => ?_⟩, fun hs h => ⟨fun hst => ?_, fun hst => ?_⟩⟩
    · rw [if_neg (by simp [hs]), if_pos ⟨hs, hx⟩, becomeLoaded_of_single hw hs rfl, hr]
      rfl
    · rw [if_neg (by simp [hs]), if_pos ⟨hs, hx⟩, becomeLoaded_of_single hw hs rfl, hr]
      rfl
    · exact (if_neg hs).trans ((if_neg fun hc => h.elim (· hc.1) (hc.2 ·)).trans (if_pos hst))
    · exact (if_neg hs).trans ((if_neg fun hc => h.elim (· hc.1) (hc.2 ·)).trans (if_neg hst))

/-! ### Encoder pulses and gates (R117, R118, R127) -/

theorem measures_iff {s : State} (hh : s.loader.held = false) :
    s.measures = true ↔ s.loader.station = .joining ∨ s.loader.station = .active := by
  simp only [State.measures, State.isIn, hh, Bool.not_false, Bool.true_and, Bool.or_eq_true, decide_eq_true_eq]
  exact or_comm

theorem whenMeasuring_measuring {s : State} (h : s.measures = true) (f : Env → Zone → Zone) :
    s.whenMeasuring f = s.endEvent (f s.env s.zone) := if_pos h

theorem whenMeasuring_idle {s : State} (h : s.measures = false) (f : Env → Zone → Zone) : s.whenMeasuring f = s :=
  if_neg (Bool.eq_false_iff.mp h)

theorem exec_encoderPulse (r : Nat) (s : State) : exec (.encoderPulse r) s = .next (s.encoderPulsed r) := rfl

theorem exec_speedGateEnd (r : Nat) (s : State) : exec (.speedGateEnd r) s = .next (s.gateEnded r) := rfl

theorem exec_missingIndexPoint (r : Nat) (s : State) :
    exec (.missingIndexPoint r) s = .next (s.whenMeasuring fun e z => serveMissingIndex e r z) := rfl

theorem exec_revolutionIndex (r : Nat) (x : Arm) (s : State) :
    exec (.revolutionIndex r x) s = .next (s.whenMeasuring fun e z => revolutionIndexed e r x z) := rfl

theorem gateDue_iff {s : State} {r : Nat} {w : Web} (hm : s.measures = true) (hw : s.webs.get? r = some w) :
    gateDue s r = true ↔ liesAfter (w.gateStart + 1) s.time = false := by
  rw [gateDue, hm, hw]
  simp only [Bool.true_and, Option.any_some, reached, Bool.not_eq_true']

/-- With no missing-index point due a pulse is counted and fed. -/
theorem encoderPulsed_plain {s : State} {r : Nat} (hm : s.measures = true) (hd : missingIndexDue s.env s.zone r = false) :
    s.encoderPulsed r = ({ s.endEvent s.zone with webs := s.webs.modify r Web.pulse } : State).endEvent
      (feedRunning r (s.endEvent s.zone).zone) := by
  have hserve : serveMissingIndex s.env r s.zone = s.zone := if_neg (Bool.eq_false_iff.mp hd)
  have hfirst : (s.onZone fun e z => serveMissingIndex e r z) = s.endEvent s.zone := congrArg s.endEvent hserve
  refine (if_pos hm).trans ?_
  rw [hfirst]
  rfl

/-! ### T and the runout call (R130, R131) -/

theorem recomputeTime_eq {e : Env} {r : Nat} {give : Bool} {z : Zone} {y : Reel} (hy : reel? z r = some y) :
    recomputeTime e r give z =
      let t := y.estimate (webSpeed e r)
      let set := modReel r (fun y => { y with timeToSplice := t }) z
      evalRunoutCall e r (if t ≠ y.timeToSplice ∨ give = true then evalSplice e r set else set) := by
  simp only [recomputeTime, hy, Bool.or_eq_true, decide_eq_true_eq]

theorem runoutCallHolds_iff {e : Env} {r : Nat} {z : Zone} {w : Splice} {c : ReelCfg} (hw : splice? z r = some w)
    (hc : e.img.reel? r = some c) : runoutCallHolds e r z = true ↔ c.webInUse = true ∧
      (∃ x, w.running = some x ∧ rollAt z (.arm r x) ≠ none ∧ rollAt z (.arm r x.other) = none) ∧
      timeToSplice z r ≤ c.horizon ∧ 100 ≤ webSpeed e r ∧ z.supply.calls.get? (Need.runout r).key = none := by
  unfold runoutCallHolds
  rw [hc, runningArm_of_splice hw]
  cases hr : w.running with
  | none => simp
  | some x =>
    simp only [Bool.and_eq_true, decide_eq_true_eq, Bool.not_eq_true', Tbl.has, Option.isSome_iff_ne_none,
      Option.isNone_iff_eq_none, Option.isSome_eq_false_iff, Option.some.injEq]
    constructor
    · rintro ⟨⟨⟨⟨⟨hu, ha⟩, hb⟩, hT⟩, hv⟩, hn⟩
      exact ⟨hu, ⟨x, rfl, ha, hb⟩, hT, hv, hn⟩
    · rintro ⟨hu, ⟨_, rfl, ha, hb⟩, hT, hv, hn⟩
      exact ⟨⟨⟨⟨⟨hu, ha⟩, hb⟩, hT⟩, hv⟩, hn⟩

/-- Settles O46: pulses and gates by the station state; T and the runout call conditions. -/
theorem encoderCounts : Obligations.EncoderCounts := by
  unfold Obligations.EncoderCounts
  refine ⟨fun r s hh => ⟨fun hs => ?_, fun hs hd => ?_, fun w hs hw => ⟨fun hl => ?_, fun hl => ?_⟩⟩,
    fun e r z y hy => ?_, fun e r z w c hw hc => ?_⟩
  · have hm : s.measures = false := by
      rw [Bool.eq_false_iff, ne_eq, measures_iff hh]
      rcases hs with h | h <;> simp [h]
    rw [exec_encoderPulse, exec_speedGateEnd, exec_missingIndexPoint, whenMeasuring_idle hm]
    refine ⟨congrArg _ (if_neg (Bool.eq_false_iff.mp hm)), congrArg _ (if_neg (by simp [gateDue, hm])), rfl, fun x => ?_⟩
    rw [exec_revolutionIndex, whenMeasuring_idle hm]
  · rw [exec_encoderPulse, encoderPulsed_plain ((measures_iff hh).mpr hs) hd]
    refine congrArg (fun f => Host.Outcome.next
      (({ s.endEvent s.zone with webs := s.webs.modify r Web.pulse } : State).endEvent (modReel r f (s.endEvent s.zone).zone))) ?_
    funext y
    cases y.running <;> rfl
  · exact congrArg _ (if_pos ((gateDue_iff ((measures_iff hh).mpr hs) hw).mpr hl))
  · refine congrArg _ (if_neg fun h => ?_)
    exact absurd (hl.symm.trans ((gateDue_iff ((measures_iff hh).mpr hs) hw).mp h)) (by decide)
  · have hy' : reel? z r = some y := hy
    simp only
    rw [recomputeTime_eq hy', recomputeTime_eq hy']
    refine ⟨fun h => ?_, fun h => ?_, ?_⟩
    · exact congrArg (evalRunoutCall e r) (if_neg fun hc => hc.elim (· h) (fun hc => absurd hc (by decide)))
    · exact congrArg (evalRunoutCall e r) (if_pos (Or.inl h))
    · exact congrArg (evalRunoutCall e r) (if_pos (Or.inr rfl))
  · have hiff := runoutCallHolds_iff (e := e) (z := z) hw hc
    simp only
    refine ⟨fun h => if_neg (mt hiff.mp h), fun h hs => ?_, fun h hs hm => ?_, fun h hs hm => ?_⟩
    · refine (if_pos (hiff.mpr h)).trans ?_
      rw [hs]
      rfl
    · refine (if_pos (hiff.mpr h)).trans ?_
      rw [hs]
      exact if_pos (by simpa using hm)
    · refine (if_pos (hiff.mpr h)).trans ?_
      rw [hs]
      exact if_neg (by simpa using hm)

/-! ### Revolution points (R121, R125, R128) -/

theorem modReel_congr {r : Nat} {z : Zone} {y : Reel} (hy : reel? z r = some y) {f g : Reel → Reel} (h : f y = g y) :
    modReel r f z = modReel r g z := by
  have : z.reels.modify r f = z.reels.modify r g :=
    Tbl.modify_congr _ _ _ _ fun v hv => by cases hy.symm.trans hv; exact h
  simp only [modReel, this]

theorem raiseForReel_reels (e : Env) (r : Nat) (code : FaultCode) (context : List CtxElem) (z : Zone) :
    (raiseForReel e r code context z).reels = z.reels := by
  unfold raiseForReel
  split
  · rfl
  · exact raise_reels ..

theorem writeRemaining_reels (e : Env) (r : Nat) (x : Arm) (m : Meas) (z : Zone) :
    (writeRemaining e r x m z).reels = z.reels := by
  unfold writeRemaining writeRoll
  split
  · rfl
  · split
    · dsimp only
      split
      · rfl
      · exact raiseForReel_reels ..
    · exact raiseForReel_reels ..

theorem lengthChanged_eq {e : Env} {r : Nat} {x : Arm} {z : Zone} {y : Reel} (hy : reel? z r = some y) :
    lengthChanged e r x z =
      let z1 := lengthGiven e r (setTime e r (writeRemaining e r x (y.meas x) z))
      evalRunoutCall e r (if y.estimate (webSpeed e r) ≠ y.timeToSplice then evalSplice e r z1 else z1) := by
  simp only [lengthChanged, hy]

/-- What follows a change of L_rem moves of the reelstand's record T alone. -/
theorem lengthChanged_meas {e : Env} {r : Nat} {x : Arm} {z : Zone} {y : Reel} (hy : reel? z r = some y) :
    ∃ t, reel? (lengthChanged e r x z) r = some { y with timeToSplice := t } := by
  refine ⟨y.estimate (webSpeed e r), ?_⟩
  have hset : reel? (setTime e r (writeRemaining e r x (y.meas x) z)) r =
      some { y with timeToSplice := y.estimate (webSpeed e r) } := by
    rw [reel?_setTime, reel?, writeRemaining_reels]
    exact congrArg (Option.map _) hy
  rw [lengthChanged_eq hy]
  dsimp only
  rw [reel?, evalRunoutCall_reels]
  split
  · rw [evalSplice_reels, lengthGiven_reels]
    exact hset
  · rw [lengthGiven_reels]
    exact hset

/-- The fault of a third reject, told before what follows the point (R125). -/
def pointTold (e : Env) (r : Nat) (x : Arm) (old new : Meas) (z : Zone) : Zone :=
  if old.state ≠ .deadReckoning ∧ new.state = .deadReckoning then raiseDeadReckoning e r x new z else z

theorem pointTold_reels (e : Env) (r : Nat) (x : Arm) (old new : Meas) (z : Zone) :
    (pointTold e r x old new z).reels = z.reels := by
  unfold pointTold
  split
  · exact raiseForReel_reels ..
  · rfl

theorem revolutionPoint_eq {e : Env} {r : Nat} {missing : Bool} {z : Zone} {y : Reel} {c : ReelCfg} {x : Arm}
    (hy : reel? z r = some y) (hc : e.img.reel? r = some c) (hx : y.running = some x) : revolutionPoint e r missing z =
      let old := y.meas x
      let new := old.point c.core (webCounter e r) missing
      let told := pointTold e r x old new (modReel r (fun y => y.setMeas x new) z)
      if new.remaining ≠ old.remaining then lengthChanged e r x told else told := by
  simp only [revolutionPoint, hy, hc, hx, pointTold]

/-- A point writes the running arm's record, and T may follow. -/
theorem revolutionPoint_meas {e : Env} {r : Nat} {missing : Bool} {z : Zone} {y : Reel} {c : ReelCfg} {x : Arm}
    (hy : reel? z r = some y) (hc : e.img.reel? r = some c) (hx : y.running = some x) :
    ∃ t, reel? (revolutionPoint e r missing z) r =
      some { y.setMeas x ((y.meas x).point c.core (webCounter e r) missing) with timeToSplice := t } := by
  have htold : reel? (pointTold e r x (y.meas x) ((y.meas x).point c.core (webCounter e r) missing)
      (modReel r (fun y' => y'.setMeas x ((y.meas x).point c.core (webCounter e r) missing)) z)) r =
      some (y.setMeas x ((y.meas x).point c.core (webCounter e r) missing)) := by
    rw [reel?, pointTold_reels]
    exact (reel?_modReel r _ z).trans (by rw [hy]; rfl)
  rw [revolutionPoint_eq hy hc hx]
  dsimp only
  split
  · exact lengthChanged_meas htold
  · exact ⟨_, htold⟩

/-- A reading leaves the reference, and a record in use in use. -/
theorem read_reference_state (m : Meas) (core x : Nat) : (m.read core x).1.reference = m.reference ∧
    (m.state ≠ .noRoll → (m.read core x).1.state ≠ .noRoll) := by
  have hrej : (m.reject x).state = if m.rejects + 1 = 3 then .deadReckoning else m.state := rfl
  have hseed : (m.acceptSeeded core x).reference = m.reference ∧
      (m.state ≠ .noRoll → (m.acceptSeeded core x).state ≠ .noRoll) := by
    unfold Meas.acceptSeeded
    dsimp only
    split
    · cases m.seed <;> exact ⟨rfl, fun _ => by simp [Meas.formAverage]⟩
    · exact ⟨rfl, id⟩
  have hreject : (m.reject x).reference = m.reference ∧ (m.state ≠ .noRoll → (m.reject x).state ≠ .noRoll) := by
    refine ⟨rfl, fun h => ?_⟩
    rw [hrej]
    split
    · decide
    · exact h
  unfold Meas.read
  split
  · split
    · exact hreject
    · exact hseed
  · split
    · exact hreject
    · split
      · exact ⟨rfl, id⟩
      · exact hreject
  · exact ⟨rfl, id⟩

theorem point_reference_state (m : Meas) (core : Nat) (counter : WebPos) (missing : Bool) :
    (m.point core counter missing).reference = some counter ∧
      (m.state ≠ .noRoll → (m.point core counter missing).state ≠ .noRoll) := by
  unfold Meas.point
  dsimp only
  split
  · exact ⟨rfl, id⟩
  · exact read_reference_state { m.recount with reference := some counter } core _

theorem running_timeToSplice (y : Reel) (t : Nat) : ({ y with timeToSplice := t } : Reel).running = y.running := rfl

/-- An arm in use that stays in use stays the running arm. -/
theorem running_setMeas {y : Reel} {x : Arm} (hx : y.running = some x) {m : Meas} (hm : m.state ≠ .noRoll) :
    (y.setMeas x m).running = some x := by
  cases x with
  | a => simp [Reel.running, Reel.setMeas, hm]
  | b =>
    by_cases ha : y.measA.state = .noRoll
    · simp [Reel.running, Reel.setMeas, hm, ha]
    · rw [Reel.running, if_pos ha] at hx
      cases hx

theorem meas_of_running {y : Reel} {x : Arm} (hx : y.running = some x) : (y.meas x).state ≠ .noRoll := by
  unfold Reel.running at hx
  split at hx
  · cases hx; assumption
  · split at hx
    · cases hx; assumption
    · cases hx

theorem missingIndexDue_iff {e : Env} {r : Nat} {z : Zone} {y : Reel} (hy : reel? z r = some y) :
    missingIndexDue e z r = true ↔ ∃ a ref, y.running = some a ∧ (y.meas a).reference = some ref ∧
      6001 ≤ (webCounter e r - ref).toNat := by
  simp only [missingIndexDue, runningMeas, hy, Option.bind_some]
  cases y.running with
  | none => simp
  | some a =>
    have hle : ∀ ref, decide (Config.missingIndex ≤ (webCounter e r - ref).toNat) = true ↔
        6001 ≤ (webCounter e r - ref).toNat := fun ref => decide_eq_true_iff
    simp only [Option.map_some, Option.any_some, Option.any_eq_true, hle, Option.some.injEq]
    exact ⟨fun ⟨ref, h⟩ => ⟨a, ref, rfl, h⟩, fun ⟨_, ref, rfl, h⟩ => ⟨ref, h⟩⟩

/-- After a point no missing-index point is due. -/
theorem serveMissingIndex_after {e : Env} {r : Nat} {missing : Bool} {z : Zone} {y : Reel} {c : ReelCfg} {x : Arm}
    (hy : reel? z r = some y) (hc : e.img.reel? r = some c) (hx : y.running = some x) :
    serveMissingIndex e r (revolutionPoint e r missing z) = revolutionPoint e r missing z := by
  obtain ⟨t, ht⟩ := revolutionPoint_meas (e := e) (missing := missing) hy hc hx
  obtain ⟨href, hst⟩ := point_reference_state (y.meas x) c.core (webCounter e r) missing
  refine if_neg fun hd => ?_
  obtain ⟨a, ref, ha, hr, hle⟩ := (missingIndexDue_iff ht).mp hd
  rw [running_timeToSplice, running_setMeas hx (hst (meas_of_running hx))] at ha
  obtain rfl := Option.some.inj ha
  rw [meas_timeToSplice, setMeas_meas, href] at hr
  obtain rfl := Option.some.inj hr
  simp at hle

/-! ### A point leaves the knife as it was (R143) -/

/-- CUTTING is neither entered nor left, and the knife stays armed or not. -/
def keepsCut (r : Nat) (z t : Zone) : Prop :=
  ∀ w, splice? z r = some w → ∃ w', splice? t r = some w' ∧ (w'.state = .cutting ↔ w.state = .cutting) ∧
    w'.knifeArmed = w.knifeArmed

theorem keepsCut.of_splice {r : Nat} {z t : Zone} (h : t.splice = z.splice) : keepsCut r z t := fun w hw =>
  ⟨w, by rw [splice?, h]; exact hw, Iff.rfl, rfl⟩

theorem keepsCut.trans {r : Nat} {z t u : Zone} (h : keepsCut r z t) (h' : keepsCut r t u) : keepsCut r z u := by
  intro w hw
  obtain ⟨w', hw', hs, hk⟩ := h w hw
  obtain ⟨w'', hw'', hs', hk'⟩ := h' w' hw'
  exact ⟨w'', hw'', hs'.trans hs, hk'.trans hk⟩

/-- A change of the splice record that moves neither CUTTING nor the knife. -/
theorem keepsCut.of_modSplice {r : Nat} {z : Zone} {f : Splice → Splice} (h : ∀ w, splice? z r = some w →
    ((f w).state = .cutting ↔ w.state = .cutting) ∧ (f w).knifeArmed = w.knifeArmed) : keepsCut r z (modSplice r f z) :=
  fun w hw => ⟨f w, by rw [splice?_modSplice, hw]; rfl, h w hw⟩

theorem raiseForReel_keepsCut (e : Env) (r : Nat) (code : FaultCode) (context : List CtxElem) (z : Zone) :
    keepsCut r z (raiseForReel e r code context z) := by
  unfold raiseForReel
  split
  · exact .of_modSplice fun w _ => ⟨Iff.rfl, rfl⟩
  · exact .of_splice (raise_splice ..)

theorem evalPaste_keepsCut (z : Zone) (r : Nat) : keepsCut r z (evalPaste z r) := by
  unfold evalPaste
  split
  · exact .of_modSplice fun w _ => ⟨Iff.rfl, rfl⟩
  · exact .of_splice rfl

theorem setSpliceState_keepsCut {e : Env} {r : Nat} {st : SpliceState} {z : Zone} (hst : st ≠ .cutting)
    (h : ∀ w, splice? z r = some w → w.state ≠ .cutting) : keepsCut r z (setSpliceState e r st z) := by
  intro w hw
  obtain ⟨d, hd⟩ := splice?_setSpliceState (e := e) (st := st) hw
  exact ⟨_, hd, iff_of_false hst (h w hw), rfl⟩

/-- The runout marked and the press stop request on. -/
def runoutStopped (r : Nat) (z : Zone) : Zone :=
  { modSplice r (fun s => { s with runoutRaised := true }) z with
    splice := { (modSplice r (fun s => { s with runoutRaised := true }) z).splice with pressStop := true } }

/-- What the runout leaves before its fault: an acceleration falls to PREPARED. -/
def runoutFallen (e : Env) (r : Nat) (z : Zone) : Zone :=
  if (splice? z r).any (fun s => s.state.splicing) then
    setSpliceState e r .prepared (modSplice r (fun s => { s.dropAcceleration with inhibited := true }) (runoutStopped r z))
  else runoutStopped r z

theorem evalRunout_of_due {e : Env} {r : Nat} {z : Zone} (h : runoutDue r z = true) : evalRunout e r z =
    let t := runoutFallen e r z
    raise e .runout [.reelstand r, .arm ((runningArm t r).getD .a), .serial (runningSerial t r)] t := if_pos h

theorem splice?_runoutStopped (r : Nat) (z : Zone) : splice? (runoutStopped r z) r =
    (splice? z r).map fun s => { s with runoutRaised := true } := splice?_modSplice r _ z

/-- A runout is never raised in CUTTING. -/
theorem evalRunout_keepsCut (e : Env) (r : Nat) (z : Zone) : keepsCut r z (evalRunout e r z) := by
  cases hdue : runoutDue r z with
  | false =>
    rw [show evalRunout e r z = z from if_neg (Bool.eq_false_iff.mp hdue)]
    exact .of_splice rfl
  | true =>
    have hno : ∀ w, splice? z r = some w → w.state ≠ .cutting := by
      intro w hw hs
      simp [runoutDue, hw, hs] at hdue
    have hstop : keepsCut r z (runoutStopped r z) := fun w hw =>
      ⟨{ w with runoutRaised := true }, by rw [splice?_runoutStopped, hw]; rfl, Iff.rfl, rfl⟩
    have hdrop : keepsCut r (runoutStopped r z)
        (modSplice r (fun s => { s.dropAcceleration with inhibited := true }) (runoutStopped r z)) :=
      .of_modSplice fun w _ => ⟨Iff.rfl, rfl⟩
    have hfallen : keepsCut r z (runoutFallen e r z) := by
      unfold runoutFallen
      split
      · refine hstop.trans (hdrop.trans (setSpliceState_keepsCut (by decide) fun w hw => ?_))
        rw [splice?_modSplice, splice?_runoutStopped, Option.map_map] at hw
        obtain ⟨w0, hw0, rfl⟩ := Option.map_eq_some_iff.mp hw
        exact hno w0 hw0
      · exact hstop
    rw [evalRunout_of_due hdue]
    exact hfallen.trans (.of_splice (raise_splice ..))

theorem enterMatched_keepsCut {r : Nat} {z : Zone} (h : ∀ w, splice? z r = some w → w.state ≠ .cutting) :
    keepsCut r z (enterMatched r z) :=
  (keepsCut.of_modSplice (f := fun s => { s with state := .matched, matchTimer := none })
    fun w hw => ⟨iff_of_false (by simp) (h w hw), rfl⟩).trans (evalPaste_keepsCut _ r)

/-- Acceleration starts from PREPARED, a late roll is of SINGLE. -/
theorem evalSplice_keepsCut (e : Env) (r : Nat) (z : Zone) : keepsCut r z (evalSplice e r z) := by
  unfold evalSplice
  split
  next hmay =>
    have hprep : ∀ w, splice? z r = some w → w.state ≠ .cutting := by
      intro w hw hs
      have := ((mayAccelerate_iff hw).mp (Bool.and_eq_true_iff.mp hmay).1).1
      exact absurd (hs.symm.trans this) (by decide)
    have hacc : keepsCut r z (modSplice r (fun s => { s with
        accelerateOut := true, pasteFired := false, knifeFired := false, pasteDone := false, knifeDone := false,
        matchTimer := some (e.now + Config.matchTime), state := .accelerating }) z) :=
      .of_modSplice fun w hw => ⟨iff_of_false (by simp) (hprep w hw), rfl⟩
    rw [startAcceleration_eq]
    dsimp only
    split
    · refine hacc.trans (enterMatched_keepsCut fun w hw => ?_)
      rw [splice?_modSplice] at hw
      obtain ⟨w0, -, rfl⟩ := Option.map_eq_some_iff.mp hw
      simp
    · exact hacc
  · split
    · exact (keepsCut.of_splice (raise_splice ..)).trans (.of_modSplice fun w _ => ⟨Iff.rfl, rfl⟩)
    · exact .of_splice rfl

theorem writeRemaining_keepsCut (e : Env) (r : Nat) (x : Arm) (m : Meas) (z : Zone) :
    keepsCut r z (writeRemaining e r x m z) := by
  unfold writeRemaining writeRoll
  split
  · exact .of_splice rfl
  · split
    · dsimp only
      split
      · exact .of_splice rfl
      · exact (raiseForReel_keepsCut e r _ _ z).trans (.of_splice rfl)
    · exact raiseForReel_keepsCut e r _ _ z

theorem lengthChanged_keepsCut (e : Env) (r : Nat) (x : Arm) (z : Zone) : keepsCut r z (lengthChanged e r x z) := by
  cases hy : reel? z r with
  | none =>
    have h : lengthChanged e r x z = z := by simp only [lengthChanged, hy]
    rw [h]
    exact .of_splice rfl
  | some y =>
    rw [lengthChanged_eq hy]
    have hset : ∀ z, keepsCut r z (setTime e r z) := fun z => .of_splice rfl
    have hlen : keepsCut r z (lengthGiven e r (setTime e r (writeRemaining e r x (y.meas x) z))) :=
      (writeRemaining_keepsCut e r x _ z).trans ((hset _).trans ((evalPaste_keepsCut _ r).trans (evalRunout_keepsCut e r _)))
    dsimp only
    split
    · exact hlen.trans ((evalSplice_keepsCut e r _).trans (.of_splice (evalRunoutCall_splice e r _)))
    · exact hlen.trans (.of_splice (evalRunoutCall_splice e r _))

theorem revolutionPoint_keepsCut {e : Env} {r : Nat} {missing : Bool} {z : Zone} {y : Reel} {c : ReelCfg} {x : Arm}
    (hy : reel? z r = some y) (hc : e.img.reel? r = some c) (hx : y.running = some x) :
    keepsCut r z (revolutionPoint e r missing z) := by
  have hmod : ∀ f, keepsCut r z (modReel r f z) := fun f => .of_splice rfl
  have htold : ∀ old new f, keepsCut r z (pointTold e r x old new (modReel r f z)) := by
    intro old new f
    unfold pointTold
    split
    · exact (hmod f).trans (raiseForReel_keepsCut e r _ _ _)
    · exact hmod f
  rw [revolutionPoint_eq hy hc hx]
  dsimp only
  split
  · exact (htold _ _ _).trans (lengthChanged_keepsCut e r x _)
  · exact htold _ _ _

/-! ### Revolution indexes (R121, R142, R143) -/

/-- An index with no missing-index point due. -/
theorem revolutionIndexed_served {e : Env} {r : Nat} {x : Arm} {z : Zone} (h : serveMissingIndex e r z = z) :
    revolutionIndexed e r x z =
      if (reel? z r).any (fun y => y.running = some x) then
        let z := revolutionPoint e r false z
        if (splice? z r).any (fun s => s.state = .cutting && s.knifeArmed.isSome) then fireKnife e r z else z
      else if (splice? z r).any (fun s => s.state = .matched && s.pasteArmed && s.running = some x.other) &&
          pasteWanted z r then firePaste e r z
      else z := by
  simp only [revolutionIndexed, h]

theorem firesPaste_iff {r : Nat} {x : Arm} {z : Zone} {y : Reel} {w : Splice} (hy : reel? z r = some y)
    (hw : splice? z r = some w) :
    ((splice? z r).any (fun s => s.state = .matched && s.pasteArmed && s.running = some x.other) && pasteWanted z r) = true ↔
      w.state = .matched ∧ w.pasteArmed = true ∧ w.running = some x.other ∧
        (w.manual = true ∨ ∃ a, y.running = some a ∧ (y.meas a).remaining ≤ (y.meas a).spliceLength) := by
  have hy' : z.reels.get? r = some y := hy
  rw [Bool.and_eq_true, pasteWanted_iff hw, hw]
  simp [hy', and_assoc]

/-- Settles O48: a missing point first, then the index by the arm it is of, and what a point does. -/
theorem revolutionIndexTaken : Obligations.RevolutionIndexTaken := by
  unfold Obligations.RevolutionIndexTaken
  refine ⟨fun r x s hm => ?_, fun e r x z y c w hy hc hw => ⟨fun hd => ?_, fun hd => ?_, fun a missing ha => ?_⟩,
    fun e r a z y hy => ?_⟩
  · rw [exec_revolutionIndex, exec_missingIndexPoint, whenMeasuring_measuring hm, whenMeasuring_measuring hm]
    exact ⟨rfl, rfl⟩
  · obtain ⟨a, -, ha, -⟩ := id hd
    have hserve : serveMissingIndex e r z = revolutionPoint e r true z := if_pos ((missingIndexDue_iff hy).mpr hd)
    refine ⟨hserve, ?_⟩
    rw [revolutionIndexed_served (serveMissingIndex_after hy hc ha)]
    simp only [revolutionIndexed, hserve]
  · have hserve : serveMissingIndex e r z = z := if_neg (mt (missingIndexDue_iff hy).mp hd)
    have hy' : reel? z r = some y := hy
    have hw' : splice? z r = some w := hw
    refine ⟨hserve, fun hx => ?_, fun hx => ?_⟩
    · obtain ⟨w', hpoint, hcut, hknife⟩ := revolutionPoint_keepsCut (e := e) (missing := false) hy hc hx w hw
      have hidx : revolutionIndexed e r x z =
          if w'.state = .cutting ∧ w'.knifeArmed.isSome = true then fireKnife e r (revolutionPoint e r false z)
          else revolutionPoint e r false z := by
        rw [revolutionIndexed_served hserve, if_pos (by simp [hy', hx])]
        simp only [hpoint, Option.any_some, Bool.and_eq_true, decide_eq_true_eq]
      rw [hidx]
      refine ⟨fun h => if_neg ?_, fun hs hk => if_pos ⟨hcut.mpr hs, hknife ▸ isSome_of_ne_none hk⟩⟩
      rintro ⟨hs, hk⟩
      rcases h with h | h
      · exact h (hcut.mp hs)
      · rw [hknife, h] at hk; cases hk
    · have hidx := revolutionIndexed_served (x := x) hserve
      rw [if_neg (by simp [hy', hx])] at hidx
      rw [hidx]
      exact ⟨fun h => if_pos ((firesPaste_iff hy hw).mpr h), fun h => if_neg (mt (firesPaste_iff hy hw).mp h)⟩
  · have hw' : splice? z r = some w := hw
    simp only
    rw [revolutionPoint_eq hy hc ha]
    simp only [pointTold]
    by_cases hs : w.state ∈ [SpliceState.accelerating, .matched, .pasting, .cutting]
    · have hraise : ∀ m f, raiseDeadReckoning e r a m (modReel r f z) = modSplice r (fun s => { s with
          deferred := holdFault ⟨.deadReckoning, e.now, [.reelstand r, .arm a, .serial (armSerial z r a)] ++
            (m.average.map CtxElem.number).toList ++ (m.lastRejected.map CtxElem.number).toList⟩ s.deferred })
          (modReel r f z) := fun m f =>
        raiseForReel_of_splicing (z := modReel r f z) hw' ((splicing_iff _).mpr hs) _ _
      rw [hraise, if_pos hs]
      rfl
    · have hraise : ∀ m f, raiseDeadReckoning e r a m (modReel r f z) = raise e .deadReckoning
          ([.reelstand r, .arm a, .serial (armSerial z r a)] ++
            (m.average.map CtxElem.number).toList ++ (m.lastRejected.map CtxElem.number).toList) (modReel r f z) := fun m f =>
        raiseForReel_of_quiet (z := modReel r f z) hw' (Bool.eq_false_iff.mpr (mt (splicing_iff _).mp hs)) _ _
      rw [hraise, if_neg hs]
      rfl
  · have hset : ∀ z', reel? z' r = some y → setTime e r z' =
        modReel r (fun y' => { y' with timeToSplice := y.estimate (webSpeed e r) }) z' := fun z' hz' => modReel_congr hz' rfl
    have hlen := lengthChanged_eq (e := e) (x := a) hy
    rw [hset _ ((congrArg (fun t : Tbl Reel => t.get? r) (writeRemaining_reels e r a (y.meas a) z)).trans hy)] at hlen
    simp only
    refine ⟨fun h0 => ?_, fun k h0 hk hks => ?_, fun h0 hn hq => ?_⟩
    · have hwrite : writeRemaining e r a (y.meas a) z = z := if_pos h0
      rw [hlen, hwrite]
      rfl
    · have hwrite : writeRemaining e r a (y.meas a) z = setRoll (.arm r a)
          { k with data := k.data.map fun d => { d with remaining := (y.meas a).remaining / 1000 } } z := by
        refine (if_neg h0).trans ?_
        rw [← hks, writeRoll_agrees e _ _ _ _ hk]
      rw [hlen, hwrite]
      rfl
    · have hwrite : writeRemaining e r a (y.meas a) z =
          raise e .mismatch [.place (.arm r a), .serial (y.meas a).serial, .serial 0] z := by
        refine (if_neg h0).trans ((writeRoll_absent e _ _ _ _ hn).trans ?_)
        cases hw : splice? z r with
        | none => simp [raiseMismatch, raiseForReel, hw]
        | some w => exact raiseForReel_of_quiet hw (Bool.eq_false_iff.mpr (mt (splicing_iff _).mp (hq w hw))) _ _
      rw [hlen, hwrite]
      rfl

end Sys2Proof.Machine

/-! PROOF. O47: T (R130), revolution points and the lengths there (R121 to R128), seedings (R119, R120) and the runout (R147). -/

namespace Sys2Proof.Machine

/-! ### T (R130) -/

theorem estimate_of_running {y : Reel} {x : Arm} (hx : y.running = some x) (v : Nat) : y.estimate v =
    let m := y.meas x
    if v < 100 then 65535
    else if m.seed = .unseeded ∧ (m.state = .seeded ∨ m.state = .deadReckoning) then 65535
    else if m.remaining ≤ m.spliceLength then 0
    else min 65534 ((m.remaining - m.spliceLength) * 10 / v) := by
  rw [Reel.estimate, hx]

theorem estimate_of_idle {y : Reel} (hx : y.running = none) (v : Nat) : y.estimate v = 65535 := by
  rw [Reel.estimate, hx]

theorem estimate_le (y : Reel) (v : Nat) : y.estimate v ≤ 65535 := by
  cases hx : y.running with
  | none => rw [estimate_of_idle hx]
  | some x =>
    rw [estimate_of_running hx]
    dsimp only
    split
    · exact Nat.le_refl _
    · split
      · exact Nat.le_refl _
      · split
        · omega
        · omega

/-! ### Readings (R121 to R125) -/

/-- A reading that is rejected: out of range, or in MEASURING outside the band about the average. -/
@[reducible] def badReading (m : Meas) (core x : Nat) : Prop :=
  6000 < x ∨ x ≤ core ∨ (m.state = .measuring ∧ ∀ c, m.average = some c → ¬ (c - c / 16 ≤ x ∧ x ≤ c + c / 64))

theorem outOfRange_iff (core x : Nat) : outOfRange core x = true ↔ 6000 < x ∨ x ≤ core := by
  rw [outOfRange, Bool.or_eq_true]
  exact or_congr decide_eq_true_iff decide_eq_true_iff

theorem inBand_iff (c x : Nat) : inBand c x = true ↔ c - c / 16 ≤ x ∧ x ≤ c + c / 64 := by
  rw [inBand, Bool.and_eq_true, decide_eq_true_iff, decide_eq_true_iff]

theorem inBand_any (m : Meas) (x : Nat) : (m.average.any fun c => inBand c x) = true ↔
    ¬ ∀ c, m.average = some c → ¬ (c - c / 16 ≤ x ∧ x ≤ c + c / 64) := by
  rw [Option.any_eq_true]
  push Not
  exact exists_congr fun c => and_congr_right fun _ => inBand_iff c x

theorem read_rejected {m : Meas} {core x : Nat} (hs : m.state = .seeded ∨ m.state = .measuring) (hb : badReading m core x) :
    m.read core x = (m.reject x, false) := by
  unfold Meas.read
  rcases hs with hs | hs
  · have hr : outOfRange core x = true := (outOfRange_iff core x).mpr (by
      rcases hb with h | h | ⟨h, -⟩
      · exact Or.inl h
      · exact Or.inr h
      · rw [hs] at h; cases h)
    rw [hs]
    exact if_pos hr
  · rw [hs]
    dsimp only
    split
    · rfl
    next hr =>
      refine if_neg fun hband => ?_
      rcases hb with h | h | ⟨-, h⟩
      · exact hr ((outOfRange_iff core x).mpr (Or.inl h))
      · exact hr ((outOfRange_iff core x).mpr (Or.inr h))
      · exact (inBand_any m x).mp hband h

theorem read_accepted_seeded {m : Meas} {core x : Nat} (hs : m.state = .seeded) (hb : ¬ badReading m core x) :
    m.read core x = (m.acceptSeeded core x, true) := by
  unfold Meas.read
  rw [hs]
  exact if_neg fun hr => hb (((outOfRange_iff core x).mp hr).imp id Or.inl)

theorem read_accepted_measuring {m : Meas} {core x : Nat} (hs : m.state = .measuring) (hb : ¬ badReading m core x) :
    m.read core x = (m.acceptMeasuring core x, true) := by
  unfold Meas.read
  rw [hs]
  refine (if_neg fun hr => hb (((outOfRange_iff core x).mp hr).imp id Or.inl)).trans (if_pos ?_)
  exact (inBand_any m x).mpr fun h => hb (Or.inr (Or.inr ⟨hs, h⟩))

theorem read_unused {m : Meas} {core x : Nat} (hs : m.state = .noRoll ∨ m.state = .deadReckoning) :
    m.read core x = (m, false) := by
  unfold Meas.read
  rcases hs with hs | hs <;> rw [hs]

/-- Fewer than four readings: one more. -/
theorem acceptSeeded_gathering {m : Meas} {core x : Nat} (h : m.readings.length ≠ 3) :
    m.acceptSeeded core x = { m with readings := m.readings ++ [x], rejects := 0 } :=
  if_neg (by simpa using h)

/-- The fourth reading forms the average, and gives an UNSEEDED record its length to count from. -/
theorem acceptSeeded_fourth {m : Meas} {core x : Nat} (h : m.readings.length = 3) :
    m.acceptSeeded core x =
      let c := (m.readings ++ [x]).sum / 4
      { m with readings := m.readings ++ [x], rejects := 0, average := some c
               measLength := some (lengthAt core m.caliper c), state := .measuring, seed := .fromRecord
               loadLength := if m.seed = .unseeded then lengthAt core m.caliper c else m.loadLength
               fed := if m.seed = .unseeded then 0 else m.fed } := by
  refine (if_pos (by simp [h])).trans ?_
  cases hs : m.seed <;> simp [Meas.formAverage, hs]

theorem acceptMeasuring_eq (m : Meas) (core x : Nat) : m.acceptMeasuring core x =
    let c := (m.readings.tail ++ [x]).sum / 4
    { m with readings := m.readings.tail ++ [x], rejects := 0, average := some c
             measLength := some (lengthAt core m.caliper c) } := rfl

/-! ### Revolution points on a record (R121, R127, R128) -/

/-- The record as a point finds it: L_count computed anew, the reference at the web counter. -/
def Meas.atPoint (m : Meas) (counter : WebPos) : Meas :=
  { m with countLength := m.loadLength - m.fed, reference := some counter }

theorem point_first {m : Meas} (h : m.reference = none) (core : Nat) (counter : WebPos) (missing : Bool) :
    m.point core counter missing = (m.atPoint counter).lower ((m.atPoint counter).source false) := by
  simp only [Meas.point, Meas.recount, h]
  rfl

theorem point_reading {m : Meas} {ref : WebPos} (h : m.reference = some ref) (core : Nat) (counter : WebPos)
    (missing : Bool) : m.point core counter missing =
      let read := (m.atPoint counter).read core (if missing then 6001 else (counter - ref).toNat)
      read.1.lower (read.1.source read.2) := by
  simp only [Meas.point, Meas.recount, h]
  rfl

theorem lower_remaining_le (m : Meas) (source : Option Nat) : (m.lower source).remaining ≤ m.remaining := by
  cases source with
  | none => exact Nat.le_refl _
  | some s => exact Nat.min_le_left _ _

/-- The source in SEEDED and DEAD_RECKONING is L_count, once there is a length to count from. -/
theorem lower_counting {m : Meas} (hs : m.state = .seeded ∨ m.state = .deadReckoning) (accepted : Bool) :
    (m.lower (m.source accepted)).remaining =
      if m.seed = .fromRecord then min m.remaining m.countLength else m.remaining := by
  rcases hs with hs | hs <;> by_cases hf : m.seed = .fromRecord <;> simp [Meas.lower, Meas.source, hs, hf]

theorem lower_measured {m : Meas} (hs : m.state = .measuring) : (m.lower (m.source true)).remaining =
    match m.measLength with
    | some s => min m.remaining s
    | none => m.remaining := by
  cases hm : m.measLength <;> simp [Meas.lower, Meas.source, hs, hm]

theorem lower_unmeasured {m : Meas} (hs : m.state = .noRoll ∨ m.state = .measuring) :
    (m.lower (m.source false)).remaining = m.remaining := by
  rcases hs with hs | hs <;> simp [Meas.lower, Meas.source, hs]

/-- What a reading keeps of a record, whatever it is. -/
theorem read_keeps (m : Meas) (core x : Nat) :
    let p := (m.read core x).1
    p.remaining = m.remaining ∧ p.reference = m.reference ∧ p.countLength = m.countLength ∧ p.caliper = m.caliper ∧
      p.spliceLength = m.spliceLength ∧ p.minLength = m.minLength ∧
      (m.seed = .fromRecord → p.seed = .fromRecord ∧ p.fed = m.fed ∧ p.loadLength = m.loadLength) := by
  have hused : m.state = .seeded ∨ m.state = .measuring ∨ m.state = .noRoll ∨ m.state = .deadReckoning := by
    cases m.state <;> simp
  by_cases hb : badReading m core x
  · rcases hused with hs | hs | hs
    · rw [read_rejected (Or.inl hs) hb]
      exact ⟨rfl, rfl, rfl, rfl, rfl, rfl, fun h => ⟨h, rfl, rfl⟩⟩
    · rw [read_rejected (Or.inr hs) hb]
      exact ⟨rfl, rfl, rfl, rfl, rfl, rfl, fun h => ⟨h, rfl, rfl⟩⟩
    · rw [read_unused hs]
      exact ⟨rfl, rfl, rfl, rfl, rfl, rfl, fun h => ⟨h, rfl, rfl⟩⟩
  · rcases hused with hs | hs | hs
    · rw [read_accepted_seeded hs hb]
      by_cases h3 : m.readings.length = 3
      · rw [acceptSeeded_fourth h3]
        exact ⟨rfl, rfl, rfl, rfl, rfl, rfl, fun h => ⟨rfl, by simp [h], by simp [h]⟩⟩
      · rw [acceptSeeded_gathering h3]
        exact ⟨rfl, rfl, rfl, rfl, rfl, rfl, fun h => ⟨h, rfl, rfl⟩⟩
    · rw [read_accepted_measuring hs hb, acceptMeasuring_eq]
      exact ⟨rfl, rfl, rfl, rfl, rfl, rfl, fun h => ⟨h, rfl, rfl⟩⟩
    · rw [read_unused hs]
      exact ⟨rfl, rfl, rfl, rfl, rfl, rfl, fun h => ⟨h, rfl, rfl⟩⟩

/-- What a point keeps, and that it never raises L_rem. -/
theorem point_keeps (m : Meas) (core : Nat) (counter : WebPos) (missing : Bool) :
    let p := m.point core counter missing
    p.remaining ≤ m.remaining ∧ p.reference = some counter ∧
      (m.seed = .fromRecord → p.seed = .fromRecord ∧ p.fed = m.fed ∧ p.loadLength = m.loadLength) ∧
      p.countLength = m.loadLength - m.fed ∧ p.caliper = m.caliper ∧ p.spliceLength = m.spliceLength ∧
      p.minLength = m.minLength := by
  cases href : m.reference with
  | none =>
    rw [point_first href]
    exact ⟨lower_remaining_le _ _, rfl, fun h => ⟨h, rfl, rfl⟩, rfl, rfl, rfl, rfl⟩
  | some ref =>
    rw [point_reading href]
    obtain ⟨hrem, hr, hcount, hcal, hsp, hmin, hseed⟩ :=
      read_keeps (m.atPoint counter) core (if missing then 6001 else (counter - ref).toNat)
    exact ⟨(lower_remaining_le _ _).trans_eq hrem, hr, hseed, hcount, hcal, hsp, hmin⟩

/-! ### Seedings (R119, R120) -/

theorem seeded_withLength {m : Meas} {c : ReelCfg} {roll : Option Roll} {d : RollData} (hd : roll.bind Roll.data = some d)
    (h : 0 < d.remaining) : m.seeded c roll = ({ Meas.initial with
      serial := (roll.map Roll.serial).getD 0, state := .seeded, totalRejects := m.totalRejects, seed := .fromRecord
      caliper := d.caliper, loadLength := d.remaining * 1000, countLength := d.remaining * 1000
      remaining := min (d.remaining * 1000) Config.lengthMax } : Meas).withLimits c := by
  simp only [Meas.seeded, hd, if_pos h]

theorem seeded_withoutLength {m : Meas} {c : ReelCfg} {roll : Option Roll}
    (h : roll.bind Roll.data = none ∨ ∃ d, roll.bind Roll.data = some d ∧ d.remaining = 0) :
    m.seeded c roll = ({ Meas.initial with
      serial := (roll.map Roll.serial).getD 0, state := .seeded, totalRejects := m.totalRejects
      caliper := c.caliper, remaining := Config.lengthMax } : Meas).withLimits c := by
  rcases h with h | ⟨d, hd, h0⟩
  · simp only [Meas.seeded, h]
  · simp only [Meas.seeded, hd, h0, Nat.lt_irrefl, if_false]

/-! ### The runout (R147) -/

theorem runoutDue_iff {r : Nat} {z : Zone} {y : Reel} {w : Splice} {x : Arm} (hy : reel? z r = some y)
    (hw : splice? z r = some w) (hx : y.running = some x) : runoutDue r z = true ↔
      (y.meas x).remaining ≤ (y.meas x).minLength ∧ w.runoutRaised = false ∧ w.state ≠ .pasting ∧ w.state ≠ .cutting := by
  simp [runoutDue, runningMeas, hy, hx, hw, and_assoc]

theorem runningSerial_of {z t : Zone} {r : Nat} (hrun : runningArm t r = runningArm z r) (hstock : t.stock = z.stock) :
    runningSerial t r = runningSerial z r := by
  simp only [runningSerial, hrun]
  cases runningArm z r with
  | none => rfl
  | some x => exact armSerial_of_stock hstock r x

/-- The runout once its record and its zone are known to keep arm and rolls. -/
theorem evalRunout_fault {e : Env} {r : Nat} {z t : Zone} {w w' : Splice} (hdue : runoutDue r z = true)
    (ht : runoutFallen e r z = t) (hw : splice? z r = some w) (hw' : splice? t r = some w')
    (hrun : w'.running = w.running) (hstock : t.stock = z.stock) : evalRunout e r z =
      raise e .runout [.reelstand r, .arm (w.running.getD .a), .serial (runningSerial z r)] t := by
  have harm : runningArm t r = runningArm z r := by rw [runningArm_of_splice hw', runningArm_of_splice hw, hrun]
  rw [evalRunout_of_due hdue]
  simp only
  rw [ht, runningSerial_of harm hstock, runningArm_of_splice hw', hrun]

/-- Settles O47: T, the readings and lengths of a point, a seeding, and the runout. -/
theorem estimatesAndMeasurements : Obligations.EstimatesAndMeasurements := by
  unfold Obligations.EstimatesAndMeasurements
  refine ⟨fun y v => ⟨fun hx => estimate_of_idle hx v, fun x hx => ?_, estimate_le y v⟩, fun m core counter missing => ?_,
    ⟨fun m c roll => ?_, fun e r z y w x hy hw hx => ?_⟩, fun m core counter missing => ?_,
    fun core caliper x => ⟨fun h => if_pos h, fun h => if_neg (Nat.not_le.mpr h)⟩⟩
  · simp only
    rw [estimate_of_running hx]
    refine ⟨fun h => if_pos h, fun h hs hst => (if_neg (Nat.not_lt.mpr h)).trans (if_pos ⟨hs, hst⟩), fun h hs => ?_⟩
    have hn : ¬ ((y.meas x).seed = .unseeded ∧ ((y.meas x).state = .seeded ∨ (y.meas x).state = .deadReckoning)) := by
      rintro ⟨hu, hst⟩
      rcases hs with hs | ⟨h1, h2⟩
      · exact hs hu
      · exact hst.elim h1 h2
    exact ⟨fun hl => (if_neg (Nat.not_lt.mpr h)).trans ((if_neg hn).trans (if_pos hl)),
      fun hl => (if_neg (Nat.not_lt.mpr h)).trans ((if_neg hn).trans (if_neg (Nat.not_le.mpr hl)))⟩
  · obtain ⟨hrem, href, hseed, hcount, hcal, hsp, hmin⟩ := point_keeps m core counter missing
    simp only
    refine ⟨hrem, href, hseed, hcount, hcal, hsp, hmin, fun h => ?_, fun ref h hs => ⟨fun hb => ?_, fun hb => ?_⟩, fun hs => ?_⟩
    · rw [point_first h]
      exact ⟨rfl, rfl, rfl⟩
    · rw [point_reading h, read_rejected (m := m.atPoint counter) hs hb]
      exact ⟨rfl, rfl, rfl, rfl, rfl, rfl⟩
    · rcases hs with hs | hs
      · have hread := read_accepted_seeded (m := m.atPoint counter) hs hb
        by_cases h3 : m.readings.length = 3
        · rw [acceptSeeded_fourth (m := m.atPoint counter) h3] at hread
          rw [point_reading h, hread]
          exact ⟨rfl, rfl, fun hm => absurd (hs.symm.trans hm) (by decide),
            fun _ => ⟨rfl, fun hn => absurd h3 hn, fun _ => ⟨rfl, rfl, rfl⟩⟩⟩
        · rw [acceptSeeded_gathering (m := m.atPoint counter) h3] at hread
          rw [point_reading h, hread]
          exact ⟨rfl, rfl, fun hm => absurd (hs.symm.trans hm) (by decide),
            fun _ => ⟨rfl, fun _ => ⟨hs, rfl⟩, fun hn => absurd hn h3⟩⟩
      · rw [point_reading h, read_accepted_measuring (m := m.atPoint counter) hs hb]
        exact ⟨rfl, rfl, fun _ => ⟨rfl, rfl, hs⟩, fun hm => absurd (hs.symm.trans hm) (by decide)⟩
    · cases h : m.reference with
      | none =>
        rw [point_first h]
        exact ⟨rfl, rfl, rfl⟩
      | some ref =>
        rw [point_reading h, read_unused (m := m.atPoint counter) hs]
        exact ⟨rfl, rfl, rfl⟩
  · have hdata : ∀ d, roll.bind Roll.data = some d → 0 < d.remaining → (match roll.bind Roll.data with
        | some d => if 0 < d.remaining then d.caliper else c.caliper
        | none => c.caliper) = d.caliper := by
      intro d hd h
      simp only [hd, if_pos h]
    have hnodata : (roll.bind Roll.data = none ∨ ∃ d, roll.bind Roll.data = some d ∧ d.remaining = 0) →
        (match roll.bind Roll.data with
        | some d => if 0 < d.remaining then d.caliper else c.caliper
        | none => c.caliper) = c.caliper := by
      rintro (h | ⟨d, hd, h0⟩)
      · simp only [h]
      · simp only [hd, h0, Nat.lt_irrefl, if_false]
    by_cases hlen : ∃ d, roll.bind Roll.data = some d ∧ 0 < d.remaining
    · obtain ⟨d, hd, h⟩ := hlen
      have hcal := hdata d hd h
      simp only
      rw [seeded_withLength hd h]
      refine ⟨rfl, rfl, rfl, rfl, rfl, rfl, rfl, rfl, rfl, hcal.symm, ?_, ?_, fun d' hd' _ => ?_, fun hn => ?_⟩
      · exact congrArg (fun k => lengthAt c.core k c.splice) hcal.symm
      · exact congrArg (fun k => lengthAt c.core k c.margin) hcal.symm
      · obtain rfl := Option.some.inj (hd.symm.trans hd')
        exact ⟨rfl, rfl, rfl⟩
      · rcases hn with hn | ⟨d', hd', h0⟩
        · rw [hd] at hn; cases hn
        · obtain rfl := Option.some.inj (hd.symm.trans hd')
          omega
    · have hn : roll.bind Roll.data = none ∨ ∃ d, roll.bind Roll.data = some d ∧ d.remaining = 0 := by
        cases hd : roll.bind Roll.data with
        | none => exact Or.inl rfl
        | some d => exact Or.inr ⟨d, rfl, Nat.eq_zero_of_not_pos fun h => hlen ⟨d, hd, h⟩⟩
      have hcal := hnodata hn
      simp only
      rw [seeded_withoutLength hn]
      refine ⟨rfl, rfl, rfl, rfl, rfl, rfl, rfl, rfl, rfl, hcal.symm, ?_, ?_, fun d hd h => absurd ⟨d, hd, h⟩ hlen,
        fun _ => ⟨rfl, rfl, rfl⟩⟩
      · exact congrArg (fun k => lengthAt c.core k c.splice) hcal.symm
      · exact congrArg (fun k => lengthAt c.core k c.margin) hcal.symm
  · have hw' : splice? z r = some w := hw
    have hdue := runoutDue_iff hy hw' hx
    have hstopped : splice? (runoutStopped r z) r = some { w with runoutRaised := true } := by
      rw [splice?_runoutStopped, hw']; rfl
    simp only
    refine ⟨fun h => if_neg (mt hdue.mp h), fun h hs => ?_, fun h hs hd => ?_⟩
    · have hq : w.state.splicing = false := by
        rw [Bool.eq_false_iff, ne_eq, splicing_iff]
        obtain ⟨-, -, hp, hc⟩ := h
        simp only [List.mem_cons, List.not_mem_nil, or_false, not_or] at hs ⊢
        exact ⟨hs.1, hs.2, hp, hc⟩
      have hfallen : runoutFallen e r z = runoutStopped r z := if_neg (by simp [hw', hq])
      exact evalRunout_fault (hdue.mpr h) hfallen hw' hstopped rfl rfl
    · have hsp : w.state.splicing = true := (splicing_iff _).mpr (by
        simp only [List.mem_cons, List.not_mem_nil, or_false] at hs ⊢
        exact hs.imp id Or.inl)
      have hdropped : splice? (modSplice r (fun s => { s.dropAcceleration with inhibited := true }) (runoutStopped r z)) r =
          some { ({ w with runoutRaised := true } : Splice).dropAcceleration with inhibited := true } := by
        rw [splice?_modSplice, hstopped]; rfl
      have hfallen : runoutFallen e r z = modSplice r (fun s =>
          { s.dropAcceleration with inhibited := true, state := .prepared }) (runoutStopped r z) := by
        refine (if_pos (by simp [hw', hsp])).trans ?_
        rw [setSpliceState_of_nothing_held hdropped hd, modSplice_modSplice]
      have hlast : splice? (modSplice r (fun s =>
          { s.dropAcceleration with inhibited := true, state := .prepared }) (runoutStopped r z)) r =
          some { ({ w with runoutRaised := true } : Splice).dropAcceleration with inhibited := true, state := .prepared } := by
        rw [splice?_modSplice, hstopped]; rfl
      rw [evalRunout_fault (hdue.mpr h) hfallen hw' hlast rfl rfl]
      have hmerge : modSplice r (fun s => { s.dropAcceleration with inhibited := true, state := .prepared }) (runoutStopped r z) =
          { modSplice r (fun w =>
              { w with runoutRaised := true, accelerateOut := false, matchTimer := none, pasteArmed := false, manual := false,
                       inhibited := true, state := .prepared }) z with
            splice := { (modSplice r (fun w =>
              { w with runoutRaised := true, accelerateOut := false, matchTimer := none, pasteArmed := false, manual := false,
                       inhibited := true, state := .prepared }) z).splice with pressStop := true } } := by
        simp only [runoutStopped, modSplice, Tbl.modify_modify]
        rfl
      rw [hmerge]
      rfl
  · simp only
    have hplain : (m.atPoint counter).countLength = m.loadLength - m.fed := rfl
    refine ⟨fun hs => ?_, fun hs => ?_, fun h => ?_, fun ref h => ⟨fun hs hb => ?_, fun hs hb h3 => ?_, fun hs hb => ?_,
      fun hs hb => ?_⟩⟩
    · cases h : m.reference with
      | none =>
        rw [point_first h]
        exact lower_unmeasured (m := m.atPoint counter) (Or.inl hs)
      | some ref =>
        rw [point_reading h, read_unused (m := m.atPoint counter) (Or.inl hs)]
        exact lower_unmeasured (m := m.atPoint counter) (Or.inl hs)
    · cases h : m.reference with
      | none =>
        rw [point_first h]
        exact ⟨lower_counting (m := m.atPoint counter) (Or.inr hs) false, rfl⟩
      | some ref =>
        rw [point_reading h, read_unused (m := m.atPoint counter) (Or.inr hs)]
        exact ⟨lower_counting (m := m.atPoint counter) (Or.inr hs) false, rfl⟩
    · rw [point_first h]
      exact ⟨rfl, fun hs => lower_counting (m := m.atPoint counter) (Or.inl hs) false,
        fun hs => lower_unmeasured (m := m.atPoint counter) (Or.inr hs)⟩
    · by_cases hbad : badReading m core (if missing then 6001 else (counter - ref).toNat)
      · rw [point_reading h, read_rejected (m := m.atPoint counter) (Or.inl hs) hbad]
        refine ⟨lower_counting (m := (m.atPoint counter).reject _) ?_ false, rfl⟩
        by_cases h3 : m.rejects + 1 = 3
        · exact Or.inr (if_pos h3)
        · exact Or.inl ((if_neg h3).trans hs)
      · have h3 : m.readings.length ≠ 3 := hb.resolve_left hbad
        rw [point_reading h, read_accepted_seeded (m := m.atPoint counter) hs hbad,
          acceptSeeded_gathering (m := m.atPoint counter) h3]
        exact ⟨lower_counting (m := { m.atPoint counter with readings := m.readings ++ [_], rejects := 0 }) (Or.inl hs) true, rfl⟩
    · rw [point_reading h, read_accepted_seeded (m := m.atPoint counter) hs hb, acceptSeeded_fourth (m := m.atPoint counter) h3]
      exact ⟨rfl, rfl, fun hu => ⟨if_pos hu, if_pos hu⟩⟩
    · rw [point_reading h, read_rejected (m := m.atPoint counter) (Or.inr hs) hb]
      refine ⟨rfl, ?_⟩
      by_cases h3 : m.rejects + 1 = 3
      · rw [show (((m.atPoint counter).reject _).lower (((m.atPoint counter).reject _).source false)).remaining = _ from
          lower_counting (m := (m.atPoint counter).reject _) (Or.inr (if_pos h3)) false]
        by_cases hf : m.seed = .fromRecord
        · exact (if_pos hf).trans (if_pos ⟨h3, hf⟩).symm
        · exact (if_neg hf).trans (if_neg fun hc => hf hc.2).symm
      · rw [show (((m.atPoint counter).reject _).lower (((m.atPoint counter).reject _).source false)).remaining = _ from
          lower_unmeasured (m := (m.atPoint counter).reject _) (Or.inr ((if_neg h3).trans hs))]
        exact (if_neg fun hc => h3 hc.1).symm
    · rw [point_reading h, read_accepted_measuring (m := m.atPoint counter) hs hb]
      exact ⟨rfl, lower_measured (m := (m.atPoint counter).acceptMeasuring core _) hs⟩

end Sys2Proof.Machine

/-! PROOF. The frames of the supply protocol: offers and their rank (R101), takes (R107), answers (R104) and withdrawals
(R109), and the frames of waste and lot alerts (R67, R163). -/

namespace Sys2Proof.Machine

/-! ### Frames taken and frames malformed (R191) -/

/-- Two events that leave the same zone end alike. -/
theorem event_congr {s : State} {z w : Zone} (h : z = w) :
    (Host.Outcome.next (s.endEvent z) : Host.Outcome State Fault Refusal) = .next (s.endEvent w) := by rw [h]

/-- Two frames that leave the same zone end alike. -/
theorem frame_congr {s : State} {h : Header} {z w : Zone} (hz : z = w) :
    (Host.Outcome.next (s.endFrame h z) : Host.Outcome State Fault Refusal) = .next (s.endFrame h w) := by rw [hz]

/-- The zone with one more malformed frame. -/
def malformedCounted (z : Zone) : Zone := { z with line := { z.line with malformed := min 65535 (z.line.malformed + 1) } }

/-- A taken frame that the block finds malformed is counted. -/
theorem hearBody_malformed {s : State} {h : Header} {b : Body} {take : State → State} (ht : s.takes h (bodyKind b) = true)
    (hw : b.wf = true) (hr : (bodyKind b).cls ≠ .report) (hm : take s.heardState = s.heardState.countMalformed) :
    s.hearBody h b take = s.endFrame h (malformedCounted s.heard) := by
  rw [hearBody_of_takes take ht hw hr, hm]
  rfl

/-- A taken frame whose block works on the zone. -/
theorem hearBody_work {s : State} {h : Header} {b : Body} {take : State → State} (f : Env → Zone → Zone)
    (ht : s.takes h (bodyKind b) = true) (hw : b.wf = true) (hr : (bodyKind b).cls ≠ .report)
    (hf : take s.heardState = s.heardState.within f) :
    s.hearBody h b take = s.endFrame h (f s.env s.heard) := by
  rw [hearBody_of_takes take ht hw hr, hf]
  rfl

/-! ### ROLL OFFER (R101) -/

/-- An offer's place in the order of Table 5-2-1, as numbers: a roll that is ready comes first. -/
theorem Offer.before_iff (a b : Offer) : a.before b = true ↔
    a.estimate < b.estimate ∨ a.estimate = b.estimate ∧
      ((!a.ready).toNat < (!b.ready).toNat ∨ (!a.ready).toNat = (!b.ready).toNat ∧
        (a.remaining < b.remaining ∨ a.remaining = b.remaining ∧ a.station < b.station)) := by
  cases ha : a.ready <;> cases hb : b.ready <;> grind [Offer.before]

theorem Offer.before_trans {a b c : Offer} (hab : a.before b = true) (hbc : b.before c = true) : a.before c = true := by
  rw [Offer.before_iff] at *
  omega

theorem Offer.before_asymm {a b : Offer} (hab : a.before b = true) : b.before a = false := by
  refine Bool.eq_false_iff.mpr fun hba => ?_
  rw [Offer.before_iff] at hab hba
  omega

theorem insertOffer_perm (o : Offer) (l : List Offer) : (insertOffer o l).Perm (o :: l) := by
  induction l with
  | nil => exact .refl _
  | cons a t ih =>
    rw [insertOffer]
    split
    · exact .refl _
    · exact (ih.cons a).trans (.swap o a t)

/-- The rank order survives an insertion: what stands behind the place taken does not rank before the offer, for it would
rank before the one it follows. -/
theorem insertOffer_sorted (o : Offer) (l : List Offer) (hl : l.Pairwise fun a b => b.before a = false) :
    (insertOffer o l).Pairwise fun a b => b.before a = false := by
  induction l with
  | nil => exact List.pairwise_singleton _ _
  | cons a t ih =>
    obtain ⟨ha, ht⟩ := List.pairwise_cons.mp hl
    rw [insertOffer]
    split
    · rename_i hoa
      refine List.pairwise_cons.mpr ⟨fun y hy => Bool.eq_false_iff.mpr fun hyo => ?_, hl⟩
      rcases List.mem_cons.mp hy with rfl | hy
      · exact absurd hyo (by simp [Offer.before_asymm hoa])
      · exact absurd (Offer.before_trans hyo hoa) (by simp [ha y hy])
    · rename_i hoa
      refine List.pairwise_cons.mpr ⟨fun y hy => ?_, ih ht⟩
      rcases List.mem_cons.mp ((insertOffer_perm o t).mem_iff.mp hy) with rfl | hy
      · exact Bool.eq_false_iff.mpr hoa
      · exact ha y hy

theorem takeOffer_again {c : Call} {o : Offer} (h : ∃ y ∈ c.offers, y.station = o.station) : c.takeOffer o = c :=
  if_pos (by simpa using h)

theorem takeOffer_room {c : Call} {o : Offer} (h : ∀ y ∈ c.offers, y.station ≠ o.station) (hn : c.offers.length < 6) :
    c.takeOffer o = { c with offers := insertOffer o c.offers } :=
  (if_neg (by simpa using h)).trans (if_pos hn)

theorem takeOffer_full {c : Call} {o y : Offer} (h : ∀ y ∈ c.offers, y.station ≠ o.station) (hn : 6 ≤ c.offers.length)
    (hy : worstOffer c = some y) :
    c.takeOffer o = if o.before y then { c with offers := insertOffer o (c.offers.filter (· ≠ y)) } else c := by
  refine (if_neg (by simpa using h)).trans ((if_neg (by simpa [Config.callOffers] using hn)).trans ?_)
  rw [hy]

/-- What an offer for the call of a number does: it is placed while the call collects or takes. -/
def offerTaken (n : Nat) (o : Offer) (z : Zone) : Zone :=
  match callNumbered z n with
  | some c => if c.state = .collecting ∨ c.state = .taking then setCall (c.takeOffer o) z else z
  | none => z

theorem exec_rollOffer (h : Header) {call : Byte} (x : Serial) (m : BitVec 24) (est : BitVec 16) (f : Byte) {s : State}
    (ht : s.takes h .rollOffer = true) (hc : call ≠ 0) :
    exec (.rollOffer h call x m est f) s =
      .next (s.endFrame h (offerTaken call.toNat (offerOf h x m est f) s.heard)) :=
  congrArg _ (hearBody_work (fun _ z => offerTaken call.toNat (offerOf h x m est f) z) ht rfl
    (by simp [bodyKind, Kind.cls]) (if_neg hc))

theorem offerTaken_ignored {n : Nat} {o : Offer} {z : Zone}
    (h : ∀ c, callNumbered z n = some c → c.state ≠ .collecting ∧ c.state ≠ .taking) : offerTaken n o z = z := by
  unfold offerTaken
  cases hc : callNumbered z n with
  | none => rfl
  | some c => exact if_neg fun hs => hs.elim (h c hc).1 (h c hc).2

theorem offerTaken_placed {n : Nat} (o : Offer) {z : Zone} {c : Call} (hc : callNumbered z n = some c)
    (hs : c.state = .collecting ∨ c.state = .taking) : offerTaken n o z = setCall (c.takeOffer o) z := by
  unfold offerTaken
  rw [hc]
  exact if_pos hs

/-- Settles O19. -/
theorem rollOfferTaken : Obligations.RollOfferTaken := by
  refine ⟨?_, fun o l hl => ⟨insertOffer_sorted o l hl, insertOffer_perm o l⟩⟩
  intro h call x m est f s ht z o t
  have hexec (hc : call ≠ 0) : t = .next (s.endFrame h (offerTaken call.toNat o z)) :=
    exec_rollOffer h x m est f ht hc
  refine ⟨fun hc => congrArg _ (hearBody_malformed ht rfl (by simp [bodyKind, Kind.cls]) (if_pos hc)),
    fun hc hno => by rw [hexec hc, offerTaken_ignored hno], ?_⟩
  intro c hc hcall hs
  rw [hexec hc, offerTaken_placed o hcall hs]
  exact ⟨fun hy => by rw [takeOffer_again hy], fun hy hn => by rw [takeOffer_room hy hn],
    fun hy hn y hw => by rw [takeOffer_full hy hn hw]⟩

/-! ### TAKE ANSWER (R104) -/

/-- The call that a TAKE ANSWER speaks of: in TAKING or CONFIRMED, its chosen offer the one answered. -/
def answeredCall (z : Zone) (sender call : Nat) (serial : Serial) : Option Call :=
  (callNumbered z call).filter fun c =>
    (c.state = .taking || c.state = .confirmed) && c.chosen.any fun o => o.station = sender && o.serial = serial

theorem answeredCall_iff (z : Zone) (sender call : Nat) (serial : Serial) (c : Call) :
    answeredCall z sender call serial = some c ↔ callNumbered z call = some c ∧ (c.state = .taking ∨ c.state = .confirmed) ∧
      ∃ o, c.chosen = some o ∧ o.station = sender ∧ o.serial = serial := by
  simp [answeredCall, Option.filter_eq_some_iff, Option.any_eq_true]

theorem answerTaken_eq (e : Env) (sender call : Nat) (serial : Serial) (confirmed : Bool) (z : Zone) :
    answerTaken e sender call serial confirmed z =
      match answeredCall z sender call serial, confirmed with
      | some c, true => if c.state = .taking then setCall { c with state := .confirmed } z else z
      | some c, false => dropChosen e c z
      | none, true => offer e (callWithdrawFrame sender call) z
      | none, false => z := by
  unfold answerTaken answeredCall
  rfl

theorem exec_takeAnswer (h : Header) {call r : Byte} (x : Serial) {s : State} (ht : s.takes h .takeAnswer = true)
    (hc : call ≠ 0) (hr : r = 1 ∨ r = 2) :
    exec (.takeAnswer h call x r) s =
      .next (s.endFrame h (answerTaken s.env h.sender.toNat call.toNat x (r = 1) s.heard)) :=
  congrArg _ (hearBody_work (fun e z => answerTaken e h.sender.toNat call.toNat x (r = 1) z) ht rfl
    (by simp [bodyKind, Kind.cls]) (if_neg (by rcases hr with rfl | rfl <;> simpa using hc)))

theorem dropChosen_next (e : Env) {c : Call} {o : Offer} {rest : List Offer} (z : Zone)
    (h : c.offers.filter (fun y => c.chosen ≠ some y) = o :: rest) :
    dropChosen e c z = offer e
      ⟨o.station, .rollTake (byte c.number) o.serial (byte c.urgency.code) (byte (e.img.receivingDock.getD 0))⟩
      (setCall { c with offers := o :: rest, state := .taking, chosen := some o, takeTime := none,
                        late := c.deadline < o.estimate } z) := by
  unfold dropChosen takeBest
  rw [h]
  rfl

theorem dropChosen_last (e : Env) {c : Call} (z : Zone) (h : c.offers.filter (fun y => c.chosen ≠ some y) = []) :
    dropChosen e c z = enterNoStock e { c with offers := [], chosen := none, takeTime := none } z := by
  unfold dropChosen takeBest
  rw [h]

/-- Settles O21. -/
theorem takeAnswerTaken : Obligations.TakeAnswerTaken := by
  intro h call x r s ht e z t known
  have hknown (c : Call) : known c ↔ answeredCall z h.sender.toNat call.toNat x = some c :=
    (answeredCall_iff _ _ _ _ _).symm
  have hexec (hc : call ≠ 0) (hr : r = 1 ∨ r = 2) :
      t = .next (s.endFrame h (answerTaken e h.sender.toNat call.toNat x (r = 1) z)) := exec_takeAnswer h x ht hc hr
  refine ⟨fun hb => congrArg _ (hearBody_malformed ht rfl (by simp [bodyKind, Kind.cls]) (if_pos hb)), ?_, ?_⟩
  · intro c hc hk
    rw [hknown] at hk
    refine ⟨?_, ?_, ?_, ?_⟩
    · intro hr hs
      rw [hexec hc (.inl hr), answerTaken_eq, hk]
      simp [hr, hs]
    · intro hr hs
      rw [hexec hc (.inl hr), answerTaken_eq, hk]
      simp [hr, hs]
    · intro o rest hr ho
      rw [hexec hc (.inr hr), answerTaken_eq, hk, ← dropChosen_next e z ho]
      simp [hr]
    · intro hr ho
      rw [hexec hc (.inr hr), answerTaken_eq, hk, ← dropChosen_last e z ho]
      simp [hr]
  · intro hc hno
    have hnone : answeredCall z h.sender.toNat call.toNat x = none :=
      Option.eq_none_iff_forall_ne_some.mpr fun c hk => hno c ((hknown c).mpr hk)
    refine ⟨fun hr => ?_, fun hr => ?_⟩
    · rw [hexec hc (.inl hr), answerTaken_eq, hnone]
      simp [hr, callWithdrawFrame, byte_of_toNat rfl]
    · rw [hexec hc (.inr hr), answerTaken_eq, hnone]
      simp [hr]

/-! ### ROLL TAKE and CALL WITHDRAW (R107, R109) -/

theorem exec_rollTake (h : Header) {call u : Byte} (x : Serial) (d : Byte) {s : State} {y : Urgency}
    (ht : s.takes h .rollTake = true) (hc : call ≠ 0) (hu : urgencyOf u = some y) :
    exec (.rollTake h call x u d) s =
      .next (s.endFrame h (takeRoll s.env h.sender.toNat call.toNat x y d.toNat s.heard)) := by
  refine congrArg _ (hearBody_work (fun e z => takeRoll e h.sender.toNat call.toNat x y d.toNat z) ht rfl
    (by simp [bodyKind, Kind.cls]) ?_)
  unfold takeRollTake
  rw [hu]
  exact if_neg hc

theorem urgencyOf_listed {u : Byte} (h : u = 1 ∨ u = 2) :
    urgencyOf u = some (if u = 1 then Urgency.runout else .routine) := by
  rcases h with rfl | rfl <;> rfl

theorem urgencyOf_unlisted {u : Byte} (h : u ≠ 1 ∧ u ≠ 2) : urgencyOf u = none := (if_neg h.1).trans (if_neg h.2)

theorem takeRollTake_malformed (h : Header) {call u : Byte} (x : Serial) (d : Byte) (s : State)
    (hm : call = 0 ∨ (u ≠ 1 ∧ u ≠ 2)) : takeRollTake h call x u d s = s.countMalformed := by
  unfold takeRollTake
  by_cases hu : u = 1 ∨ u = 2
  · rw [urgencyOf_listed hu]
    exact if_pos (hm.resolve_right fun hn => hu.elim hn.1 hn.2)
  · rw [urgencyOf_unlisted (by simpa using hu)]

theorem canReserve_iff {z : Zone} {k l p : Nat} {r : Roll} (hr : z.stock.rolls.get? k = some r)
    (hl : laneOfKey k = some (l, p)) : canReserve z k = true ↔
      r.state = .stock ∧ (∃ c, laneRec z l = some c ∧ c.inService = true) ∧ r.reservation = none ∧ reservedCount z < 8 := by
  unfold canReserve
  rw [hr, hl]
  simp only [Bool.and_eq_true, Option.any_eq_true, decide_eq_true_iff, Option.isNone_iff_eq_none, and_assoc]
  exact Iff.rfl

/-- The conditions of R107 on a roll at a lane position. -/
theorem mayShip_iff {e : Env} {z : Zone} {station k l p : Nat} {r : Roll} (hr : z.stock.rolls.get? k = some r)
    (hl : laneOfKey k = some (l, p)) : mayShip e z station k r = true ↔
      (∃ c, e.img.lane? l = some c ∧ c.role = .stock) ∧
      (∃ c, laneRec z l = some c ∧ c.inService = true ∧ c.mismatch = false) ∧
      r.state = .stock ∧ r.reservation = none ∧ reservedCount z < 8 ∧ quarantined z r.serial = false ∧
      r.defect = false ∧ serialOrdered z r.serial = false ∧ e.img.loadingDock ≠ none ∧ e.img.exit? station ≠ none := by
  unfold mayShip
  rw [hl]
  simp only [Bool.and_eq_true, canReserve_iff hr hl, Option.any_eq_true, decide_eq_true_iff, Bool.not_eq_true',
    Option.isSome_iff_ne_none, and_assoc]
  constructor
  · rintro ⟨hrole, hrec, hst, -, hres, hn, hq, hd, ho, hdock, hexit⟩
    exact ⟨hrole, hrec, hst, hres, hn, hq, hd, ho, hdock, hexit⟩
  · rintro ⟨hrole, ⟨c, hc, hin, hm⟩, hst, hres, hn, hq, hd, ho, hdock, hexit⟩
    exact ⟨hrole, ⟨c, hc, hin, hm⟩, hst, ⟨c, hc, hin⟩, hres, hn, hq, hd, ho, hdock, hexit⟩

theorem mayShip_off_lane {e : Env} {z : Zone} {station k : Nat} (r : Roll) (hl : laneOfKey k = none) :
    mayShip e z station k r = false := by
  unfold mayShip
  rw [hl]

theorem takeRoll_gone (e : Env) (station call : Nat) (x : Serial) (u : Urgency) (d : Nat) {z : Zone}
    (h : ∀ k r, findSerial z x = some (k, r) → mayShip e z station k r = false) :
    takeRoll e station call x u d z = offer e (takeAnswerFrame station call x 2) z := by
  unfold takeRoll
  cases hf : findSerial z x with
  | none => rfl
  | some w =>
    obtain ⟨k, r⟩ := w
    simp [h k r hf]

theorem takeRoll_confirmed (e : Env) {station call : Nat} {x : Serial} (u : Urgency) (d : Nat) {z : Zone} {k l p : Nat}
    {r : Roll} (hf : findSerial z x = some (k, r)) (hm : mayShip e z station k r = true) (hl : laneOfKey k = some (l, p)) :
    takeRoll e station call x u d z =
      (offer e (takeAnswerFrame station call x 1) (reserve k ⟨station, call, d⟩ z)).push
        (.requestOrder (shipRequest e (match u with
          | .runout => .p
          | .routine => .o) x (.lane l p) ⟨station, call, d⟩)) := by
  unfold takeRoll
  cases u <;> simp only [hf, hm, hl]

theorem exec_callWithdraw (h : Header) {call : Byte} {s : State} (ht : s.takes h .callWithdraw = true) (hc : call ≠ 0) :
    exec (.callWithdraw h call) s =
      .next (s.endFrame h (withdrawReservation s.env h.sender.toNat call.toNat s.heard)) :=
  congrArg _ (hearBody_work (fun e z => withdrawReservation e h.sender.toNat call.toNat z) ht rfl
    (by simp [bodyKind, Kind.cls]) (if_neg hc))

theorem release_of_reserved {k : Nat} {z : Zone} {r : Roll} (hr : z.stock.rolls.get? k = some r)
    (hres : r.reservation ≠ none) :
    release k z = { z with stock := { z.stock with rolls := z.stock.rolls.set k r.released },
                           agenda := z.agenda ++ [.restock] } := by
  unfold release
  rw [hr]
  exact if_pos (Option.isSome_iff_ne_none.mpr hres)

/-- With no SHIP order and no held request there is nothing to cancel. -/
theorem cancelShip_of_none (e : Env) (station call : Nat) {z : Zone} (hp : z.transfer.heldP = []) (ho : z.transfer.heldO = [])
    (hs : ∀ o ∈ allOrders z, o.req.origin ≠ .ship) : cancelShip e station call z = z := by
  unfold cancelShip
  have hz : ({ z with transfer := { z.transfer with heldP := [], heldO := [] } } : Zone) = z := by
    obtain ⟨line, track, stock, ⟨op, oo, heldP, heldO, rest⟩⟩ := z
    obtain rfl : heldP = [] := hp
    obtain rfl : heldO = [] := ho
    rfl
  simp only [hp, ho, List.filter_nil, hz]
  have hnone : (allOrders z).find? (fun o => decide (o.req.origin = .ship) &&
      o.req.callRef.any fun ref => decide (ref.station = station) && decide (ref.call = call)) = none :=
    List.find?_eq_none.mpr fun o hmem => by simp [hs o hmem]
  rw [hnone]

/-- Settles O20. -/
theorem takesAnsweredAndWithdrawn : Obligations.TakesAnsweredAndWithdrawn := by
  refine ⟨?_, ?_⟩
  · intro h call x u d s ht e z t gone fit
    have hgone (hc : call ≠ 0) (hu : u = 1 ∨ u = 2)
        (hno : ∀ k r, findSerial z x = some (k, r) → mayShip e z h.sender.toNat k r = false) : t = gone := by
      refine (exec_rollTake h x d ht hc (urgencyOf_listed hu)).trans ?_
      rw [takeRoll_gone e h.sender.toNat call.toNat x _ d.toNat hno, takeAnswerFrame, byte_of_toNat rfl]
      rfl
    refine ⟨fun hm => congrArg _ (hearBody_malformed ht rfl (by simp [bodyKind, Kind.cls])
      (takeRollTake_malformed h x d _ hm)), fun hc hu hn => hgone hc hu (by simp [hn]), ?_⟩
    intro k r hc hu hf hr
    have hfound {k' r'} (h' : findSerial z x = some (k', r')) : (k', r') = (k, r) := Option.some.inj (h'.symm.trans hf)
    refine ⟨fun hl => hgone hc hu fun k' r' h' => ?_, fun l p hl => ⟨fun hno => hgone hc hu fun k' r' h' => ?_, ?_⟩⟩
    · obtain ⟨rfl, rfl⟩ := Prod.mk.inj (hfound h')
      exact mayShip_off_lane _ hl
    · obtain ⟨rfl, rfl⟩ := Prod.mk.inj (hfound h')
      exact Bool.eq_false_iff.mpr fun hm => hno ((mayShip_iff hr hl).mp hm)
    · intro hfit
      refine (exec_rollTake h x d ht hc (urgencyOf_listed hu)).trans ?_
      rw [takeRoll_confirmed e _ d.toNat hf ((mayShip_iff hr hl).mpr hfit) hl, takeAnswerFrame, byte_of_toNat rfl]
      rcases hu with rfl | rfl <;> rfl
  · intro h call s ht e z t
    refine ⟨fun hc => congrArg _ (hearBody_malformed ht rfl (by simp [bodyKind, Kind.cls]) (if_pos hc)), ?_, ?_⟩
    · intro hc hk
      refine (exec_callWithdraw h ht hc).trans ?_
      rw [withdrawReservation, hk]
    · intro k r hc hk hr hres free
      have hcancel : t = .next (s.endFrame h (cancelShip e h.sender.toNat call.toNat free)) := by
        refine (exec_callWithdraw h ht hc).trans ?_
        rw [withdrawReservation, hk]
        exact congrArg (fun z => Host.Outcome.next (s.endFrame h (cancelShip e h.sender.toNat call.toNat z)))
          (release_of_reserved hr hres)
      have hrest (hp : z.transfer.heldP = []) (ho : z.transfer.heldO = []) (hs : ∀ o ∈ allOrders z, o.req.origin ≠ .ship) :
          cancelShip e h.sender.toNat call.toNat free = free := cancelShip_of_none e _ _ hp ho hs
      exact ⟨hcancel, fun hp ho hs => by rw [hcancel, hrest hp ho hs]⟩

/-! ### ROLL WASTE and LOT ALERT (R163, R67) -/

theorem exec_rollWaste (h : Header) (x : Serial) (m : BitVec 16) {s : State} (ht : s.takes h .rollWaste = true) :
    exec (.rollWaste h x m) s = .next (s.endFrame h (takeRollWaste x m.toNat s.heard)) :=
  congrArg _ (hearBody_work (fun _ z => takeRollWaste x m.toNat z) ht rfl (by simp [bodyKind, Kind.cls]) rfl)

theorem ownPlace_iff {z : Zone} {x : Serial} {k : Nat} :
    ownPlace z x = some k ↔ ∃ r, findSerial z x = some (k, r) ∧ onPassing z k = false := by
  unfold ownPlace
  cases hf : findSerial z x with
  | none => simp
  | some w =>
    obtain ⟨k', r'⟩ := w
    by_cases hp : onPassing z k' = true <;> aesop

/-- A slot with no entry, or a disabled one that the image did not set. -/
def slotFree (z : Zone) (k : Nat) : Bool :=
  match z.stock.slots.get? k with
  | none => true
  | some s => !s.enabled && s.origin ≠ .image

theorem slotTaken {z : Zone} {k : Nat} (h : slotFree z k = false) :
    ∃ x, z.stock.slots.get? k = some x ∧ (x.enabled = true ∨ x.origin = .image) := by
  unfold slotFree at h
  cases hx : z.stock.slots.get? k with
  | none => simp [hx] at h
  | some x => exact ⟨x, rfl, by simpa [hx, or_iff_not_imp_left] using h⟩

theorem freeSlot_eq (z : Zone) : freeSlot z = [1, 2, 3, 4].find? (slotFree z) := rfl

theorem freeSlot_spec {z : Zone} {k : Nat} (h : freeSlot z = some k) : 1 ≤ k ∧ k ≤ 4 ∧
    ∀ j, 1 ≤ j → j < k → ∃ x, z.stock.slots.get? j = some x ∧ (x.enabled = true ∨ x.origin = .image) := by
  have taken : k ∈ [1, 2, 3, 4] ∧ ∀ j, 1 ≤ j → j < k → slotFree z j = false := by
    rw [freeSlot_eq] at h
    refine ⟨List.mem_of_find?_eq_some h, ?_⟩
    simp only [List.find?_cons, List.find?_nil] at h
    repeat' split at h
    all_goals cases h
    all_goals
      intro j hj hjk
      interval_cases j <;> assumption
  obtain ⟨hmem, hlow⟩ := taken
  have : 1 ≤ k ∧ k ≤ 4 := by
    simp at hmem
    omega
  exact ⟨this.1, this.2, fun j hj hjk => slotTaken (hlow j hj hjk)⟩

theorem enterInert_track (s : State) (code : FaultCode) (context : List CtxElem) :
    (s.enterInert code context).zone.track = s.zone.track := by
  unfold State.enterInert offerInert
  simp only
  split
  · rfl
  · split <;> rfl

/-- Settles O24. -/
theorem wasteAndAlertsTaken : Obligations.WasteAndAlertsTaken := by
  refine ⟨?_, ?_, fun _ _ _ => rfl, ?_⟩
  · intro h x m s ht z t charged
    have hexec : t = .next (s.endFrame h (takeRollWaste x m.toNat z)) := exec_rollWaste h x m ht
    refine ⟨?_, ?_, ?_, fun k hk => ownPlace_iff.mp hk, ?_⟩
    · intro k hk
      have h0 : x ≠ 0 := by
        rintro rfl
        exact absurd hk nofun
      rw [hexec, takeRollWaste, if_neg h0, hk]
      rfl
    · intro slot h0 hk hslot
      rw [hexec, takeRollWaste, if_neg h0, hk, hslot]
      rfl
    · rintro (h0 | ⟨hk, hslot⟩)
      · rw [hexec, takeRollWaste, if_pos h0]
      · rw [hexec, takeRollWaste, hk, hslot, ite_self]
    · intro s' t' hj hex
      obtain rfl := Host.Outcome.next.inj hex
      obtain ⟨g, hg | hg⟩ := hear_of_joining (rawFrame h (.rollWaste x m)) (takeWaste x m) hj <;>
        simp [State.hearBody, hg, enterInert_track]
  · intro h lot roll s ht
    exact congrArg _ (hearBody_work (fun e z => addAlert e lot h.sender.toNat z) ht rfl (by simp [bodyKind, Kind.cls]) rfl)
  · intro e lot station z whole written
    have hwhole : (z.stock.slots.any fun s => s.2.covers (lotFirst lot) && s.2.covers (lotLast lot)) = true ↔ whole := by
      simp only [List.any_eq_true, Bool.and_eq_true]
      rfl
    refine ⟨fun ha => by simp [addAlert, ha], fun hw => ?_, ?_, ?_, fun k hk => freeSlot_spec hk⟩
    · rw [addAlert, if_pos (hwhole.mpr hw), ite_self]
    · intro k ha hno hk
      rw [addAlert, if_neg (by simp [ha]), if_neg (mt hwhole.mp hno), hk]
      rfl
    · intro ha hno hk
      rw [addAlert, if_neg (by simp [ha]), if_neg (mt hwhole.mp hno), hk]
      rfl

end Sys2Proof.Machine

/-! PROOF. The times of a hand-over (R36 to R38), and the events of the lanes: detectors, their watch and the restock
check (R59, R63). -/

namespace Sys2Proof.Machine

/-! ### Tables -/

theorem Tbl.nodup_of_sorted {α : Type} {t : Tbl α} (h : t.sorted = true) : t.Nodup := by
  induction t with
  | nil => exact List.nodup_nil
  | cons x t ih =>
    obtain ⟨a, b⟩ := x
    simp only [Tbl.sorted, Bool.and_eq_true, List.all_eq_true, decide_eq_true_eq] at h
    exact List.nodup_cons.mpr ⟨fun hx => Nat.lt_irrefl _ (h.1 _ hx), ih h.2⟩

/-- A table that is mapped entry by entry, keys kept. -/
theorem Tbl.get?_map {α β : Type} (t : Tbl α) (f : Nat → α → β) (k : Nat) :
    Tbl.get? (t.map fun x => (x.1, f x.1 x.2)) k = (t.get? k).map (f k) := by
  induction t with
  | nil => rfl
  | cons x t ih =>
    simp only [List.map_cons, Tbl.get?]
    split
    · rename_i hk
      rw [hk]
      rfl
    · exact ih

/-- A table whose keys are filtered. -/
theorem Tbl.get?_filter_key {α : Type} (t : Tbl α) (p : Nat → Bool) (k : Nat) :
    Tbl.get? (t.filter fun x => p x.1) k = if p k then t.get? k else none := by
  induction t with
  | nil => simp [Tbl.get?]
  | cons x t ih =>
    obtain ⟨a, b⟩ := x
    by_cases hk : k = a
    · subst hk
      cases hp : p k <;> simp [hp, Tbl.get?, ih]
    · cases hp : p a <;> simp [hp, Tbl.get?, ih, hk]

theorem Tbl.has_iff_mem {α : Type} {t : Tbl α} {k : Nat} : t.has k = true ↔ ∃ v, (k, v) ∈ t := by
  constructor
  · intro h
    obtain ⟨v, hv⟩ := Option.isSome_iff_exists.mp h
    exact ⟨v, Tbl.mem_of_get? hv⟩
  · rintro ⟨v, hv⟩
    induction t with
    | nil => exact absurd hv (by simp)
    | cons x t ih =>
      obtain ⟨a, b⟩ := x
      by_cases hk : k = a
      · simp [Tbl.has, Tbl.get?, hk]
      · have : (k, v) ∈ t := (List.mem_cons.mp hv).resolve_left fun h => hk (Prod.mk.inj h).1
        simpa [Tbl.has, Tbl.get?, hk] using ih this

/-! ### The three times of a hand-over -/

theorem exec_passAnswerTimeout {s : State} (n : Nat) (ha : s.isActive = true) :
    exec (.passAnswerTimeout n) s = .next (s.endEvent (answerTimedOut s.env n s.zone)) := congrArg _ (whenActive_active ha _)

theorem exec_passOfferRepeat {s : State} (n : Nat) (ha : s.isActive = true) :
    exec (.passOfferRepeat n) s = .next (s.endEvent (offerRepeated s.env n s.zone)) := congrArg _ (whenActive_active ha _)

theorem exec_passUnconfirmed {s : State} (n : Nat) (ha : s.isActive = true) :
    exec (.passUnconfirmed n) s = .next (s.endEvent (passOverdue s.env n s.zone)) := congrArg _ (whenActive_active ha _)

theorem reached_iff {now t : Time} : reached now t = true ↔ liesAfter t now = false := by simp [reached]

theorem answerOverdue_iff {e : Env} {v : Vehicle} :
    answerOverdue e v = true ↔ v.handOver = .offered ∧ liesAfter (v.handOverTime + 20) e.now = false := by
  simp only [answerOverdue, Bool.and_eq_true, decide_eq_true_iff, reached_iff]
  rfl

theorem doneOverdue_iff {e : Env} {v : Vehicle} : doneOverdue e v = true ↔
    v.handOver = .accepted ∧ v.state = .passing ∧ v.unconfirmed = false ∧
      liesAfter (v.handOverTime + 100) e.now = false := by
  simp only [doneOverdue, Bool.and_eq_true, decide_eq_true_iff, reached_iff, Bool.not_eq_true', and_assoc]
  rfl

/-! ### Offers sent once more (R37) -/

/-- A vehicle whose offer to a station has timed out. -/
def awaits (station : Nat) (v : Vehicle) : Bool := v.handOver = .timedOut && v.offeredTo.any fun o => o.1 = station

theorem awaits_iff {station : Nat} {v : Vehicle} :
    awaits station v = true ↔ v.handOver = .timedOut ∧ ∃ k, v.offeredTo = some (station, k) := by
  simp only [awaits, Bool.and_eq_true, decide_eq_true_iff, Option.any_eq_true]
  refine and_congr_right fun _ => ⟨?_, ?_⟩
  · rintro ⟨⟨b, k⟩, h, rfl⟩
    exact ⟨k, h⟩
  · rintro ⟨k, h⟩
    exact ⟨_, h, rfl⟩

/-- The offer of a slot is made again. -/
def offerAgain (e : Env) (slot : Nat) (z : Zone) : Zone :=
  sendPassOffer e slot (modVehicle slot (fun v => { v with handOver := .offered, handOverTime := e.now }) z)

theorem senderAlive_eq (e : Env) (station : Nat) (z : Zone) : senderAlive e station z =
    (z.track.vehicles.filter fun v => awaits station v.2).foldl (fun z v => offerAgain e v.1 z) z := rfl

@[simp] theorem sendPassOffer_track (e : Env) (slot : Nat) (z : Zone) : (sendPassOffer e slot z).track = z.track := by
  unfold sendPassOffer
  split
  · split
    · simp
    · rfl
  · rfl

theorem get?_offerAgain (e : Env) (slot j : Nat) (z : Zone) : (offerAgain e slot z).track.vehicles.get? j =
    if j = slot then (z.track.vehicles.get? j).map fun v => { v with handOver := .offered, handOverTime := e.now }
    else z.track.vehicles.get? j := by
  simp only [offerAgain, sendPassOffer_track, modVehicle, Tbl.get?_modify]

theorem get?_offersAgain (e : Env) (l : List (Nat × Vehicle)) (j : Nat) (z : Zone) :
    (l.foldl (fun z v => offerAgain e v.1 z) z).track.vehicles.get? j =
      if j ∈ l.map (·.1) then (z.track.vehicles.get? j).map fun v => { v with handOver := .offered, handOverTime := e.now }
      else z.track.vehicles.get? j := by
  induction l generalizing z with
  | nil => rfl
  | cons x l ih =>
    rw [List.foldl_cons, ih, get?_offerAgain]
    by_cases hx : j = x.1 <;> by_cases hl : j ∈ l.map (·.1) <;> simp [hx, hl, Option.map_map, Function.comp_def]

/-- A PASS OFFER carries nothing of the hand-over status. -/
theorem offerAgain_eq (e : Env) {slot station k : Nat} {z : Zone} {v : Vehicle} (hv : z.track.vehicles.get? slot = some v)
    (ho : v.offeredTo = some (station, k)) : offerAgain e slot z =
      offer e ⟨station, .passOffer (passVehicle v k)
        (passRoll (if v.state = .incoming then v.carried else rollAt z (.vehicle slot)))⟩
        { z with track := { z.track with vehicles := z.track.vehicles.modify slot fun v =>
          { v with handOver := .offered, handOverTime := e.now } } } := by
  have hget : vehicle? (modVehicle slot (fun v => { v with handOver := .offered, handOverTime := e.now }) z) slot =
      some { v with handOver := .offered, handOverTime := e.now } := by
    simp [vehicle?, modVehicle, Tbl.get?_modify, hv]
  unfold offerAgain sendPassOffer vehicleRoll
  rw [hget]
  simp only [ho]
  rfl

/-- Settles O40. -/
theorem handOverTimes : Obligations.HandOverTimes := by
  refine ⟨?_, ?_⟩
  · intro n s ha e z
    have hanswer := exec_passAnswerTimeout n ha
    have hrepeat := exec_passOfferRepeat n ha
    have hdone := exec_passUnconfirmed n ha
    have hover (v : Vehicle) : answerOverdue e v = true ↔
        v.handOver = .offered ∧ liesAfter (v.handOverTime + 20) s.time = false := answerOverdue_iff (e := s.env)
    have hlate (v : Vehicle) : doneOverdue e v = true ↔ v.handOver = .accepted ∧ v.state = .passing ∧
        v.unconfirmed = false ∧ liesAfter (v.handOverTime + 100) s.time = false := doneOverdue_iff (e := s.env)
    have hagain (v : Vehicle) : reached e.now v.repeatAt = true ↔ liesAfter v.repeatAt s.time = false := reached_iff
    refine ⟨fun hn => ?_, fun slot v hv => ⟨fun ho hl => ?_, fun hno => ?_, fun ho hl => ?_, fun hno => ?_,
      fun ho hp hu hl => ?_, fun hno => ?_⟩⟩
    · rw [hanswer, hrepeat, hdone, answerTimedOut, offerRepeated, passOverdue, hn]
      exact ⟨rfl, rfl, rfl⟩
    · rw [hanswer, answerTimedOut, hv]
      exact event_congr (if_pos ((hover v).mpr ⟨ho, hl⟩))
    · rw [hanswer, answerTimedOut, hv]
      refine event_congr (if_neg fun h => ?_)
      obtain ⟨h1, h2⟩ := (hover v).mp h
      exact hno.elim (fun hn => hn h1) fun hl => absurd (hl.symm.trans h2) nofun
    · rw [hrepeat, offerRepeated, hv]
      exact event_congr (if_pos ⟨ho, (hagain v).mpr hl⟩)
    · rw [hrepeat, offerRepeated, hv]
      refine event_congr (if_neg fun h => ?_)
      exact hno.elim (fun hn => hn h.1) fun hl => absurd (hl.symm.trans ((hagain v).mp h.2)) nofun
    · rw [hdone, passOverdue, hv]
      exact event_congr (if_pos ((hlate v).mpr ⟨ho, hp, hu, hl⟩))
    · rw [hdone, passOverdue, hv]
      refine event_congr (if_neg fun h => ?_)
      obtain ⟨h1, h2, h3, h4⟩ := (hlate v).mp h
      rcases hno with hn | hn | hn | hn
      · exact hn h1
      · exact hn h2
      · exact absurd (hn.symm.trans h3) nofun
      · exact absurd (hn.symm.trans h4) nofun
  · intro e station z hs waits again t
    have hw (v : Vehicle) : awaits station v = true ↔ waits v := awaits_iff
    have hmem (slot : Nat) (v : Vehicle) (hv : z.track.vehicles.get? slot = some v) :
        slot ∈ (z.track.vehicles.filter fun v => awaits station v.2).map (·.1) ↔ waits v := by
      simp only [List.mem_map, List.mem_filter, hw]
      constructor
      · rintro ⟨⟨j, u⟩, ⟨hu, hwait⟩, rfl⟩
        obtain rfl : u = v := Option.some.inj ((Tbl.get?_of_mem hs hu).symm.trans hv)
        exact hwait
      · exact fun hwait => ⟨(slot, v), ⟨Tbl.mem_of_get? hv, hwait⟩, rfl⟩
    have hget (slot : Nat) := get?_offersAgain e (z.track.vehicles.filter fun v => awaits station v.2) slot z
    refine ⟨fun slot v hv => ⟨fun hwait => ?_, fun hno => ?_⟩, fun slot hn => ?_, fun hno => ?_, ?_⟩
    · exact (hget slot).trans ((if_pos ((hmem slot v hv).mpr hwait)).trans (by rw [hv]; rfl))
    · exact (hget slot).trans ((if_neg (mt (hmem slot v hv).mp hno)).trans hv)
    · refine (hget slot).trans ?_
      rw [hn]
      exact ite_self _
    · have hnil : (z.track.vehicles.filter fun v => awaits station v.2) = [] :=
        List.filter_eq_nil_iff.mpr fun x hx hwait => hno x.1 x.2 (Tbl.get?_of_mem hs hx) ((hw _).mp hwait)
      exact (senderAlive_eq e station z).trans (by rw [hnil]; rfl)
    · intro slot v k hv hto hoff hsole load
      have hone : (z.track.vehicles.filter fun v => awaits station v.2) = [(slot, v)] := by
        refine (filter_eq_singleton (Tbl.nodup_of_sorted hs) _ _).mpr
          ⟨⟨Tbl.mem_of_get? hv, (hw v).mpr ⟨hto, k, hoff⟩⟩, fun x hx hwait => ?_⟩
        have hget' := Tbl.get?_of_mem hs (show (x.1, x.2) ∈ z.track.vehicles from hx)
        have hslot : x.1 = slot := hsole x.1 x.2 hget' ((hw _).mp hwait)
        have : x.2 = v := Option.some.inj (hget'.symm.trans (hslot ▸ hv))
        exact Prod.ext hslot this
      refine (senderAlive_eq e station z).trans ?_
      rw [hone]
      exact offerAgain_eq e hv hoff

/-! ### The restock check (R63) -/

theorem unreservedCount_eq (e : Env) (z : Zone) {l : Nat} {c : LaneCfg} (hc : e.img.lane? l = some c) :
    unreservedCount e z l = (upTo c.positions).countP (fun p => (rollAt z (.lane l p)).any fun r =>
      r.state = .stock && r.serial ≠ 0 && !quarantined z r.serial) := by
  rw [unreservedCount, lanePositions, hc, List.countP_eq_length_filter]
  rfl

theorem laneShort_iff {e : Env} {z : Zone} {l : Nat} : laneShort e z l = true ↔
    ∃ c k, e.img.lane? l = some c ∧ c.role = .staging ∧ laneRec z l = some k ∧ k.inService = true ∧ k.mismatch = false ∧
      (upTo c.positions).countP (fun p => (rollAt z (.lane l p)).any fun r =>
        r.state = .stock && r.serial ≠ 0 && !quarantined z r.serial) < c.low := by
  simp only [laneShort, Bool.and_eq_true, Option.any_eq_true, decide_eq_true_iff, Bool.not_eq_true']
  constructor
  · rintro ⟨⟨c, hc, hrole, hlow⟩, k, hk, hin, hm⟩
    exact ⟨c, k, hc, hrole, hk, hin, hm, unreservedCount_eq e z hc ▸ hlow⟩
  · rintro ⟨c, k, hc, hrole, hk, hin, hm, hlow⟩
    exact ⟨⟨c, hc, hrole, (unreservedCount_eq e z hc).symm ▸ hlow⟩, k, hk, hin, hm⟩

/-- The lanes that the restock check asks a call for, in rising number. -/
def restockLanes (e : Env) (z : Zone) : List Nat :=
  e.img.laneNumbers.filter fun l => laneShort e z l && !z.supply.calls.has (Need.restock l).key

theorem restockCheck_eq (e : Env) (z : Zone) :
    restockCheck e z = { z with agenda := z.agenda ++ (restockLanes e z).map fun l => .askCall (.restock l) } := by
  refine Eq.trans ?_ (foldl_push ((restockLanes e z).map fun l => .askCall (.restock l)) z)
  rw [List.foldl_map]
  rfl

theorem mem_laneNumbers {i : Image} {l : Nat} {c : LaneCfg} (h : i.lane? l = some c) : l ∈ i.laneNumbers := by
  refine mem_upTo.mpr ?_
  cases l with
  | zero => exact absurd h nofun
  | succ l => exact ⟨by omega, List.getElem?_eq_some_iff.mp h |>.1⟩

theorem mem_restockLanes {e : Env} {z : Zone} {l : Nat} :
    l ∈ restockLanes e z ↔ laneShort e z l = true ∧ z.supply.calls.get? (Need.restock l).key = none := by
  simp only [restockLanes, List.mem_filter, Bool.and_eq_true, Bool.not_eq_true', Tbl.has, Option.isSome_eq_false_iff,
    Option.isNone_iff_eq_none]
  refine ⟨fun h => h.2, fun h => ⟨?_, h⟩⟩
  obtain ⟨c, -, hc, -⟩ := laneShort_iff.mp h.1
  exact mem_laneNumbers hc

/-! ### The watch of the lane positions (R59) -/

/-- The lane position is under the carriage, a THROUGH lane as a whole. -/
def underPick (e : Env) (z : Zone) (l p : Nat) : Prop :=
  ∃ o q, runningOrder z = some o ∧ ((o.step = 3 ∧ o.req.source = .lane l q) ∨ (o.step = 6 ∧ o.target = some (.lane l q))) ∧
    (q = p ∨ laneMode? e l ≠ some .pick)

theorem underCarriage_lane {z : Zone} {l q : Nat} : underCarriage z = some (.lane l q) ↔ ∃ o, runningOrder z = some o ∧
    ((o.step = 3 ∧ o.req.source = .lane l q) ∨ (o.step = 6 ∧ o.target = some (.lane l q))) := by
  unfold underCarriage
  cases hr : runningOrder z with
  | none => simp
  | some o =>
    by_cases h3 : o.step = 3
    · simp [h3]
    · by_cases h6 : o.step = 6 <;> simp [h3, h6]

theorem pickMode_iff {e : Env} {l : Nat} : ((e.img.lane? l).any fun c => c.mode = .pick) = true ↔ laneMode? e l = some .pick := by
  unfold laneMode?
  cases e.img.lane? l <;> simp

theorem positionWatched_iff {e : Env} {z : Zone} {l p : Nat} : positionWatched e z l p = true ↔
    (∃ k, laneRec z l = some k ∧ k.inService = true) ∧ ¬ underPick e z l p := by
  unfold positionWatched
  rw [Bool.and_eq_true, Option.any_eq_true]
  refine and_congr_right fun _ => ?_
  have hunder : underPick e z l p ↔ ∃ q, underCarriage z = some (.lane l q) ∧ (q = p ∨ laneMode? e l ≠ some .pick) := by
    simp only [underCarriage_lane, underPick]
    exact ⟨fun ⟨o, q, ho, hs, hq⟩ => ⟨q, ⟨o, ho, hs⟩, hq⟩, fun ⟨q, ⟨o, ho, hs⟩, hq⟩ => ⟨o, q, ho, hs, hq⟩⟩
  rw [hunder]
  split
  · rename_i l' q hu
    rw [hu, Bool.or_eq_true, Bool.and_eq_true, pickMode_iff]
    by_cases hl : l' = l
    · subst hl
      simp [not_or]
      tauto
    · simp [hl]
  · rename_i hu
    exact ⟨fun _ ⟨q, hq, _⟩ => hu _ _ hq, fun _ => rfl⟩

theorem positionDisagrees_iff {e : Env} {z : Zone} {l p : Nat} :
    positionDisagrees e z l p = true ↔ (laneDetector e l p = true ↔ rollAt z (.lane l p) = none) := by
  unfold positionDisagrees
  cases laneDetector e l p <;> cases rollAt z (.lane l p) <;> simp

/-- A watched position whose detector and table disagree. -/
def badPosition (e : Env) (z : Zone) (l p : Nat) : Bool := positionWatched e z l p && positionDisagrees e z l p

theorem badPosition_iff {e : Env} {z : Zone} {l p : Nat} : badPosition e z l p = true ↔
    (∃ k, laneRec z l = some k ∧ k.inService = true) ∧ ¬ underPick e z l p ∧
      (laneDetector e l p = true ↔ rollAt z (.lane l p) = none) := by
  rw [badPosition, Bool.and_eq_true, positionWatched_iff, positionDisagrees_iff, and_assoc]

theorem get?_watchPlace (now : Time) (t : Tbl Time) (k j : Nat) (bad : Bool) : (watchPlace now t k bad).get? j =
    if j = k then (if bad then some ((t.get? k).getD now) else none) else t.get? j := by
  unfold watchPlace Tbl.has
  by_cases hj : j = k
  · subst hj
    cases bad
    · simp [Tbl.get?_erase]
    · cases hg : t.get? j <;> simp [Tbl.get?_set, hg]
  · cases bad
    · simp [Tbl.get?_erase, hj]
    · cases hg : t.get? k <;> simp [Tbl.get?_set, hg, hj]

/-- The watch of a list of places, at the key of one of them: places of one key are alike in it. -/
theorem get?_watchPlaces {α : Type} (now : Time) (key : α → Nat) (bad : α → Bool) (j : Nat) (b : Bool) (l : List α)
    (t : Tbl Time) (hl : ∀ x ∈ l, key x = j → bad x = b) :
    (l.foldl (fun t x => watchPlace now t (key x) (bad x)) t).get? j =
      if ∃ x ∈ l, key x = j then (if b then some ((t.get? j).getD now) else none) else t.get? j := by
  induction l generalizing t with
  | nil => simp
  | cons x l ih =>
    rw [List.foldl_cons, ih _ fun y hy => hl y (List.mem_cons_of_mem x hy), get?_watchPlace]
    by_cases hx : j = key x
    · subst hx
      rw [hl x List.mem_cons_self rfl]
      cases b <;> simp
    · have hne : ¬ key x = j := fun h => hx h.symm
      simp [hx, hne]

theorem mem_lanePlaces {e : Env} {l p : Nat} : (l, p) ∈ lanePlaces e ↔ ∃ c, e.img.lane? l = some c ∧ 1 ≤ p ∧ p ≤ c.positions := by
  simp only [lanePlaces, List.mem_flatMap, List.mem_map, Prod.mk.injEq, lanePositions]
  constructor
  · rintro ⟨m, -, q, hq, rfl, rfl⟩
    obtain ⟨h1, h2⟩ := mem_upTo.mp hq
    cases hc : e.img.lane? m with
    | none => simp [hc] at h2; omega
    | some c => exact ⟨c, rfl, h1, by simpa [hc] using h2⟩
  · rintro ⟨c, hc, h1, h2⟩
    exact ⟨l, mem_laneNumbers hc, p, mem_upTo.mpr ⟨h1, by simpa [hc] using h2⟩, rfl, rfl⟩

/-- The positions whose disagreement stands after an event. -/
def stillDisagreeing (e : Env) (z : Zone) : Tbl Unit :=
  z.stock.disagreeing.filter fun k =>
    match laneOfKey k.1 with
    | some (l, p) => badPosition e z l p
    | none => false

theorem get?_stillDisagreeing {e : Env} {z : Zone} {k : Nat} {u : Unit} : (stillDisagreeing e z).get? k = some u ↔
    z.stock.disagreeing.get? k = some u ∧ ∃ l p, laneOfKey k = some (l, p) ∧ badPosition e z l p = true := by
  have h := Tbl.get?_filter_key z.stock.disagreeing (fun k => match laneOfKey k with
    | some (l, p) => badPosition e z l p
    | none => false) k
  refine (Eq.congr_left h).trans ?_
  cases hk : laneOfKey k with
  | none => simp
  | some x =>
    obtain ⟨l, p⟩ := x
    by_cases hb : badPosition e z l p = true <;> simp [hb]

theorem disagreeing_any_iff {d : Tbl Unit} {l : Nat} : (d.any fun k => (laneOfKey k.1).any fun y => y.1 = l) = true ↔
    ∃ j p, d.has j = true ∧ laneOfKey j = some (l, p) := by
  simp only [List.any_eq_true, Option.any_eq_true, decide_eq_true_iff, Tbl.has_iff_mem]
  constructor
  · rintro ⟨⟨j, u⟩, hj, ⟨m, p⟩, hk, rfl⟩
    exact ⟨j, p, ⟨u, hj⟩, hk⟩
  · rintro ⟨j, p, ⟨u, hj⟩, hk⟩
    exact ⟨(j, u), hj, (l, p), hk, rfl⟩

theorem disagreeDue_iff {e : Env} {z : Zone} {k : Nat} : disagreeDue e z k = true ↔
    (∃ t, z.stock.watch.get? k = some t ∧ liesAfter (t + 50) e.now = false) ∧ z.stock.disagreeing.has k = false := by
  simp only [disagreeDue, Bool.and_eq_true, Option.any_eq_true, reached_iff, Bool.not_eq_true']
  rfl

/-- Settles O41. -/
theorem laneEvents : Obligations.LaneEvents := by
  refine ⟨?_, ?_, ?_⟩
  · intro l p on s e z k s'
    have hdue : disagreeDue e z k = true ↔
        (∃ t, z.stock.watch.get? k = some t ∧ liesAfter (t + 50) s.time = false) ∧ z.stock.disagreeing.has k = false :=
      disagreeDue_iff (e := s.env)
    have htimeout (ha : s.isActive = true) : exec (.laneDisagreeTimeout l p) s =
        .next (s.endEvent (positionDisagreed e l p z)) := congrArg _ (whenActive_active ha _)
    have hperiod (ha : s.isActive = true) : exec .restockPeriod s = .next (s.endEvent (restockPeriod e z)) :=
      congrArg _ (whenActive_active ha _)
    refine ⟨fun ha => congrArg _ (whenActive_active (s := s') ha _), fun ha => congrArg _ (whenActive_idle (s := s') ha _),
      ?_, ?_, ?_, ?_, fun ha => ⟨congrArg _ (whenActive_idle ha _), congrArg _ (whenActive_idle ha _)⟩⟩
    · intro t ha hw ht hd
      rw [htimeout ha]
      exact event_congr (if_pos (hdue.mpr ⟨⟨t, hw, ht⟩, hd⟩))
    · intro ha hno
      rw [htimeout ha]
      refine event_congr (if_neg fun h => ?_)
      obtain ⟨⟨t, hw, ht⟩, hd⟩ := hdue.mp h
      rcases hno with hn | hn | ⟨u, hu, hl⟩
      · exact absurd (hw.symm.trans hn) nofun
      · exact absurd (hd.symm.trans hn) nofun
      · obtain rfl := Option.some.inj (hw.symm.trans hu)
        exact absurd (hl.symm.trans ht) nofun
    · intro ha ht
      rw [hperiod ha]
      exact event_congr (if_pos (reached_iff.mpr ht))
    · intro ha ht
      rw [hperiod ha]
      exact event_congr (if_neg fun h => absurd (ht.symm.trans (reached_iff.mp h)) nofun)
  · intro e z short
    refine ⟨restockLanes e z, (pairwise_upTo _).sublist List.filter_sublist, fun l => ?_, restockCheck_eq e z⟩
    rw [mem_restockLanes, laneShort_iff]
    constructor
    · rintro ⟨⟨c, k, hc, hr, hk, hi, hm, hn⟩, hcall⟩
      exact ⟨c, k, hc, hr, hk, hi, hm, hcall, hn⟩
    · rintro ⟨c, k, hc, hr, hk, hi, hm, hcall, hn⟩
      exact ⟨⟨c, k, hc, hr, hk, hi, hm, hn⟩, hcall⟩
  · intro e z t under bad
    have hbad (l p : Nat) : bad l p ↔ badPosition e z l p = true := badPosition_iff.symm
    refine ⟨?_, fun k u => ?_, fun l k hk => ?_, rfl⟩
    · intro l c p hall hc h1 h2
      have hkeys : ∀ x ∈ lanePlaces e, (Place.lane x.1 x.2).key = (Place.lane l p).key →
          badPosition e z x.1 x.2 = badPosition e z l p := by
        rintro ⟨m, q⟩ hm hkey
        obtain ⟨d, hd, -, hq⟩ := mem_lanePlaces.mp hm
        have := hall m d hd
        have := hall l c hc
        obtain ⟨rfl, rfl⟩ := (lane_key_eq (by omega) (by omega)).mp hkey
        rfl
      have hget := get?_watchPlaces e.now (fun x : Nat × Nat => (Place.lane x.1 x.2).key) (fun x => badPosition e z x.1 x.2)
        (Place.lane l p).key (badPosition e z l p) (lanePlaces e) z.stock.watch hkeys
      rw [if_pos ⟨(l, p), mem_lanePlaces.mpr ⟨c, hc, h1, h2⟩, rfl⟩] at hget
      exact ⟨fun hb => hget.trans (if_pos ((hbad l p).mp hb)), fun hb => hget.trans (if_neg (mt (hbad l p).mpr hb))⟩
    · simp only [hbad]
      exact get?_stillDisagreeing
    · have hget : t.stock.lanes.get? l = some (if (stillDisagreeing e z).any (fun k => (laneOfKey k.1).any fun y => y.1 = l)
          then k else { k with mismatch := false }) := by
        refine (Tbl.get?_map z.stock.lanes (fun m c =>
          if (stillDisagreeing e z).any (fun k => (laneOfKey k.1).any fun y => y.1 = m) then c
          else { c with mismatch := false }) l).trans ?_
        rw [hk]
        rfl
      exact ⟨fun h => hget.trans (congrArg some (if_pos (disagreeing_any_iff.mpr h))),
        fun h => hget.trans (congrArg some (if_neg fun hn =>
          let ⟨j, p, hj, hp⟩ := disagreeing_any_iff.mp hn
          h j p hj hp))⟩

end Sys2Proof.Machine

/-! PROOF. The frames of a hand-over: PASS OFFER at the receiving zone (R39), PASS ACCEPT, PASS DEFER and PASS DONE at the
sending zone (R36, R38), and who gets a freed slot or a number that left (R40). -/

namespace Sys2Proof.Machine

/-! ### PASS OFFER (R39) -/

theorem vehicleOk_iff {n : Nat} : vehicleOk n = true ↔ 1 ≤ n ∧ n ≤ 63 := by
  simp [vehicleOk]

theorem byte_ne_zero {b : Byte} : 1 ≤ b.toNat ↔ b ≠ 0 := by
  rw [Nat.one_le_iff_ne_zero, ne_eq, ne_eq, ← BitVec.toNat_inj]
  rfl

/-- A vehicle number outside 1 to 63. -/
theorem vehicleOk_of_byte {b : Byte} : vehicleOk b.toNat = false ↔ b = 0 ∨ 63 < b.toNat := by
  rw [Bool.eq_false_iff, ne_eq, vehicleOk_iff, byte_ne_zero]
  rw [not_and_or, not_not, not_le]

theorem purposeOf_unlisted {v : PassVehicle} (h : 4 < v.purpose.toNat) : purposeOf v = none := by
  unfold purposeOf
  split <;> first | omega | rfl

theorem rollOf_unlisted {r : PassRoll} (h : 1 < r.load.toNat) : rollOf r = none := by
  unfold rollOf
  split <;> first | omega | rfl

/-- The offer that a PASS OFFER makes, by its fields. -/
theorem passOfferOf_some {e : Env} {station claim : Nat} {v : PassVehicle} {r : PassRoll} {o : PassOffer}
    (h : passOfferOf e station claim v r = some o) : o.station = station ∧ (∃ p, purposeOf v = some p) ∧
      (∃ x, rollOf r = some x) ∧ vehicleOk v.number.toNat = true ∧ stationOk v.home.toNat = true := by
  unfold passOfferOf at h
  split at h
  · rename_i p x hp hx
    split at h
    · rename_i hok
      obtain rfl := Option.some.inj h
      exact ⟨rfl, ⟨p, hp⟩, ⟨x, hx⟩, hok⟩
    · cases h
  · cases h

theorem passOfferOf_malformed {e : Env} {station claim : Nat} {v : PassVehicle} {r : PassRoll}
    (h : v.number = 0 ∨ 63 < v.number.toNat ∨ v.home = 0 ∨ 30 < v.home.toNat ∨ 4 < v.purpose.toNat ∨ 1 < r.load.toNat) :
    passOfferOf e station claim v r = none := by
  refine Option.eq_none_iff_forall_ne_some.mpr fun o ho => ?_
  obtain ⟨-, ⟨p, hp⟩, ⟨x, hx⟩, hnumber, hhome⟩ := passOfferOf_some ho
  have hn := vehicleOk_iff.mp hnumber
  have hs : 1 ≤ v.home.toNat ∧ v.home.toNat ≤ 30 := by simpa [stationOk] using hhome
  rcases h with h | h | h | h | h | h
  · exact byte_ne_zero.mp hn.1 h
  · omega
  · exact byte_ne_zero.mp hs.1 h
  · omega
  · exact absurd ((purposeOf_unlisted h).symm.trans hp) nofun
  · exact absurd ((rollOf_unlisted h).symm.trans hx) nofun

theorem exec_passOffer (h : Header) {v : PassVehicle} {r : PassRoll} {s : State} {o : PassOffer}
    (ht : s.takes h .passOffer = true) (ho : passOfferOf s.env h.sender.toNat 0 v r = some o) :
    exec (.passOffer h v r) s = .next (s.endFrame h (receiveOffer s.env o s.heard)) := by
  refine congrArg _ (hearBody_work (fun e z => receiveOffer e o z) ht rfl (by simp [bodyKind, Kind.cls]) ?_)
  unfold takePassOffer
  rw [show s.heardState.env = s.env from rfl, ho]

theorem takePassOffer_malformed (h : Header) {v : PassVehicle} {r : PassRoll} {s : State}
    (ho : passOfferOf s.env h.sender.toNat 0 v r = none) : takePassOffer h v r s.heardState = s.heardState.countMalformed := by
  unfold takePassOffer
  rw [show s.heardState.env = s.env from rfl, ho]

/-- PASS DEFER to the offering station. -/
def deferFrame (o : PassOffer) : TxFrame := ⟨o.station, .passDefer (byte o.number) (byte o.target)⟩

/-- The offer at the tail of the deferred list. -/
def deferredZone (o : PassOffer) (z : Zone) : Zone :=
  { z with track := { z.track with claims := z.track.claims + 1,
                                   deferred := z.track.deferred ++ [{ o with claim := z.track.claims + 1 }] } }

theorem deferOffer_room (e : Env) (o : PassOffer) {z : Zone} (h : z.track.deferred.length < 4) :
    deferOffer e o z = offer e (deferFrame o) (deferredZone o z) := if_pos h

theorem deferOffer_full (e : Env) (o : PassOffer) {z : Zone} (h : 4 ≤ z.track.deferred.length) : deferOffer e o z = z :=
  if_neg (Nat.not_lt.mpr h)

/-- An offer for the vehicle number is in the deferred list. -/
def deferredAlready (z : Zone) (n : Nat) : Bool := z.track.deferred.any fun d => d.number = n

theorem deferredAlready_iff {z : Zone} {n : Nat} : deferredAlready z n = true ↔ ∃ d ∈ z.track.deferred, d.number = n := by
  simp [deferredAlready]

theorem receiveOffer_outside {e : Env} {o : PassOffer} (z : Zone) (hb : boundaryEntry e.img o.station o.target = false) :
    receiveOffer e o z = z := if_pos (by simp [hb])

/-- The vehicle stands in a record. -/
theorem receiveOffer_known {e : Env} {o : PassOffer} {z : Zone} {slot : Nat} {v : Vehicle}
    (hb : boundaryEntry e.img o.station o.target = true) (hv : findVehicle z o.number = some (slot, v)) :
    receiveOffer e o z =
      if v.state = .incoming ∧ v.offeredBy = some o.station ∧ v.current = some o.target then
        offer e ⟨o.station, .passAccept (byte o.number) (byte o.target)⟩ z
      else if deferredAlready z o.number then offer e (deferFrame o) z else deferOffer e o z := by
  refine (if_neg (by simp [hb])).trans ?_
  rw [hv]
  rfl

/-- The vehicle stands in no record. -/
theorem receiveOffer_new {e : Env} {o : PassOffer} {z : Zone}
    (hb : boundaryEntry e.img o.station o.target = true) (hv : findVehicle z o.number = none) :
    receiveOffer e o z =
      if deferredAlready z o.number then offer e (deferFrame o) z
      else match freeVehicleSlot z with
        | some slot =>
          if segState z o.target = some .free ∧ (deferredFor z o.target).isNone then acceptOffer e slot o z
          else deferOffer e o z
        | none => deferOffer e o z := by
  refine (if_neg (by simp [hb])).trans ?_
  rw [hv]
  rfl

theorem deferredFor_none {z : Zone} {k : Nat} : (deferredFor z k).isNone = true ↔ ∀ d ∈ z.track.deferred, d.target ≠ k := by
  simp [deferredFor, List.find?_eq_none]

/-- A new vehicle's offer that cannot be accepted is deferred. -/
theorem receiveOffer_deferred {e : Env} {o : PassOffer} {z : Zone}
    (hb : boundaryEntry e.img o.station o.target = true) (hv : findVehicle z o.number = none)
    (hd : deferredAlready z o.number = false)
    (hno : freeVehicleSlot z = none ∨ segState z o.target ≠ some .free ∨ ∃ d ∈ z.track.deferred, d.target = o.target) :
    receiveOffer e o z = deferOffer e o z := by
  refine (receiveOffer_new hb hv).trans ((if_neg (by simp [hd])).trans ?_)
  cases hf : freeVehicleSlot z with
  | none => rfl
  | some slot =>
    refine if_neg fun h => ?_
    rcases hno with hn | hn | ⟨d, hmem, hdt⟩
    · exact absurd (hf.symm.trans hn) nofun
    · exact hn h.1
    · exact deferredFor_none.mp h.2 d hmem hdt

/-- Settles O22. -/
theorem passOfferReceived : Obligations.PassOfferReceived := by
  refine ⟨?_, ?_⟩
  · intro h v r s ht e z b t
    refine ⟨fun ho => congrArg _ (hearBody_malformed ht rfl (by simp [bodyKind, Kind.cls]) (takePassOffer_malformed h ho)),
      passOfferOf_malformed, fun o ho => ?_⟩
    have hst : o.station = b := (passOfferOf_some ho).1
    have hexec : t = .next (s.endFrame h (receiveOffer e o z)) := exec_passOffer h ht ho
    rw [hexec, ← hst]
    refine ⟨fun hb => frame_congr (receiveOffer_outside z hb), ?_, ?_, ?_⟩
    · intro slot w hb hv hin hby hcur
      exact frame_congr ((receiveOffer_known hb hv).trans (if_pos ⟨hin, hby, hcur⟩))
    · intro slot hb hv hno hslot hfree
      have hd : deferredAlready z o.number = false :=
        Bool.eq_false_iff.mpr fun hd => let ⟨d, hmem, hdn⟩ := deferredAlready_iff.mp hd
          (hno d hmem).1 hdn
      refine frame_congr ((receiveOffer_new hb hv).trans ((if_neg (by simp [hd])).trans ?_))
      rw [hslot]
      exact if_pos ⟨hfree, deferredFor_none.mpr fun d hmem => (hno d hmem).2⟩
    · intro hb hv hnum hno
      have hd : deferredAlready z o.number = false :=
        Bool.eq_false_iff.mpr fun hd => let ⟨d, hmem, hdn⟩ := deferredAlready_iff.mp hd
          hnum d hmem hdn
      exact ⟨fun hn => frame_congr ((receiveOffer_deferred hb hv hd hno).trans (deferOffer_room e o hn)),
        fun hn => frame_congr ((receiveOffer_deferred hb hv hd hno).trans (deferOffer_full e o hn))⟩
  · intro e o z hb defer other
    have hother : other → receiveOffer e o z =
        if deferredAlready z o.number then offer e (deferFrame o) z else deferOffer e o z := by
      rintro ⟨slot, v, hv, hno⟩
      refine (receiveOffer_known hb hv).trans (if_neg fun ⟨h1, h2, h3⟩ => ?_)
      exact hno.elim (fun h => h h1) fun h => h.elim (fun h => h h2) fun h => h h3
    refine ⟨fun hd hwho => ?_, fun hd ho => ?_⟩
    · have hd' := deferredAlready_iff.mpr hd
      rcases hwho with hv | ho
      · exact (receiveOffer_new hb hv).trans (if_pos hd')
      · exact (hother ho).trans (if_pos hd')
    · have hd' : ¬ deferredAlready z o.number = true := fun h =>
        let ⟨d, hmem, hdn⟩ := deferredAlready_iff.mp h
        hd d hmem hdn
      exact ⟨fun hn => (hother ho).trans ((if_neg hd').trans (deferOffer_room e o hn)),
        fun hn => (hother ho).trans ((if_neg hd').trans (deferOffer_full e o hn))⟩

/-! ### PASS ACCEPT, PASS DEFER and PASS DONE (R36, R38) -/

theorem exec_passAccept (h : Header) {n : Byte} (k : Byte) {s : State} (ht : s.takes h .passAccept = true)
    (hn : 1 ≤ n.toNat ∧ n.toNat ≤ 63) : exec (.passAccept h n k) s =
      .next (s.endFrame h (acceptAnswered s.env h.sender.toNat n.toNat k.toNat s.heard)) :=
  congrArg _ (hearBody_work (fun e z => acceptAnswered e h.sender.toNat n.toNat k.toNat z) ht rfl
    (by simp [bodyKind, Kind.cls]) (if_neg (by simp [vehicleOk_iff.mpr hn])))

theorem exec_passDefer (h : Header) {n : Byte} (k : Byte) {s : State} (ht : s.takes h .passDefer = true)
    (hn : 1 ≤ n.toNat ∧ n.toNat ≤ 63) : exec (.passDefer h n k) s =
      .next (s.endFrame h (deferAnswered s.env h.sender.toNat n.toNat k.toNat s.heard)) :=
  congrArg _ (hearBody_work (fun e z => deferAnswered e h.sender.toNat n.toNat k.toNat z) ht rfl
    (by simp [bodyKind, Kind.cls]) (if_neg (by simp [vehicleOk_iff.mpr hn])))

theorem exec_passDone (h : Header) {n : Byte} (k : Byte) {s : State} (ht : s.takes h .passDone = true)
    (hn : 1 ≤ n.toNat ∧ n.toNat ≤ 63) : exec (.passDone h n k) s =
      .next (s.endFrame h (passDoneAnswered s.env h.sender.toNat n.toNat k.toNat s.heard)) :=
  congrArg _ (hearBody_work (fun e z => passDoneAnswered e h.sender.toNat n.toNat k.toNat z) ht rfl
    (by simp [bodyKind, Kind.cls]) (if_neg (by simp [vehicleOk_iff.mpr hn])))

theorem answers_malformed (h : Header) {n : Byte} (k : Byte) {s : State} (ht : s.takes h .passAccept = true)
    (hn : n = 0 ∨ 63 < n.toNat) :
    exec (.passAccept h n k) s = .next (s.endFrame h (malformedCounted s.heard)) ∧
      exec (.passDefer h n k) s = .next (s.endFrame h (malformedCounted s.heard)) := by
  have hdefer : s.takes h (bodyKind (.passDefer n k)) = true := ht
  exact ⟨congrArg _ (hearBody_malformed (b := .passAccept n k) (take := takePassAccept h n k) ht rfl (by simp [bodyKind, Kind.cls])
      (if_pos (by simp [vehicleOk_of_byte.mpr hn]))),
    congrArg _ (hearBody_malformed (b := .passDefer n k) (take := takePassDefer h n k) hdefer rfl (by simp [bodyKind, Kind.cls])
      (if_pos (by simp [vehicleOk_of_byte.mpr hn])))⟩

theorem answered_iff {z : Zone} {station n k slot : Nat} {v : Vehicle} : answered z station n k = some (slot, v) ↔
    findVehicle z n = some (slot, v) ∧ v.offeredTo = some (station, k) := by
  unfold answered
  cases hf : findVehicle z n with
  | none => simp
  | some x =>
    obtain ⟨j, w⟩ := x
    by_cases ho : w.offeredTo = some (station, k)
    · simp only [if_pos ho]
      refine ⟨fun h => ⟨h, ?_⟩, fun h => h.1⟩
      obtain ⟨rfl, rfl⟩ := Prod.mk.inj (Option.some.inj h)
      exact ho
    · simp only [if_neg ho]
      refine ⟨nofun, fun ⟨h, hv⟩ => ?_⟩
      obtain ⟨rfl, rfl⟩ := Prod.mk.inj (Option.some.inj h)
      exact absurd hv ho

theorem findVehicle_number {z : Zone} {n slot : Nat} {v : Vehicle} (h : findVehicle z n = some (slot, v)) : v.number = n := by
  simpa using List.find?_some h

theorem openExit_eq {e : Env} {v : Vehicle} {c b k : Nat} {cfg : SegCfg} (z : Zone) (hc : v.current = some c)
    (ho : v.offeredTo = some (b, k)) (hs : e.img.segment? c = some cfg) : openExit e v z =
      setPermit c true (setPoints e c (if cfg.succ1.station = b ∧ cfg.succ1.segment = k then 1 else 2) z) := by
  unfold openExit
  simp only [hc, ho, hs]

theorem dropPermit_on {v : Vehicle} {z : Zone} {c : Nat} (hc : v.current = some c)
    (hs : segState z c = some (.occupied v.number) ∨ segState z c = some .blocked) : dropPermit v z = setPermit c false z := by
  unfold dropPermit
  rw [hc]
  exact if_pos hs

/-- The record of a vehicle handed on is gone with its roll, and the permit of its segment off. -/
def passedGone (slot c : Nat) (z : Zone) : Zone :=
  { z with track := { z.track with segments := z.track.segments.modify c fun k => { k with permit := false }
                                   vehicles := z.track.vehicles.erase slot }
           stock := { z.stock with rolls := z.stock.rolls.erase (768 + slot) } }

theorem deletePassed_eq (e : Env) (slot : Nat) {v : Vehicle} {c : Nat} {z : Zone} (hc : v.current = some c)
    (hs : segState z c = some (.occupied v.number) ∨ segState z c = some .blocked) :
    deletePassed e slot v z = offerLeftNumber e v.number (offerFreedSlot e (passedGone slot c z)) := by
  unfold deletePassed
  rw [dropPermit_on hc hs]
  rfl

theorem offerFreedSlot_none {e : Env} {z : Zone} (h : freeVehicleSlot z = none ∨
    ∀ o ∈ z.track.deferred, ¬ (segState z o.target = some .free ∧ findVehicle z o.number = none)) :
    offerFreedSlot e z = z := by
  unfold offerFreedSlot
  cases hf : freeVehicleSlot z with
  | none => rfl
  | some slot =>
    have hnone : z.track.deferred.find? (fun o => segState z o.target = some .free && (findVehicle z o.number).isNone) =
        none := List.find?_eq_none.mpr fun o hmem => by
      simpa using h.resolve_left (by simp [hf]) o hmem
    simp [hnone]

theorem offerFreedSlot_some (e : Env) {z : Zone} {slot : Nat} {older newer : List PassOffer} {o : PassOffer}
    (hslot : freeVehicleSlot z = some slot) (hd : z.track.deferred = older ++ o :: newer)
    (ho : segState z o.target = some .free ∧ findVehicle z o.number = none)
    (hold : ∀ p ∈ older, ¬ (segState z p.target = some .free ∧ findVehicle z p.number = none)) :
    offerFreedSlot e z = takeDeferred e slot o z := by
  unfold offerFreedSlot
  have hfind : z.track.deferred.find? (fun o => segState z o.target = some .free && (findVehicle z o.number).isNone) =
      some o := List.find?_eq_some_iff_append.mpr ⟨by simp [ho], older, newer, hd,
      fun p hp => by simpa [imp_iff_not_or, Option.isSome_iff_ne_none] using hold p hp⟩
  simp [hslot, hfind]

theorem offerLeftNumber_none {e : Env} {z : Zone} {n : Nat} (h : freeVehicleSlot z = none ∨
    ∀ o ∈ z.track.deferred, o.number = n → ¬ (segState z o.target = some .free ∧ findVehicle z o.number = none)) :
    offerLeftNumber e n z = z := by
  unfold offerLeftNumber
  split
  · rename_i slot o hslot hfind
    have hnum : o.number = n := by simpa using List.find?_some hfind
    refine if_neg fun ⟨hs, hv⟩ => h.resolve_left (by simp [hslot]) o (List.mem_of_find?_eq_some hfind) hnum ⟨hs, ?_⟩
    rw [hnum]
    simpa using hv
  · rfl

theorem offerLeftNumber_some (e : Env) {z : Zone} {slot : Nat} {older newer : List PassOffer} {o : PassOffer}
    (hslot : freeVehicleSlot z = some slot) (hd : z.track.deferred = older ++ o :: newer)
    (ho : segState z o.target = some .free ∧ findVehicle z o.number = none) (hold : ∀ p ∈ older, p.number ≠ o.number) :
    offerLeftNumber e o.number z = takeDeferred e slot o z := by
  unfold offerLeftNumber
  have hfind : z.track.deferred.find? (fun p => p.number = o.number) = some o :=
    List.find?_eq_some_iff_append.mpr ⟨by simp, older, newer, hd, fun p hp => by simpa using hold p hp⟩
  simp [hslot, hfind, ho]

theorem answers_deferred_nil (e : Env) (n : Nat) {z : Zone} (h : z.track.deferred = []) :
    offerLeftNumber e n (offerFreedSlot e z) = z := by
  rw [offerFreedSlot_none (.inr (by simp [h])), offerLeftNumber_none (.inr (by simp [h]))]

/-- Settles O23. -/
theorem handOverAnswersTaken : Obligations.HandOverAnswersTaken := by
  refine ⟨?_, ?_, ?_⟩
  · intro h n k s ht e z bad
    refine ⟨answers_malformed h k ht, fun h1 h2 => ?_⟩
    have haccept := exec_passAccept h k ht ⟨h1, h2⟩
    have hdefer := exec_passDefer h k ht ⟨h1, h2⟩
    refine ⟨fun hno => ⟨haccept.trans (frame_congr ?_), hdefer.trans (frame_congr ?_)⟩, fun slot v hv =>
      ⟨(answered_iff.mp hv).2, fun hs => ⟨haccept.trans (frame_congr ?_), hdefer.trans (frame_congr ?_)⟩,
        fun c cfg hs hc hcfg => haccept.trans (frame_congr ?_), fun hs => hdefer.trans (frame_congr ?_),
        fun hs => hdefer.trans (frame_congr ?_)⟩⟩
    · rw [acceptAnswered, show answered s.heard _ _ _ = none from hno]
    · rw [deferAnswered, show answered s.heard _ _ _ = none from hno]
    · rw [acceptAnswered, show answered s.heard _ _ _ = some (slot, v) from hv]
      rcases hs with hs | hs <;> simp [hs, z]
    · rw [deferAnswered, show answered s.heard _ _ _ = some (slot, v) from hv]
      rcases hs with hs | hs <;> simp [hs, z]
    · rw [acceptAnswered, show answered s.heard _ _ _ = some (slot, v) from hv]
      have hpass := congrArg (modVehicle slot fun v => { v with
        state := .passing, handOver := .accepted, handOverTime := s.env.now, unconfirmed := false })
          (openExit_eq (e := s.env) z hc (answered_iff.mp hv).2 hcfg)
      rcases hs with hs | hs | hs <;> simp only [hs] <;> exact hpass
    · rw [deferAnswered, show answered s.heard _ _ _ = some (slot, v) from hv]
      rcases hs with hs | hs <;> simp only [hs] <;> rfl
    · rw [deferAnswered, show answered s.heard _ _ _ = some (slot, v) from hv]
      simp only [hs]
      rfl
  · intro h n k s ht e z t
    refine ⟨fun hn => congrArg _ (hearBody_malformed ht rfl (by simp [bodyKind, Kind.cls])
      (if_pos (by simp [vehicleOk_of_byte.mpr hn]))), fun h1 h2 hno => ?_, fun slot v h1 h2 hv => ?_⟩
    · refine (exec_passDone h k ht ⟨h1, h2⟩).trans (frame_congr ?_)
      rw [passDoneAnswered, show answered s.heard _ _ _ = none from hno]
    · have hexec : t = .next (s.endFrame h (if v.handOver = .accepted then deletePassed e slot v z else z)) := by
        refine (exec_passDone h k ht ⟨h1, h2⟩).trans (frame_congr ?_)
        rw [passDoneAnswered, show answered s.heard _ _ _ = some (slot, v) from hv]
      refine ⟨fun hs => hexec.trans (frame_congr (if_neg hs)), fun c hs hc hseg => ?_⟩
      have hdel : t = .next (s.endFrame h (offerLeftNumber e v.number (offerFreedSlot e (passedGone slot c z)))) :=
        hexec.trans (frame_congr ((if_pos hs).trans (deletePassed_eq e slot hc (.inl hseg))))
      exact ⟨hdel, fun hd => hdel.trans (frame_congr (answers_deferred_nil e _ (z := passedGone slot c z) hd))⟩
  · intro e z fits accepted
    exact ⟨offerFreedSlot_none, fun slot older o newer hslot hd ho hold => offerFreedSlot_some e hslot hd ho hold,
      fun n => offerLeftNumber_none, fun slot older o newer hslot hd ho hold => offerLeftNumber_some e hslot hd ho hold,
      fun slot v c hc hs => deletePassed_eq e slot hc hs⟩

end Sys2Proof.Machine

/-! PROOF. ROLL ENTRY (R68, R129, R157) and ROLL REMOVE (R69). -/

namespace Sys2Proof.Machine

/-! ### ROLL REMOVE (R69) -/

theorem exec_rollRemove {h : Header} {x : Serial} {c : PlaceCode} {s : State} (ht : s.takes h .rollRemove = true) :
    exec (.rollRemove h x c) s = .next (s.endFrame h (s.answered h .rollRemove (rollRemoved s.env x c s.heard).2
      (refPlace c x) (rollRemoved s.env x c s.heard).1)) :=
  congrArg _ (hearBody_decide .rollRemove _ _ ht rfl (by simp [bodyKind, Kind.cls]))

theorem removeNamed_unknown {e : Env} {z : Zone} {x : Serial} {c : PlaceCode} (hx : x ≠ 0) (h : findSerial z x = none) :
    removeNamed e z x c = .refused .unknownRoll := by
  rw [removeNamed, if_pos hx, h]

theorem removeNamed_outside {e : Env} {z : Zone} {c : PlaceCode}
    (h : c.decode = none ∨ ∃ p, c.decode = some p ∧ tableHas e p = false) :
    removeNamed e z 0 c = .refused .refusedRange := by
  rw [removeNamed, if_neg (by simp)]
  rcases h with h | ⟨p, hp, h⟩
  · rw [h]
  · rw [hp]
    exact if_pos (by simp [h])

theorem removeNamed_identified {e : Env} {z : Zone} {c : PlaceCode} {p : Place} (hp : c.decode = some p)
    (ht : tableHas e p = true) (hr : ∀ r, rollAt z p = some r → r.serial ≠ 0) :
    removeNamed e z 0 c = .refused .unknownRoll := by
  rw [removeNamed, if_neg (by simp), hp]
  refine (if_neg (by simp [ht])).trans ?_
  cases hx : rollAt z p with
  | none => rfl
  | some r => exact if_neg (hr r hx)

theorem removeRefused_iff {e : Env} {z : Zone} {p : Place} {r : Roll} : removeRefused e z p r = true ↔
    r.state = .running ∨ r.reservation ≠ none ∨ serialOrdered z r.serial = true ∨
      (∃ o ∈ allOrders z, orderNames e z o p = true) ∨ p = .carriage ∨ armSplicing z p = true ∨
      onPassing z p.key = true := by
  simp only [removeRefused, Bool.or_eq_true, decide_eq_true_iff, Option.isSome_iff_ne_none, List.any_eq_true, or_assoc]

/-- Settles O26. -/
theorem rollRemoveDecided : Obligations.RollRemoveDecided := by
  intro h x c s ht e z t with' gone
  have hdecided (z' : Zone) (r : Result) (hd : rollRemoved e x c z = (z', r)) : t = with' r z' := by
    refine (exec_rollRemove ht).trans ?_
    rw [show rollRemoved s.env x c s.heard = (z', r) from hd]
  have hnamed (r : Result) (hn : removeNamed e z x c = .refused r) : t = with' r z :=
    hdecided z r (by rw [rollRemoved, hn])
  refine ⟨fun hx hf => hnamed _ (removeNamed_unknown hx hf), ?_, ?_, ?_⟩
  · rintro rfl hp
    exact hnamed _ (removeNamed_outside hp)
  · rintro p rfl hp hth hr
    exact hnamed _ (removeNamed_identified hp hth hr)
  · intro p r hn
    refine ⟨fun hr => hdecided z .refusedState ?_, fun hst hres hser hord harm hpass => ?_⟩
    · rw [rollRemoved, hn]
      exact if_pos (removeRefused_iff.mpr hr)
    · have hremoved (hp : p ≠ .carriage) : t = with' .done (removeRoll e p z) := by
        refine hdecided _ _ ?_
        rw [rollRemoved, hn]
        refine if_neg fun hr => ?_
        rcases removeRefused_iff.mp hr with h1 | h1 | h1 | ⟨o, ho, h1⟩ | h1 | h1 | h1
        · exact hst h1
        · exact h1 hres
        · exact absurd (hser.symm.trans h1) nofun
        · exact absurd ((hord o ho).symm.trans h1) nofun
        · exact hp h1
        · exact absurd (harm.symm.trans h1) nofun
        · exact absurd (hpass.symm.trans h1) nofun
      refine ⟨?_, ?_, ?_⟩
      · rintro l q rfl
        exact hremoved nofun
      · rintro n a rfl
        exact hremoved nofun
      · rintro slot rfl
        exact hremoved nofun

/-! ### An identification changes neither the running arm nor a roll's state -/

theorem runningArm_of_stands {z t : Zone} (h : t.splice = z.splice) (r : Nat) : runningArm t r = runningArm z r := by
  simp only [runningArm, splice?, h]

theorem runningArm_modSplice (r : Nat) (f : Splice → Splice) (z : Zone)
    (h : ∀ w : Splice, (f w).running = w.running := by intro w; rfl) :
    runningArm (modSplice r f z) r = runningArm z r := by
  rw [runningArm, splice?_modSplice, runningArm]
  cases splice? z r <;> simp [h]

theorem runningArm_releaseDeferred (e : Env) (r : Nat) (z : Zone) : runningArm (releaseDeferred e r z) r = runningArm z r := by
  cases hw : splice? z r with
  | none =>
    have h : releaseDeferred e r z = z := by simp only [releaseDeferred, hw]
    rw [h]
  | some w =>
    rw [releaseDeferred_of_splice hw]
    exact (runningArm_of_stands (tellHeld_splice ..) r).trans (runningArm_modSplice r _ z)

theorem runningArm_setSpliceState (e : Env) (r : Nat) (st : SpliceState) (z : Zone) :
    runningArm (setSpliceState e r st z) r = runningArm z r := by
  unfold setSpliceState
  dsimp only
  split
  · rw [runningArm_releaseDeferred]
    exact runningArm_modSplice r _ z
  · exact runningArm_modSplice r _ z

theorem runningArm_raiseForReel (e : Env) (r : Nat) (code : FaultCode) (context : List CtxElem) (z : Zone) :
    runningArm (raiseForReel e r code context z) r = runningArm z r := by
  unfold raiseForReel
  split
  · exact runningArm_modSplice r _ z
  · exact runningArm_of_stands (raise_splice ..) r

theorem runningArm_writeRemaining (e : Env) (r : Nat) (x : Arm) (m : Meas) (z : Zone) :
    runningArm (writeRemaining e r x m z) r = runningArm z r := by
  unfold writeRemaining writeRoll
  split
  · rfl
  · split
    · dsimp only
      split
      · rfl
      · exact runningArm_raiseForReel e r _ _ z
    · exact runningArm_raiseForReel e r _ _ z

theorem runningArm_evalPaste (z : Zone) (r : Nat) : runningArm (evalPaste z r) r = runningArm z r := by
  unfold evalPaste
  split
  · exact runningArm_modSplice r _ z
  · rfl

theorem runningArm_evalRunout (e : Env) (r : Nat) (z : Zone) : runningArm (evalRunout e r z) r = runningArm z r := by
  have hstop : runningArm (runoutStopped r z) r = runningArm z r :=
    runningArm_modSplice r (fun s => { s with runoutRaised := true }) z
  cases hdue : runoutDue r z with
  | false => rw [show evalRunout e r z = z from if_neg (Bool.eq_false_iff.mp hdue)]
  | true =>
    rw [evalRunout_of_due hdue]
    dsimp only
    rw [runningArm_of_stands (raise_splice ..), runoutFallen]
    split
    · rw [runningArm_setSpliceState]
      exact (runningArm_modSplice r _ _).trans hstop
    · exact hstop

theorem runningArm_enterMatched (r : Nat) (z : Zone) : runningArm (enterMatched r z) r = runningArm z r :=
  (runningArm_evalPaste _ r).trans (runningArm_modSplice r (fun s => { s with
    state := .matched, matchTimer := none }) z)

theorem runningArm_startAcceleration (e : Env) (r : Nat) (z : Zone) :
    runningArm (startAcceleration e r z) r = runningArm z r := by
  rw [startAcceleration_eq]
  dsimp only
  split
  · exact (runningArm_enterMatched r _).trans (runningArm_modSplice r _ _)
  · exact runningArm_modSplice r _ _

theorem runningArm_evalSplice (e : Env) (r : Nat) (z : Zone) : runningArm (evalSplice e r z) r = runningArm z r := by
  unfold evalSplice
  split
  · exact runningArm_startAcceleration e r z
  · split
    · exact (runningArm_modSplice r _ _).trans (runningArm_of_stands (raise_splice ..) r)
    · rfl

theorem runningArm_lengthChanged (e : Env) (r : Nat) (x : Arm) (z : Zone) :
    runningArm (lengthChanged e r x z) r = runningArm z r := by
  cases hy : reel? z r with
  | none => simp only [lengthChanged, hy]
  | some y =>
    have hgiven : runningArm (lengthGiven e r (setTime e r (writeRemaining e r x (y.meas x) z))) r = runningArm z r := by
      rw [lengthGiven, runningArm_evalRunout, runningArm_evalPaste]
      exact (runningArm_of_stands rfl r).trans (runningArm_writeRemaining e r x _ z)
    rw [lengthChanged_eq hy]
    dsimp only
    rw [runningArm_of_stands (evalRunoutCall_splice ..)]
    split
    · rw [runningArm_evalSplice, hgiven]
    · exact hgiven

/-- The roll on an arm keeps its state as its remaining length is written. -/
theorem rollAt_writeRemaining (e : Env) (r : Nat) (x : Arm) (m : Meas) (z : Zone) :
    (rollAt (writeRemaining e r x m z) (.arm r x)).map Roll.state = (rollAt z (.arm r x)).map Roll.state := by
  have hfault (context : List CtxElem) : rollAt (raiseMismatch e (.arm r x) context z) (.arm r x) = rollAt z (.arm r x) :=
    rollAt_of_stock (raiseForReel_driven e r _ context z).2.1 _
  unfold writeRemaining
  split
  · rfl
  · unfold writeRoll
    cases hk : rollAt z (.arm r x) with
    | none => simp only [hfault, hk]
    | some k =>
      dsimp only
      rw [rollAt_setRoll_same]
      rfl

theorem rollAt_lengthChanged (e : Env) (r : Nat) (x : Arm) (z : Zone) :
    (rollAt (lengthChanged e r x z) (.arm r x)).map Roll.state = (rollAt z (.arm r x)).map Roll.state := by
  cases hy : reel? z r with
  | none => simp only [lengthChanged, hy]
  | some y =>
    have hgiven := (lengthGiven_driven e r (setTime e r (writeRemaining e r x (y.meas x) z))).2.1
    have hwritten : (rollAt (setTime e r (writeRemaining e r x (y.meas x) z)) (.arm r x)).map Roll.state =
        (rollAt z (.arm r x)).map Roll.state := rollAt_writeRemaining e r x _ z
    rw [lengthChanged_eq hy]
    dsimp only
    rw [rollAt_of_stock (evalRunoutCall_driven ..).2.1]
    split
    · rw [rollAt_of_stock (evalSplice_driven ..).2.1, rollAt_of_stock hgiven, hwritten]
    · rw [rollAt_of_stock hgiven, hwritten]

/-! ### What an identification changes (R129, R157) -/

/-- The record of the identified roll, before L_rem is looked at. -/
def Meas.named (m : Meas) (c : ReelCfg) (serial : Serial) (caliper metres : Nat) : Meas :=
  let m := ({ m with serial := serial, caliper := caliper } : Meas).withLimits c
  let m :=
    if m.seed = .unseeded ∧ 0 < metres then
      { m with loadLength := metres * 1000, fed := 0, countLength := metres * 1000, seed := .fromRecord }
    else m
  if m.state = .measuring then { m with measLength := m.average.map (lengthAt c.core m.caliper) } else m

theorem named_keeps (m : Meas) (c : ReelCfg) (serial : Serial) (caliper metres : Nat) :
    let t := m.named c serial caliper metres
    t.serial = serial ∧ t.caliper = caliper ∧ t.spliceLength = lengthAt c.core caliper c.splice ∧
      t.minLength = lengthAt c.core caliper c.margin ∧ t.state = m.state ∧ t.readings = m.readings ∧
      t.average = m.average ∧ t.reference = m.reference ∧ t.rejects = m.rejects ∧ t.totalRejects = m.totalRejects ∧
      t.lastRejected = m.lastRejected ∧ t.remaining = m.remaining := by
  by_cases hs : m.seed = .unseeded ∧ 0 < metres <;> by_cases hm : m.state = .measuring <;>
    simp [Meas.named, Meas.withLimits, hs, hm]

theorem named_taken {m : Meas} (c : ReelCfg) (serial : Serial) (caliper : Nat) {metres : Nat}
    (h : m.seed = .unseeded ∧ 0 < metres) :
    let t := m.named c serial caliper metres
    t.seed = .fromRecord ∧ t.loadLength = metres * 1000 ∧ t.countLength = metres * 1000 ∧ t.fed = 0 := by
  by_cases hm : m.state = .measuring <;> simp [Meas.named, Meas.withLimits, h, hm]

theorem named_not_taken {m : Meas} (c : ReelCfg) (serial : Serial) (caliper : Nat) {metres : Nat}
    (h : ¬ (m.seed = .unseeded ∧ 0 < metres)) :
    let t := m.named c serial caliper metres
    t.seed = m.seed ∧ t.loadLength = m.loadLength ∧ t.countLength = m.countLength ∧ t.fed = m.fed := by
  by_cases hm : m.state = .measuring <;> simp [Meas.named, Meas.withLimits, h, hm]

theorem named_measuring {m : Meas} (c : ReelCfg) (serial : Serial) (caliper metres : Nat) (hm : m.state = .measuring) :
    (m.named c serial caliper metres).measLength = m.average.map (lengthAt c.core caliper) := by
  by_cases hs : m.seed = .unseeded ∧ 0 < metres <;> simp [Meas.named, Meas.withLimits, hs, hm]

theorem named_other {m : Meas} (c : ReelCfg) (serial : Serial) (caliper metres : Nat) (hm : m.state ≠ .measuring) :
    (m.named c serial caliper metres).measLength = m.measLength := by
  by_cases hs : m.seed = .unseeded ∧ 0 < metres <;> simp [Meas.named, Meas.withLimits, hs, hm]

theorem webIdentified_marked {w : WebPath} {front : List Mark} {m : Mark} (s : Serial) (h : w.marks = front ++ [m]) :
    w.identified s = if m.new = 0 then { w with marks := front ++ [{ m with new := s }] } else w := by
  unfold WebPath.identified
  simp [h]

theorem webIdentified_unmarked {w : WebPath} (s : Serial) (h : w.marks = []) :
    w.identified s = if w.folderRoll = some 0 then { w with folderRoll := some s } else w := by
  unfold WebPath.identified
  simp [h]

/-- The runout engine's part of an identification. -/
theorem identifyRunning_eq {e : Env} {r : Nat} {x : Arm} {z : Zone} {y : Reel} {c : ReelCfg} (hy : z.reels.get? r = some y)
    (hc : e.img.reel? r = some c) (serial : Serial) (caliper metres : Nat) : identifyRunning e r x serial caliper metres z =
      let new := (y.meas x).identified c serial caliper metres
      let set : Zone := { z with reels := z.reels.modify r fun y => y.setMeas x new }
      if y.running = some x then (if new.remaining = (y.meas x).remaining then set else lengthChanged e r x set) else z := by
  unfold identifyRunning
  rw [show reel? z r = some y from hy, hc]
  dsimp only
  refine if_congr Iff.rfl ?_ rfl
  exact ite_not ..

theorem identifyRunning_arm {e : Env} {r : Nat} {x : Arm} {z : Zone} (serial : Serial) (caliper metres : Nat) :
    runningArm (identifyRunning e r x serial caliper metres z) r = runningArm z r ∧
      (rollAt (identifyRunning e r x serial caliper metres z) (.arm r x)).map Roll.state =
        (rollAt z (.arm r x)).map Roll.state := by
  unfold identifyRunning
  split
  · split
    · dsimp only
      split
      · exact ⟨(runningArm_lengthChanged e r x _).trans (runningArm_of_stands rfl r), rollAt_lengthChanged e r x _⟩
      · exact ⟨runningArm_of_stands rfl r, rfl⟩
    · exact ⟨rfl, rfl⟩
  · exact ⟨rfl, rfl⟩

/-- The web path block is told where the roll is the running one. -/
theorem tellIdentified_eq {e : Env} {r : Nat} {x : Arm} {z : Zone} {w : Splice} {k : Roll} (n : Entry)
    (hw : z.splice.stands.get? r = some w) (hk : rollAt z (.arm r x) = some k) : tellIdentified e r x n z =
      if w.running = some x ∧ k.state = .running then
        modWeb r (fun w => w.identified n.serial) (identifyRunning e r x n.serial n.data.caliper n.remaining z)
      else identifyRunning e r x n.serial n.data.caliper n.remaining z := by
  obtain ⟨harm, hroll⟩ := identifyRunning_arm (e := e) (r := r) (x := x) (z := z) n.serial n.data.caliper n.remaining
  unfold tellIdentified
  dsimp only
  refine if_congr (and_congr ?_ ?_) rfl rfl
  · rw [harm, runningArm_of_splice hw]
  · rw [hk] at hroll
    obtain ⟨k', hk', hst⟩ := Option.map_eq_some_iff.mp hroll
    rw [hk', Option.any_some, decide_eq_true_iff, hst]

/-! ### ROLL ENTRY (R68) -/

theorem exec_rollEntry {h : Header} {c : PlaceCode} {x : Serial} {g : Byte} {w : BitVec 16} {cal : Byte} {m : BitVec 24}
    {s : State} (ht : s.takes h .rollEntry = true) :
    let d := rollEntered s.env c ⟨x, g.toNat, w.toNat, cal.toNat, m.toNat⟩ s.heard
    exec (.rollEntry h c x g w cal m) s = .next (s.endFrame h (s.answered h .rollEntry d.2 (refPlace c x) d.1)) :=
  congrArg _ (hearBody_decide .rollEntry _ _ ht rfl (by simp [bodyKind, Kind.cls]))

theorem tableHas_dock (e : Env) (d : Nat) : tableHas e (.dock d) = false := by simp [tableHas]

theorem tableHas_of_place {e : Env} {p : Place} (hd : ∀ d, p ≠ .dock d) : tableHas e p = e.img.hasPlace p := by
  cases p with
  | dock d => exact absurd rfl (hd d)
  | _ => simp [tableHas]

theorem inRange_iff {x : Serial} {g : Byte} {w : BitVec 16} {cal : Byte} {m : BitVec 24} :
    Entry.inRange ⟨x, g.toNat, w.toNat, cal.toNat, m.toNat⟩ = true ↔
      x ≠ 0 ∧ g ≠ 0 ∧ 200 ≤ w.toNat ∧ w.toNat ≤ 2600 ∧ m.toNat ≤ 99999 := by
  have hg : g.toNat ≤ 255 := Nat.le_of_lt_succ g.isLt
  simp only [Entry.inRange, Bool.and_eq_true, decide_eq_true_iff, and_assoc, byte_ne_zero, hg, true_and]

theorem rollEntered_outside {e : Env} {c : PlaceCode} {n : Entry} {z : Zone} (h : c.decode = none ∨
    (∃ d, c.decode = some (.dock d)) ∨ (∃ p, c.decode = some p ∧ e.img.hasPlace p = false) ∨ n.inRange = false) :
    rollEntered e c n z = (z, .refusedRange) := by
  unfold rollEntered
  cases hc : c.decode with
  | none => rfl
  | some p =>
    refine if_pos ?_
    rcases h with h | ⟨d, h⟩ | ⟨q, h, hq⟩ | h
    · exact absurd (hc.symm.trans h) nofun
    · obtain rfl := Option.some.inj (hc.symm.trans h)
      simp [tableHas_dock]
    · obtain rfl := Option.some.inj (hc.symm.trans h)
      simp [tableHas, hq]
    · simp [h]

theorem rollEntered_named {e : Env} {c : PlaceCode} {n : Entry} {z : Zone} {p : Place} (hc : c.decode = some p)
    (ht : tableHas e p = true) (hn : n.inRange = true)
    (h : findSerial z n.serial ≠ none ∨ ∃ o, runningOrder z = some o ∧ orderNames e z o p = true) :
    rollEntered e c n z = (z, .refusedState) := by
  unfold rollEntered
  rw [hc]
  refine (if_neg (by simp [ht, hn])).trans (if_pos ?_)
  rwa [Bool.or_eq_true, Option.isSome_iff_ne_none, Option.any_eq_true]

/-- What the place does with the entry, all checks passed. -/
def enterPlace (e : Env) (p : Place) (n : Entry) (z : Zone) : Zone × Result :=
  match p with
  | .lane l q => enterLane e l q n z
  | .arm r x => enterArm e r x n z
  | .vehicle slot => enterVehicle e slot n z
  | .carriage => enterCarriage e n z
  | .dock _ => (z, .refusedRange)

theorem rollEntered_placed {e : Env} {c : PlaceCode} {n : Entry} {z : Zone} {p : Place} (hc : c.decode = some p)
    (ht : tableHas e p = true) (hn : n.inRange = true) (hf : findSerial z n.serial = none)
    (ho : ∀ o, runningOrder z = some o → orderNames e z o p = false) :
    rollEntered e c n z = enterPlace e p n z := by
  unfold rollEntered
  rw [hc]
  refine (if_neg (by simp [ht, hn])).trans ((if_neg fun h => ?_).trans ?_)
  · rcases Bool.or_eq_true _ _ ▸ h with h | h
    · simp [hf] at h
    · rw [Option.any_eq_true] at h
      obtain ⟨o, hr, hon⟩ := h
      exact absurd ((ho o hr).symm.trans hon) nofun
  · cases p <;> rfl

/-- A place that holds an identified record takes no entry. -/
theorem enterPlace_identified {e : Env} {p : Place} (n : Entry) {z : Zone} {r : Roll} (hd : ∀ d, p ≠ .dock d)
    (hr : rollAt z p = some r) (h0 : r.serial ≠ 0) : enterPlace e p n z = (z, .refusedState) := by
  cases p with
  | lane l q =>
    unfold enterPlace enterLane
    simp only [hr, if_neg h0]
  | arm a x =>
    unfold enterPlace enterArm
    simp only [hr, if_neg h0]
  | vehicle slot =>
    unfold enterPlace enterVehicle
    simp only [hr]
    cases vehicle? z slot <;> simp
  | carriage =>
    unfold enterPlace enterCarriage
    simp only [hr, if_neg h0]
  | dock d => exact absurd rfl (hd d)

theorem enterLane_unidentified {e : Env} {l q : Nat} (n : Entry) {z : Zone} {r : Roll} (hr : rollAt z (.lane l q) = some r)
    (h0 : r.serial = 0) : enterLane e l q n z =
      (alertIdentified e r n none (setRoll (.lane l q) { r.identify n with state := laneRest e l } z), .done) := by
  unfold enterLane
  simp only [hr, if_pos h0]

theorem enterLane_empty {e : Env} {l q : Nat} (n : Entry) {z : Zone} (hr : rollAt z (.lane l q) = none) :
    enterLane e l q n z =
      if laneDetector e l q then (laneEntered e l (setRoll (.lane l q) ((unidentified (laneRest e l)).identify n) z), .done)
      else (z, .refusedState) := by
  unfold enterLane
  simp only [hr]

theorem enterArm_unidentified {e : Env} {r : Nat} {x : Arm} (n : Entry) {z : Zone} {y : Roll}
    (hr : rollAt z (.arm r x) = some y) (h0 : y.serial = 0) : enterArm e r x n z =
      (alertIdentified e y n (some r) (tellIdentified e r x n (setRoll (.arm r x) (y.identify n) z)), .done) := by
  unfold enterArm
  simp only [hr, if_pos h0]

theorem enterCarriage_unidentified {e : Env} (n : Entry) {z : Zone} {r : Roll} (hr : rollAt z .carriage = some r)
    (h0 : r.serial = 0) : enterCarriage e n z =
      (alertIdentified e r n none (match runningOrder z with
        | some o => if o.serial = 0 then modOrder o.number (fun o => { o with serial := n.serial })
            (setRoll .carriage (r.identify n) z) else setRoll .carriage (r.identify n) z
        | none => setRoll .carriage (r.identify n) z), .done) := by
  have hrun : runningOrder (setRoll .carriage (r.identify n) z) = runningOrder z := rfl
  unfold enterCarriage
  cases ho : runningOrder z <;> simp only [hr, if_pos h0, hrun, ho]

theorem enterVehicle_loaded {e : Env} {slot : Nat} (n : Entry) {z : Zone} {v : Vehicle} (hv : vehicle? z slot = some v)
    (hm : mayBeLoaded v = true) (hr : rollAt z (.vehicle slot) = none) : enterVehicle e slot n z =
      (setPurpose e slot (.returnTo e.own) (modVehicle slot (fun v => { v with loaded := true })
        (setRoll (.vehicle slot) ((unidentified .shipping).identify n) z)), .done) := by
  unfold enterVehicle
  rw [hv]
  exact if_pos ⟨hm, by simp [hr]⟩

theorem enterVehicle_refused {e : Env} {slot : Nat} (n : Entry) {z : Zone}
    (h : (∀ v, vehicle? z slot = some v → mayBeLoaded v = false) ∨ rollAt z (.vehicle slot) ≠ none) :
    enterVehicle e slot n z = (z, .refusedState) := by
  unfold enterVehicle
  cases hv : vehicle? z slot with
  | none => rfl
  | some v =>
    refine if_neg fun ⟨hm, hr⟩ => ?_
    rcases h with h | h
    · exact absurd ((h v hv).symm.trans hm) nofun
    · exact h (Option.isNone_iff_eq_none.mp hr)

/-- Settles O25. -/
theorem rollEntryDecided : Obligations.RollEntryDecided := by
  refine ⟨?_, ?_, ?_, ?_⟩
  · intro h c x g w cal m s ht e z t with' inRange data told
    let n : Entry := ⟨x, g.toNat, w.toNat, cal.toNat, m.toNat⟩
    have hdecided (z' : Zone) (r : Result) (hd : rollEntered e c n z = (z', r)) : t = with' r z' := by
      refine (exec_rollEntry ht).trans ?_
      rw [show rollEntered s.env c ⟨x, g.toNat, w.toNat, cal.toNat, m.toNat⟩ s.heard = (z', r) from hd]
    have hrange : n.inRange = true ↔ inRange := inRange_iff
    refine ⟨fun hout => hdecided _ _ (rollEntered_outside ?_), fun p hc hnd hp hin => ⟨fun hno => ?_, fun hf ho => ?_⟩⟩
    · exact hout.imp id (Or.imp id (Or.imp id fun hn => Bool.eq_false_iff.mpr (mt hrange.mp hn)))
    · exact hdecided _ _ (rollEntered_named hc ((tableHas_of_place hnd).trans hp) (hrange.mpr hin) hno)
    · have hplaced (z' : Zone) (r : Result) (hd : enterPlace e p n z = (z', r)) : t = with' r z' :=
        hdecided z' r ((rollEntered_placed hc ((tableHas_of_place hnd).trans hp) (hrange.mpr hin) hf ho).trans hd)
      refine ⟨fun r hr h0 => hplaced _ _ (enterPlace_identified n hnd hr h0), ?_, ?_, ?_, ?_, ?_, ?_, ?_, ?_, ?_⟩
      · rintro l q r rfl hr h0
        exact hplaced _ _ (enterLane_unidentified n hr h0)
      · rintro l q rfl hr hdet
        exact hplaced _ _ ((enterLane_empty n hr).trans (if_neg (by simp [hdet])))
      · rintro l q rfl hr hdet
        exact hplaced _ _ ((enterLane_empty n hr).trans (if_pos hdet))
      · rintro k a r rfl hr h0
        exact hplaced _ _ (enterArm_unidentified n hr h0)
      · rintro r rfl hr h0
        exact hplaced _ _ (enterCarriage_unidentified n hr h0)
      · rintro rfl hr
        refine hplaced _ _ ?_
        unfold enterPlace enterCarriage
        simp only [hr]
      · rintro k a rfl hr
        refine hplaced _ _ ?_
        unfold enterPlace enterArm
        simp only [hr]
      · rintro slot v rfl hv hm hr
        exact hplaced _ _ (enterVehicle_loaded n hv hm hr)
      · rintro slot rfl hno
        exact hplaced _ _ (enterVehicle_refused n hno)
  · intro m c serial caliper metres t L taken
    obtain ⟨h1, h2, h3, h4, h5, h6, h7, h8, h9, h10, h11, hrem⟩ := named_keeps m c serial caliper metres
    refine ⟨h1, h2, h3, h4, h5, h6, h7, h8, h9, h10, h11, named_taken c serial caliper, named_not_taken c serial caliper,
      fun hm => ⟨named_measuring c serial caliper metres hm, fun ha => ?_, fun av ha => ?_⟩,
      named_other c serial caliper metres, fun hs => ?_, fun hs => ?_⟩
    · refine (lower_measured (h5.trans hm)).trans ?_
      rw [named_measuring c serial caliper metres hm, ha]
      exact hrem
    · refine (lower_measured (h5.trans hm)).trans ?_
      rw [named_measuring c serial caliper metres hm, ha, hrem]
      rfl
    · refine (lower_counting (hs.imp h5.trans h5.trans) true).trans ?_
      rw [hrem]
      rfl
    · have hnone : (m.named c serial caliper metres).source true = none := by
        simp only [Meas.source, h5.trans hs]
      rw [show t = (m.named c serial caliper metres).lower none by rw [← hnone]; rfl]
      exact hrem
  · exact fun w s => ⟨fun front m h => webIdentified_marked s h, webIdentified_unmarked s⟩
  · intro e r x n z y c w k hy hc hw hk new set measured
    have hmeasured : identifyRunning e r x n.serial n.data.caliper n.remaining z = measured := identifyRunning_eq hy hc _ _ _
    refine ⟨fun hrun hst => ?_, fun hno => ?_⟩
    · rw [tellIdentified_eq n hw hk, if_pos ⟨hrun, hst⟩, hmeasured]
      rfl
    · rw [tellIdentified_eq n hw hk, if_neg (fun h => hno.elim (fun hn => hn h.1) fun hn => hn h.2), hmeasured]

end Sys2Proof.Machine

/-! PROOF. REPORT REQUEST and the pages of a ZONE REPORT (R185, R192). -/

namespace Sys2Proof.Machine

/-! ### The answer (R185) -/

/-- The part of a page as the frame that carries it. -/
theorem zoneReport_part {e : Env} {sp : Spoilage} {z : Zone} {page index part : Byte} {d : List Byte}
    (hd : pageData e sp z page.toNat index.toNat = some d) (h1 : 1 ≤ part.toNat) (h2 : part.toNat ≤ (d.length + 19) / 20) :
    zoneReport e sp z page.toNat index.toNat part.toNat =
      some (.zoneReport page index part (BitVec.ofNat 8 ((d.length + 19) / 20))
        ((d.drop (20 * (part.toNat - 1))).take 20)) := by
  unfold zoneReport
  rw [hd]
  refine (if_pos ⟨h1, h2⟩).trans ?_
  rw [byte_of_toNat rfl, byte_of_toNat rfl, byte_of_toNat rfl]
  rfl

theorem zoneReport_none {e : Env} {sp : Spoilage} {z : Zone} {page index part : Byte}
    (h : pageData e sp z page.toNat index.toNat = none ∨ ∃ d, pageData e sp z page.toNat index.toNat = some d ∧
      (part = 0 ∨ (d.length + 19) / 20 < part.toNat)) :
    zoneReport e sp z page.toNat index.toNat part.toNat = none := by
  unfold zoneReport
  rcases h with h | ⟨d, hd, h⟩
  · rw [h]
  · rw [hd]
    refine if_neg fun ⟨h1, h2⟩ => ?_
    rcases h with h | h
    · exact byte_ne_zero.mp h1 h
    · exact absurd h2 (Nat.not_le.mpr h)

/-- What a REPORT REQUEST is answered. -/
def reportAnswered (h : Header) (sp : Spoilage) (page index part : Byte) (e : Env) (z : Zone) : Zone :=
  match zoneReport e sp z page.toNat index.toNat part.toNat with
  | some b => offer e ⟨h.sender.toNat, b⟩ z
  | none => answer e h.sender.toNat .reportRequest .refusedRange 0 z

theorem exec_reportRequest {h : Header} {page index part : Byte} {s : State} (ht : s.takes h .reportRequest = true) :
    exec (.reportRequest h page index part) s =
      .next (s.endFrame h (reportAnswered h s.spoilage page index part s.env s.heard)) :=
  congrArg _ (hearBody_work (reportAnswered h s.spoilage page index part) ht rfl (by simp [bodyKind, Kind.cls]) rfl)

/-! ### Parts (R192) -/

theorem flatMap_parts (d : List Byte) (n : Nat) : (upTo n).flatMap (partData d) = d.take (20 * n) := by
  induction n with
  | zero => simp [upTo]
  | succ n ih =>
    rw [upTo_succ, List.flatMap_append, ih, Nat.mul_succ, List.take_add]
    simp [partData]

theorem parts_whole (d : List Byte) : (upTo (partCount d)).flatMap (partData d) = d := by
  rw [flatMap_parts, List.take_of_length_le]
  unfold partCount
  omega

theorem partData_length (d : List Byte) (p : Nat) : (partData d p).length = min 20 (d.length - 20 * (p - 1)) := by
  simp [partData]

/-! ### Sizes of the pages (Table 11-3-1) -/

theorem metresBytes_length (x : Metres) : (metresBytes x).length = 6 := by simp [metresBytes, field_length]

theorem countBytes_length (c : Counts) : (countBytes c).length = 28 := by simp [countBytes, field_length]

theorem webBytes_length (c : Counts) : (webBytes c).length = 24 := by simp [webBytes, metresBytes_length]

theorem bytes32_length (w : BitVec 32) : (bytes32 w).length = 4 := rfl

theorem contextBytes_length (o : Occurrence) : (contextBytes o).length = 9 := by
  simp [contextBytes, bytes32_length, toBytes_length]

theorem entryBytes_length (c : ClassEntry) : (entryBytes c).length = 15 := by
  simp [entryBytes, bytes32_length, contextBytes_length]

theorem editionPage_length (s : Spoilage) : (editionPage s).length = 64 := by
  simp [editionPage, field_length, countBytes_length, metresBytes_length, webBytes_length]

theorem runPage_length (r : RunRecord) : (runPage r).length = 68 := by
  simp [runPage, field_length, countBytes_length, metresBytes_length, webBytes_length]

theorem windowPage_length (s : Spoilage) : (windowPage s).length = 6 := by simp [windowPage, field_length]

theorem leadPage_length (e : Env) (f : FaultRecord) : (leadPage e f).length = 16 := by
  unfold leadPage
  cases f.lead <;> simp [bytes32_length, contextBytes_length]

theorem classPage_length (f : FaultRecord) (k : Nat) : (classPage f k).length = 15 := by
  unfold classPage
  cases f.entries.get? k <;> simp [entryBytes_length]

theorem linePage_length (l : Line) : (linePage l).length = 10 := by simp [linePage, field_length]

theorem noticeAt_length (z : Zone) (k : Nat) : (noticeAt z k).length = 9 := noticeBytes_length _

theorem reelPage_length (e : Env) (z : Zone) (r : Nat) : (reelPage e z r).length = 152 := by
  simp [reelPage, rollBytes_length, measBytes_length, field_length, webRecordBytes_length, callBytes_length, noticeAt_length]

theorem lanePage_length {e : Env} (z : Zone) {l : Nat} {c : LaneCfg} (hc : e.img.lane? l = some c) :
    (lanePage e z l).length = 48 := by
  simp [lanePage, hc, field_length, rollBytes_length, callBytes_length, noticeAt_length]

theorem slotPage_length (z : Zone) : (slotPage z).length = 40 := by simp [slotPage, slotBytes_length]

theorem queueBytes_length (z : Zone) (q : Queue) : (queueBytes z q).length = 7 := by simp [queueBytes, field_length]

/-- The carriage's order in the transfer status. -/
def transferHead (z : Zone) : List Byte :=
  match z.transfer.carriage with
  | .running n =>
    (match order? z n with
     | some o => [byte n, byte o.req.origin.code, byte o.step] ++ bytes32 o.serial
     | none => List.replicate 7 0#8)
  | .halted o => [byte o.number, 0#8, 0#8] ++ bytes32 o.serial
  | .idle => List.replicate 7 0#8

/-- The suspended order in the transfer status. -/
def transferSuspended (z : Zone) : List Byte :=
  match suspendedOrder z with
  | some o => [byte o.number, byte o.step]
  | none => [0#8, 0#8]

theorem transferPage_eq (z : Zone) : transferPage z =
    [byte z.transfer.carriage.code] ++ transferHead z ++ transferSuspended z ++
      [byte z.transfer.statP.last, byte z.transfer.statO.last] ++ queueBytes z .p ++ queueBytes z .o ++
      (upTo 12).flatMap fun d => noticeAt z (Place.dock d).key := rfl

theorem transferHead_length (z : Zone) : (transferHead z).length = 7 := by
  unfold transferHead
  cases z.transfer.carriage with
  | idle => rfl
  | halted o => rfl
  | running n => cases hn : order? z n <;> simp [hn, bytes32_length]

theorem transferSuspended_length (z : Zone) : (transferSuspended z).length = 2 := by
  unfold transferSuspended
  cases suspendedOrder z <;> rfl

theorem transferPage_length (z : Zone) : (transferPage z).length = 134 := by
  rw [transferPage_eq, show upTo 12 = [1, 2, 3, 4, 5, 6, 7, 8, 9, 10, 11, 12] from rfl]
  simp [transferHead_length, transferSuspended_length, queueBytes_length, noticeAt_length]

theorem vehiclePage_length (z : Zone) (k : Nat) : (vehiclePage z k).length = 52 := by
  unfold vehiclePage
  cases vehicle? z k <;> simp [purposeBytes_length, bytes32_length, loadBytes_length]

theorem segmentPage_length {z : Zone} {k : Nat} (h : z.track.segments.get? k ≠ none) : (segmentPage z k).length = 10 := by
  obtain ⟨x, hx⟩ := Option.ne_none_iff_exists'.mp h
  simp [segmentPage, seg?, hx]

/-! ### Which page an index names (Table 10-4-1) -/

theorem pageData_none_iff (e : Env) (sp : Spoilage) (z : Zone) (p i : Nat) : pageData e sp z p i = none ↔
    ¬ ((p = 1 ∧ 1 ≤ i ∧ i ≤ 2) ∨ (p = 2 ∧ 1 ≤ i ∧ i ≤ 3) ∨ (p = 3 ∧ 1 ≤ i ∧ i ≤ e.img.reels.length) ∨
      (p = 4 ∧ 1 ≤ i ∧ i ≤ e.img.lanes.length + 2) ∨ (p = 5 ∧ 1 ≤ i ∧ i ≤ 8 + e.img.segments.length) ∨ (p = 6 ∧ i ≤ 7) ∨
      (p = 7 ∧ i = 1)) := by
  unfold pageData
  dsimp only
  split
  case h_8 => simp_all
  all_goals (repeat' split) <;> simp <;> omega

/-! ### The bytes of the pages (Table 11-3-1) -/

/-- A serial's four bytes are those of the number it is. -/
theorem bytes32_eq (w : BitVec 32) : bytes32 w = toBytes 4 w.toNat := by
  have hbyte (i : Nat) : w.extractLsb' (8 * i) 8 = byte (w.toNat / 256 ^ i) := by
    refine BitVec.eq_of_toNat_eq ?_
    rw [byte_toNat, BitVec.extractLsb'_toNat, Nat.shiftRight_eq_div_pow, Nat.pow_mul]
  simp only [bytes32, toBytes, ← hbyte]

/-- Settles O34. -/
theorem reportRequestAnswered : Obligations.ReportRequestAnswered := by
  refine ⟨?_, ⟨?_, ?_, ?_⟩, ?_, ?_, ?_⟩
  · intro h page index part s ht e z t
    have hexec : t = .next (s.endFrame h (reportAnswered h s.spoilage page index part e z)) := exec_reportRequest ht
    refine ⟨fun d hd h1 h2 => ?_, fun hno => ?_⟩
    · rw [hexec, reportAnswered, zoneReport_part hd h1 h2]
    · rw [hexec, reportAnswered, zoneReport_none hno]
      rfl
  · intro d
    refine ⟨parts_whole d, fun p => ?_, fun p h1 h2 => ?_⟩
    · rw [partData_length]
      exact Nat.min_le_left ..
    · rw [partData_length]
      unfold partCount at h2
      omega
  · exact fun s => ⟨editionPage_length s, rfl, runPage_length _, windowPage_length s⟩
  · exact fun e f l k => ⟨leadPage_length e f, classPage_length f k, linePage_length l⟩
  · intro e z
    refine ⟨reelPage_length e z, fun l h1 h2 => ?_, slotPage_length z, transferPage_length z, vehiclePage_length z,
      fun k => segmentPage_length⟩
    obtain ⟨c, hc⟩ := nth_isSome h1 h2
    exact lanePage_length z hc
  · intro e sp z page lanes
    refine ⟨rfl, rfl, rfl, rfl, rfl, fun r h1 h2 => if_pos ⟨h1, h2⟩, fun l h1 h2 => if_pos ⟨h1, h2⟩, ?_, ?_,
      fun k h1 h2 => if_pos ⟨h1, h2⟩, fun k h1 h2 => ?_, rfl, fun k h1 h2 => ?_, rfl, pageData_none_iff e sp z⟩
    · exact (if_neg (by omega)).trans (if_pos rfl)
    · exact (if_neg (by omega)).trans ((if_neg (by omega)).trans (if_pos rfl))
    · refine (if_neg (by omega)).trans ((if_pos ⟨by omega, by omega⟩).trans ?_)
      rw [Nat.add_sub_cancel_left]
    · exact (if_neg (by omega)).trans (if_pos h2)
  · intro e sp z run k n b serial length web record bits flags roll call notice
    have hn : n = field := rfl
    have hb (v : Nat) : b v = [byte v] := rfl
    have hserial (s : Serial) : serial s = bytes32 s := (bytes32_eq s).symm
    have hlength (x : Metres) : length x = metresBytes x := rfl
    have hweb (c : Counts) : web c 1 ++ web c 2 ++ web c 3 ++ web c 4 = webBytes c := by
      simp only [web, hlength, webBytes, List.flatMap_cons, List.flatMap_nil, List.append_assoc, List.append_nil]
    have hrecord (c : Counts) : record c = countBytes c ++ metresBytes c.sheet ++ webBytes c := by
      simp only [record, ← hweb, countBytes, hlength, hn, List.append_assoc]
    have hflags (l : List Bool) : flags l = [flagByte l] := rfl
    have hroll (p : Place) : roll p = rollBytes (rollAt z p) := by
      simp only [roll, rollBytes]
      cases rollAt z p with
      | none => rfl
      | some r => simp only [hserial, hb]
    have hcall (c : Option Call) : call c = callBytes c := by
      simp only [call, callBytes]
      cases c with
      | none => rfl
      | some c =>
        cases hc : c.chosen <;> cases hl : c.late <;>
          simp [hb, hn, hserial, hc, hl, byte, bytes32]
    have hnotice (p : Place) : notice p = noticeAt z p.key := by
      simp only [notice, noticeAt, noticeBytes]
      cases (z.transfer.notices.get? p.key).bind Notice.hold <;>
        cases hd : (z.transfer.notices.get? p.key).bind Notice.completion with
        | none => simp [hb, hserial]
        | some d => cases hf : d.failed <;> simp [hb, hserial, resultByte, hf, byte]
    refine ⟨?_, ?_, ?_, ?_, ?_, ?_, ?_, ?_, ?_, ?_, ?_, ⟨?_, ?_⟩, ?_⟩
    · simp only [editionPage, hn, hrecord, List.append_assoc]
    · rfl
    · simp only [runPage, hn, hrecord, List.append_assoc]
    · rfl
    · intro c m hc hm
      have hstaging : (if c.role = .staging then b c.grade ++ n 2 c.width ++ b c.low else List.replicate 4 0#8) =
          [byte (if c.role = .staging then c.grade else 0)] ++ field 2 (if c.role = .staging then c.width else 0) ++
            [byte (if c.role = .staging then c.low else 0)] := by
        by_cases hs : c.role = .staging
        · simp [hs, hb, hn]
        · rw [if_neg hs, if_neg hs, if_neg hs, if_neg hs]
          rfl
      rw [hstaging]
      simp only [lanePage, hc, hm, hroll, hcall, hnotice, hb, hflags, Lane.byte, Option.map_some, Option.getD_some,
        List.flatMap_cons, List.flatMap_nil, List.append_assoc, List.append_nil, List.cons_append, List.nil_append,
        decide_eq_true_iff]
    · intro slot
      have hslot (j : Nat) : slot j = slotBytes (z.stock.slots.get? j) := by
        simp only [slot, slotBytes]
        cases z.stock.slots.get? j with
        | none => rfl
        | some x =>
          cases ho : x.origin <;> simp [hb, hserial, ho, byte]
      simp only [hslot, slotPage, List.flatMap_cons, List.flatMap_nil, List.append_assoc, List.append_nil]
    · intro x hx
      simp only [segmentPage, seg?, hx]
      rfl
    · intro w p y hw hp hy mark
      have hmark (i : Nat) : mark i = markBytes p.marks[i]? := by
        simp only [mark, markBytes]
        cases p.marks[i]? with
        | none => rfl
        | some m => simp only [hn, hserial]
      have hmeas : runningMeas z k = y.running.map y.meas := by rw [runningMeas, show reel? z k = some y from hy]; rfl
      rcases hr : y.running with - | x <;> rcases hl : p.lastClosed with - | a <;> rcases ha : w.running with - | - | - <;>
        simp only [reelPage, show splice? z k = some w from hw, show web? z k = some p from hp,
          show reel? z k = some y from hy, hmeas, hr, hl, ha, hroll, hcall, hnotice, hmark, hb, hn, hserial, hflags,
          webRecordBytes, reelFlags, measBytes, webCounter, webSpeed, timeToSplice, armCode, Option.map_some, Option.map_none,
          Option.getD_some, List.flatMap_cons, List.flatMap_nil, List.append_assoc, List.append_nil, List.cons_append,
          List.nil_append]
    · intro v hv
      cases hp : v.purpose <;>
        simp only [vehiclePage, vehicleRoll, show vehicle? z k = some v from hv, hp, purposeBytes, hb, hserial, loadBytes,
          List.replicate, List.append_assoc, List.cons_append, List.nil_append] <;> rfl
    · intro hv
      simp only [vehiclePage, vehicle?, hv]
    · intro queue
      have hqueue (q : Queue) : queue (ordersOf z q) (statOf z q) = queueBytes z q := by
        simp only [queue, queueBytes, hb, hn, List.append_assoc, List.cons_append, List.nil_append]
      have hp := hqueue .p
      have ho := hqueue .o
      simp only [ordersOf, statOf] at hp ho
      rw [transferPage_eq, show upTo 12 = [1, 2, 3, 4, 5, 6, 7, 8, 9, 10, 11, 12] from rfl, hp, ho]
      have hsuspended : z.transfer.ordersO.find? (fun o => o.state = .suspended) = suspendedOrder z := rfl
      have horder (m : Nat) : (allOrders z).find? (fun o => o.number = m) = order? z m := rfl
      simp only [hsuspended, horder, transferHead, transferSuspended]
      cases hs : suspendedOrder z <;> cases hc : z.transfer.carriage with
      | running m =>
        cases hm : order? z m <;> simp only [hm, hnotice, hb, hserial, List.replicate, List.flatMap_cons, List.flatMap_nil,
          List.append_assoc, List.append_nil, List.cons_append, List.nil_append]
      | _ => simp only [hnotice, hb, hserial, List.replicate, List.flatMap_cons, List.flatMap_nil, List.append_assoc,
          List.append_nil, List.cons_append, List.nil_append]
    · intro o ho
      simp only [leadPage, show z.faults.lead = some o from ho, classByte, hb, hserial, List.append_assoc, List.cons_append,
        List.nil_append]
    · intro c hc
      simp only [classPage, show z.faults.entries.get? k = some c from hc, entryBytes, classByte, hb, hserial, List.append_assoc,
        List.cons_append, List.nil_append]
    · rfl

end Sys2Proof.Machine

/-! PROOF. ZONE RESTART (R19, R47, R71, R95, R115), the choice of rolls and the issue of calls (R61, R62, R97 to R100), the
delivery estimate and its route (R25, R45), and ROLL CALL (R106). -/

namespace Sys2Proof.Machine

/-! ### ZONE RESTART (R19) -/

theorem carriageGrips_iff {z : Zone} : carriageGrips z = true ↔
    (∃ o, z.transfer.carriage = .halted o) ∨ ∃ o, runningOrder z = some o ∧ 4 ≤ o.step := by
  unfold carriageGrips
  cases hc : z.transfer.carriage with
  | halted o => simp
  | idle => simp [Option.any_eq_true]
  | running n => simp [Option.any_eq_true]

theorem restartRefused_iff {z : Zone} : restartRefused z = true ↔
    (∃ x ∈ z.splice.stands, x.2.state ∈ [.accelerating, .matched, .pasting, .cutting]) ∨
      (∃ o, z.transfer.carriage = .halted o) ∨ ∃ o, runningOrder z = some o ∧ 4 ≤ o.step := by
  rw [restartRefused, Bool.or_eq_true, carriageGrips_iff, List.any_eq_true]
  simp only [splicing_iff]

/-- What a warm restart makes of a vehicle. -/
theorem restarted_vehicle (v : Vehicle) :
    (if v.order.isSome then
      { v with order := none, purpose := .home,
               state := if v.state = .moving ∨ v.state = .docked ∨ v.state = .parked then .held else v.state }
     else { v with state := if v.state = .moving then .held else v.state }) =
    if v.order = none then (if v.state = .moving then { v with state := .held } else v)
    else { v with order := none, purpose := .home,
                  state := if v.state = .moving ∨ v.state = .docked ∨ v.state = .parked then .held else v.state } := by
  cases ho : v.order with
  | some n => simp
  | none =>
    obtain ⟨number, state, current, granted, trailing, loaded, purpose, order, rest⟩ := v
    obtain rfl : order = none := ho
    by_cases hm : state = .moving <;> simp [hm]

theorem restarted_vehicles (z : Zone) : z.restarted.track.vehicles = z.track.vehicles.map fun x => (x.1,
    if x.2.order = none then (if x.2.state = .moving then { x.2 with state := .held } else x.2)
    else { x.2 with order := none, purpose := .home,
                    state := if x.2.state = .moving ∨ x.2.state = .docked ∨ x.2.state = .parked then .held else x.2.state }) :=
  List.map_congr_left fun x _ => congrArg (Prod.mk x.1) (restarted_vehicle x.2)

theorem restarted_segments (z : Zone) : z.restarted.track.segments = z.track.segments.map fun x => (x.1,
    { x.2 with permit := false, wait := x.2.wait.filter (fun n =>
      !z.track.vehicles.any (fun v => v.2.order.isSome && v.2.number = n)) }) := by
  refine (List.map_map (f := fun x : Nat × Segment => (x.1, { x.2 with permit := false }))).trans
    (List.map_congr_left fun x _ => ?_)
  simp only [Function.comp_apply, List.any_filter]

/-- Settles O35. -/
theorem zoneRestartDecided : Obligations.ZoneRestartDecided := by
  intro h s ht z busy
  have hbusy : restartRefused z = true ↔ busy := restartRefused_iff
  have hexec : exec (.zoneRestart h) s = .next (((takeZoneRestart h s.heardState).aliveFrom h.sender).settled) :=
    congrArg _ (hearBody_of_takes _ ht rfl (by simp [bodyKind, Kind.cls]))
  refine ⟨fun hb => ?_, fun hb => ⟨s.heardState.restart h.sender.toNat, ?_, rfl, rfl, rfl, rfl, rfl, rfl, rfl, rfl, rfl, rfl,
    rfl, rfl, rfl, rfl, rfl, restarted_segments z, restarted_vehicles z, rfl, rfl, rfl, rfl, rfl, rfl, rfl, rfl, rfl, rfl, rfl,
    rfl, rfl, rfl, rfl, rfl, rfl, rfl, rfl⟩⟩
  · rw [hexec, takeZoneRestart, if_pos (show restartRefused s.heardState.zone = true from hbusy.mpr hb)]
    rfl
  · rw [hexec, takeZoneRestart, if_neg (show ¬ restartRefused s.heardState.zone = true from mt hbusy.mp hb),
      aliveFrom_of_inactive _ (by simp [State.isActive, State.isIn, State.restart]),
      settled_of_inactive (by simp [State.restart])]

/-! ### The best of a list -/

/-- One more candidate against the best so far: it takes the place only where it comes before. -/
def keepBest {α : Type} (lt : α → α → Bool) (best : Option α) (x : α) : Option α :=
  match best with
  | none => some x
  | some b => if lt x b then some x else some b

theorem keepBest_some {α : Type} (lt : α → α → Bool) (b x : α) :
    keepBest lt (some b) x = some (if lt x b then x else b) := (apply_ite some ..).symm

/-- The best of a list that begins with one: it is of the list, and nothing comes before it. -/
theorem foldl_keepBest_some {α : Type} {lt : α → α → Bool} (hasymm : ∀ a b, lt a b = true → lt b a = false)
    (htrans : ∀ a b c, lt a b = false → lt b c = false → lt a c = false) (l : List α) (b : α) :
    ∃ a, l.foldl (keepBest lt) (some b) = some a ∧ a ∈ b :: l ∧ ∀ x ∈ b :: l, lt x a = false := by
  have hirr (a : α) : lt a a = false := by
    cases h : lt a a with
    | false => rfl
    | true => exact (hasymm a a h).symm.trans h |>.symm
  induction l generalizing b with
  | nil => exact ⟨b, rfl, List.mem_cons_self, fun x hx => by rw [List.mem_singleton.mp hx]; exact hirr b⟩
  | cons y l ih =>
    rw [List.foldl_cons, keepBest_some]
    by_cases hlt : lt y b = true
    · rw [if_pos hlt]
      obtain ⟨a, ha, hmem, hmin⟩ := ih y
      refine ⟨a, ha, List.mem_cons_of_mem _ hmem, List.forall_mem_cons.mpr ⟨?_, hmin⟩⟩
      exact htrans b y a (hasymm y b hlt) (hmin y List.mem_cons_self)
    · rw [if_neg hlt]
      obtain ⟨a, ha, hmem, hmin⟩ := ih b
      have hb := hmin b List.mem_cons_self
      refine ⟨a, ha, ?_, List.forall_mem_cons.mpr ⟨hb, List.forall_mem_cons.mpr ⟨?_, fun x hx =>
        hmin x (List.mem_cons_of_mem _ hx)⟩⟩⟩
      · exact (List.mem_cons.mp hmem).elim (fun h => h ▸ List.mem_cons_self) fun h =>
          List.mem_cons_of_mem _ (List.mem_cons_of_mem _ h)
      · exact htrans y b a (Bool.eq_false_iff.mpr hlt) hb

/-- The best of a list: none of an empty one. -/
theorem foldl_keepBest {α : Type} {lt : α → α → Bool} (hasymm : ∀ a b, lt a b = true → lt b a = false)
    (htrans : ∀ a b c, lt a b = false → lt b c = false → lt a c = false) (l : List α) :
    (l.foldl (keepBest lt) none = none ↔ l = []) ∧
      ∀ a, l.foldl (keepBest lt) none = some a → a ∈ l ∧ ∀ x ∈ l, lt x a = false := by
  cases l with
  | nil => exact ⟨iff_of_true rfl rfl, nofun⟩
  | cons b l =>
    obtain ⟨a, ha, hmem, hmin⟩ := foldl_keepBest_some hasymm htrans l b
    have hfold : (b :: l).foldl (keepBest lt) none = some a := ha
    rw [hfold]
    exact ⟨iff_of_false nofun nofun, fun x hx => Option.some.inj hx ▸ ⟨hmem, hmin⟩⟩

/-! ### The choice of a roll (R61, R62) -/

theorem Roll.before_iff (a b : Roll) : a.before b = true ↔
    a.remaining < b.remaining ∨ a.remaining = b.remaining ∧ a.serial.toNat < b.serial.toNat := by
  simp [Roll.before]

theorem Roll.before_asymm (a b : Roll) (h : a.before b = true) : b.before a = false := by
  refine Bool.eq_false_iff.mpr fun h' => ?_
  rw [Roll.before_iff] at h h'
  omega

theorem Roll.not_before_trans (a b c : Roll) (hab : a.before b = false) (hbc : b.before c = false) : a.before c = false := by
  rw [Bool.eq_false_iff, ne_eq, Roll.before_iff] at *
  omega

theorem choose_eq (e : Env) (z : Zone) (w : Wanted) : choose e z w =
    (z.stock.rolls.filter fun x => candidate e z w x.1 x.2).foldl (keepBest fun x y => x.2.before y.2) none := by
  unfold choose
  congr 1
  funext best x
  cases best <;> rfl

theorem choose_none (e : Env) (z : Zone) (w : Wanted) :
    choose e z w = none ↔ ∀ x ∈ z.stock.rolls, candidate e z w x.1 x.2 = false := by
  rw [choose_eq, (foldl_keepBest (fun a b => Roll.before_asymm a.2 b.2)
    (fun a b c => Roll.not_before_trans a.2 b.2 c.2) _).1, List.filter_eq_nil_iff]
  simp only [Bool.not_eq_true]

theorem choose_some {e : Env} {z : Zone} {w : Wanted} {k : Nat} {r : Roll} (h : choose e z w = some (k, r)) :
    (k, r) ∈ z.stock.rolls ∧ candidate e z w k r = true ∧
      ∀ x ∈ z.stock.rolls, candidate e z w x.1 x.2 = true → x.2.before r = false := by
  obtain ⟨hmem, hmin⟩ := (foldl_keepBest (fun a b => Roll.before_asymm a.2 b.2)
    (fun a b c => Roll.not_before_trans a.2 b.2 c.2) _).2 _ ((choose_eq e z w).symm.trans h)
  obtain ⟨hr, hc⟩ := List.mem_filter.mp hmem
  exact ⟨hr, hc, fun x hx hcand => hmin x (List.mem_filter.mpr ⟨hx, hcand⟩)⟩

theorem fits_iff (a : Asker) (r : LaneRole) : a.fits r = true ↔ r = .stock ∨ (a = .ownRunout ∧ r = .staging) := by
  cases a <;> cases r <;> simp [Asker.fits]

theorem pick_or_first (m : LaneMode) (p : Nat) : (m = .pick ∨ p = 1) ↔ (m = .through → p = 1) := by
  cases m <;> simp

theorem serialOrdered_eq_false {z : Zone} {x : Serial} (hx : x ≠ 0) :
    serialOrdered z x = false ↔ ∀ o ∈ z.transfer.ordersP ++ z.transfer.ordersO, o.serial ≠ x := by
  have hx' : ¬ x = 0#32 := hx
  simp [serialOrdered, allOrders, hx', or_imp, forall_and]

theorem candidate_iff (e : Env) (z : Zone) (w : Wanted) (k : Nat) (r : Roll) : candidate e z w k r = true ↔
    ∃ l p c x d, laneOfKey k = some (l, p) ∧ laneRec z l = some c ∧ c.inService = true ∧ c.mismatch = false ∧
      e.img.lane? l = some x ∧ (x.role = .stock ∨ (w.asker = .ownRunout ∧ x.role = .staging)) ∧
      (x.mode = .through → p = 1) ∧ r.state = .stock ∧ r.reservation = none ∧ r.serial ≠ 0 ∧ r.data = some d ∧
      d.grade = w.grade ∧ d.width = w.width ∧ w.minLength ≤ d.remaining ∧ quarantined z r.serial = false ∧
      r.defect = false ∧ ∀ o ∈ z.transfer.ordersP ++ z.transfer.ordersO, o.serial ≠ r.serial := by
  unfold candidate
  cases hk : laneOfKey k with
  | none => simp
  | some lp =>
    obtain ⟨l, p⟩ := lp
    simp only [Bool.and_eq_true, Bool.or_eq_true, Option.any_eq_true, decide_eq_true_iff, Bool.not_eq_true', fits_iff,
      Option.isNone_iff_eq_none, pick_or_first, and_assoc]
    constructor
    · rintro ⟨⟨c, hc, hin, hm⟩, ⟨x, hx, hrole, hmode⟩, hst, hres, h0, ⟨d, hd, hg, hw, hlen⟩, hq, hdef, hord⟩
      exact ⟨l, p, c, x, d, rfl, hc, hin, hm, hx, hrole, hmode, hst, hres, h0, hd, hg, hw, hlen, hq, hdef,
        (serialOrdered_eq_false h0).mp hord⟩
    · rintro ⟨l', p', c, x, d, hlp, hc, hin, hm, hx, hrole, hmode, hst, hres, h0, hd, hg, hw, hlen, hq, hdef, hord⟩
      obtain ⟨rfl, rfl⟩ := Prod.mk.inj (Option.some.inj hlp)
      exact ⟨⟨c, hc, hin, hm⟩, ⟨x, hx, hrole, hmode⟩, hst, hres, h0, ⟨d, hd, hg, hw, hlen⟩, hq, hdef,
        (serialOrdered_eq_false h0).mpr hord⟩

/-- The choice looks at rolls, lanes, slots and orders alone. -/
theorem choose_congr {e : Env} {z t : Zone} (w : Wanted) (hs : t.stock = z.stock) (ht : t.transfer = z.transfer) :
    choose e t w = choose e z w := by
  have hc (k : Nat) (r : Roll) : candidate e t w k r = candidate e z w k r := by
    simp only [candidate, laneRec, quarantined, serialOrdered, allOrders, hs, ht]
  simp only [choose_eq, hs, hc]

theorem canReserve_congr {z t : Zone} (k : Nat) (hs : t.stock = z.stock) : canReserve t k = canReserve z k :=
  congrArg (fun st => canReserve { z with stock := st } k) hs

/-! ### The issue of a call (R97 to R100) -/

/-- The next number is one of 1 to 255 that no entry holds, as long as fewer than 255 are held: the 255 numbers tried are
different. -/
theorem nextNumber_spec {used : List Nat} (start : Nat) (h : used.length < 255) :
    1 ≤ nextNumber used start ∧ nextNumber used start ≤ 255 ∧ nextNumber used start ∉ used := by
  have hnodup : ((List.range 255).map fun i => (start - 1 + i) % 255 + 1).Nodup := by
    refine List.Nodup.map_on (fun x hx y hy hxy => ?_) List.nodup_range
    have hx := List.mem_range.mp hx
    have hy := List.mem_range.mp hy
    omega
  unfold nextNumber
  cases hfind : ((List.range 255).map fun i => (start - 1 + i) % 255 + 1).find? fun n => !used.contains n with
  | none =>
    have hsub : ((List.range 255).map fun i => (start - 1 + i) % 255 + 1) ⊆ used := fun x hx => by
      simpa using List.find?_eq_none.mp hfind x hx
    have hlen := (hnodup.subperm hsub).length_le
    rw [List.length_map, List.length_range] at hlen
    omega
  | some n =>
    obtain ⟨i, -, hi⟩ := List.mem_map.mp (List.mem_of_find?_eq_some hfind)
    have hnot : n ∉ used := by simpa using List.find?_some hfind
    simp only [Option.getD_some]
    exact ⟨by omega, by omega, hnot⟩

/-- The call that is issued for a need. -/
def freshCall (e : Env) (n : Need) (g w : Nat) (z : Zone) : Call :=
  { number := newCallNumber z, need := n, urgency := needUrgency n, grade := g, width := w, minLength := e.img.minLength,
    deadline := needDeadline z n, state := .collecting, offers := [], chosen := none, takeTime := none,
    windowStart := none, reissueAt := none, late := false }

/-- The zone with that call in the table, its number taken. -/
def callEntered (e : Env) (n : Need) (g w : Nat) (z : Zone) : Zone :=
  { z with supply := { z.supply with calls := z.supply.calls.set n.key (freshCall e n g w z)
                                     nextCall := newCallNumber z % 255 + 1 } }

theorem issueNew_eq (e : Env) (n : Need) (g w : Nat) (z : Zone) :
    issueNew e n (g, w) z = issue e (freshCall e n g w z) (callEntered e n g w z) := rfl

theorem askCall_filled {e : Env} {n : Need} {z : Zone} (h : z.supply.calls.get? n.key ≠ none) : askCall e n z = z :=
  if_pos (Option.isSome_iff_ne_none.mpr h)

theorem askCall_free {e : Env} {n : Need} {z : Zone} {g w : Nat} (h : z.supply.calls.get? n.key = none)
    (hs : needSpec e z n = some (g, w)) : askCall e n z = issueNew e n (g, w) z := by
  refine (if_neg (by simp [call?, h])).trans ?_
  rw [hs]

theorem askCall_unknown {e : Env} {r : Nat} {z : Zone} (h : z.supply.calls.get? (Need.runout r).key = none)
    (hs : needSpec e z (.runout r) = none) : askCall e (.runout r) z = raiseUnidentified e r z := by
  refine (if_neg (by simp [call?, h])).trans ?_
  rw [hs]

theorem issue_remote {e : Env} {c : Call} {z : Zone} (h : ∀ k r, choose e z ⟨askerOf c.need, c.grade, c.width, c.minLength⟩ =
    some (k, r) → canReserve z k = false ∨ laneOfKey k = none) : issue e c z = broadcast e c z := by
  unfold issue
  cases hf : choose e z ⟨askerOf c.need, c.grade, c.width, c.minLength⟩ with
  | none => rfl
  | some x =>
    obtain ⟨k, r⟩ := x
    rcases h k r hf with h | h
    · simp only [h]
    · cases hc : canReserve z k <;> simp only [hc, h]

theorem issue_local {e : Env} {c : Call} {z : Zone} {k l p : Nat} {r : Roll}
    (hf : choose e z ⟨askerOf c.need, c.grade, c.width, c.minLength⟩ = some (k, r)) (hc : canReserve z k = true)
    (hl : laneOfKey k = some (l, p)) : issue e c z =
      (setCall { c with state := .localService } (reserve k ⟨e.own, c.number, 0⟩ z)).push (.requestOrder
        (localLoadRequest e (reserve k ⟨e.own, c.number, 0⟩ z) { c with state := .localService } r.serial (.lane l p))) := by
  unfold issue
  rw [hf]
  simp only [hc, hl]

theorem broadcast_nowhere {e : Env} (c : Call) (z : Zone) (h : e.img.receivingDock = none) :
    broadcast e c z = enterNoStock e c z := by
  unfold broadcast
  rw [h]

theorem broadcast_all {e : Env} (c : Call) (z : Zone) (h : e.img.receivingDock ≠ none) :
    broadcast e c z = offer e (rollCallFrame { c with state := .collecting }) (setCall { c with state := .collecting } z) := by
  obtain ⟨d, hd⟩ := Option.ne_none_iff_exists'.mp h
  unfold broadcast
  rw [hd]

/-- A ROLL CALL accepted into the queue opens the window of its call, and of no other. -/
theorem get?_rollCall_accepted (e : Env) {c : Call} {k : Nat} (u g : Byte) (w : BitVec 16) (m : BitVec 24) {z : Zone}
    (hs : c.state = .collecting) (hn : c.number < 256) (hc : z.supply.calls.get? k = some c) :
    (frameAccepted e ⟨0, .rollCall (byte c.number) u g w m⟩ z).supply.calls.get? k =
      some { c with windowStart := some e.now } := by
  have hbyte : (byte c.number).toNat = c.number := by rw [byte_toNat, Nat.mod_eq_of_lt hn]
  have hmap : (frameAccepted e ⟨0, .rollCall (byte c.number) u g w m⟩ z).supply.calls =
      z.supply.calls.map fun x => (x.1, if x.2.number = c.number ∧ x.2.state = .collecting then
        { x.2 with windowStart := some e.now } else x.2) := by
    refine Eq.trans (List.filterMap_congr fun x _ => ?_) (congrFun List.filterMap_eq_map _)
    simp only [Call.frameAccepted, hbyte, Function.comp_apply]
    split <;> rfl
  rw [hmap]
  refine (Tbl.get?_map z.supply.calls (fun _ x => if x.number = c.number ∧ x.state = .collecting then
    { x with windowStart := some e.now } else x) k).trans ?_
  rw [hc]
  exact congrArg some (if_pos ⟨rfl, hs⟩)

/-- Settles O17. -/
theorem callsChosenAndIssued : Obligations.CallsChosenAndIssued := by
  refine ⟨?_, ⟨?_, ?_, ?_⟩, candidate_iff, ?_⟩
  · intro e z w
    refine ⟨choose_none e z w, fun k r h => ?_⟩
    obtain ⟨hmem, hcand, hfirst⟩ := choose_some h
    obtain ⟨l, p, c, x, d, hk, hc, hin, hm, hx, hrole, hmode, hst, hres, h0, hd, hg, hw, hlen, hq, hdef, hord⟩ :=
      (candidate_iff e z w k r).mp hcand
    exact ⟨hmem, hcand, hfirst, hst, hres, h0, hdef, hq, (serialOrdered_eq_false h0).mpr hord, ⟨d, hd, hg, hw, hlen⟩,
      ⟨l, p, c, hk, hc, hin, hm⟩⟩
  · intro e n z
    refine ⟨askCall_filled, fun g w hfree hspec => ?_, fun r hr hfree hspec => ?_⟩
    · intro number c entered asker found
      have hask : askCall e n z = issue e c entered := (askCall_free hfree hspec).trans (issueNew_eq e n g w z)
      have hasker : asker = askerOf n := by cases n <;> rfl
      have hfound : choose e entered ⟨askerOf c.need, c.grade, c.width, c.minLength⟩ = found := by
        refine (choose_congr (z := z) _ rfl rfl).trans ?_
        simp only [found, hasker]
        rfl
      have hreserve (k : Nat) : canReserve entered k = canReserve z k := canReserve_congr k rfl
      refine ⟨fun hno => ?_, fun k r l p hf hc hl => ?_⟩
      · have hremote : issue e c entered = broadcast e c entered := issue_remote fun k r h => by
          rw [hfound] at h
          rcases hno with hn | ⟨k', r', hf, hn⟩
          · exact absurd (h.symm.trans hn) nofun
          · obtain ⟨rfl, rfl⟩ := Prod.mk.inj (Option.some.inj (h.symm.trans hf))
            rwa [hreserve]
        exact ⟨fun hd => hask.trans (hremote.trans (broadcast_nowhere c entered hd)),
          fun hd => hask.trans (hremote.trans (broadcast_all c entered hd))⟩
      · refine hask.trans ((issue_local (hfound.trans hf) ((hreserve k).trans hc) hl).trans ?_)
        cases n <;> rfl
    · subst hr
      rw [askCall_unknown hfree hspec]
      refine ⟨fun h => if_pos (Option.isSome_iff_ne_none.mpr h), fun h => if_neg ?_⟩
      simp [Tbl.has, h]
  · intro z hlen
    obtain ⟨h1, h2, hnot⟩ := nextNumber_spec (used := z.supply.calls.map fun c => c.2.number) z.supply.nextCall
      (by rw [List.length_map]; omega)
    exact ⟨h1, h2, fun x hx heq => hnot (List.mem_map.mpr ⟨x, hx, heq⟩)⟩
  · intro e z c k u g w m he hs hn hc sent
    have hsent : sent = offerActive e ⟨0, .rollCall (byte c.number) u g w m⟩ z := offer_active he _ z
    refine ⟨fun hq hw => ?_, fun hw hlen => ?_⟩
    · have haccepted : sent = frameAccepted e ⟨0, .rollCall (byte c.number) u g w m⟩
          { z with line := { z.line with queue := z.line.queue ++ [⟨0, .rollCall (byte c.number) u g w m⟩] } } := by
        rw [hsent]
        have hprotocol : TxFrame.isProtocol ⟨0, .rollCall (byte c.number) u g w m⟩ = true := rfl
        simp only [offerActive, hprotocol, if_true, hw]
        exact (if_neg (by simp)).trans (if_pos hq)
      rw [haccepted]
      exact get?_rollCall_accepted e u g w m hs hn hc
    · rw [hsent, offerActive_waiting rfl hw, offerWaiting_of_room hlen]
  · exact fun z k => ⟨rfl, rfl, rfl, fun y hy => by simp [needDeadline, timeToSplice, reel?, hy], rfl⟩

end Sys2Proof.Machine

/-! PROOF. The routes of the track (R25), the delivery estimate (R45) and ROLL CALL (R106). -/

namespace Sys2Proof.Machine

/-! ### Paths over the local successors (R25) -/

/-- A list of segments that leads from one after another, over local successors, to the goal. -/
def pathTo (i : Image) (goal start : Nat) (l : List Nat) : Prop :=
  List.IsChain (fun a b => b ∈ localSuccessors i a) (start :: l) ∧ (start :: l).getLast? = some goal

theorem pathTo_nil {i : Image} {goal k : Nat} : pathTo i goal k [] ↔ k = goal := by
  simp [pathTo]

theorem pathTo_cons {i : Image} {goal k j : Nat} {l : List Nat} :
    pathTo i goal k (j :: l) ↔ j ∈ localSuccessors i k ∧ pathTo i goal j l := by
  rw [pathTo, pathTo, List.isChain_cons_cons, List.getLast?_cons_cons, and_assoc]

/-- Only a segment of the make-up has successors. -/
theorem mem_upTo_of_successor {i : Image} {k j : Nat} (h : j ∈ localSuccessors i k) : k ∈ upTo i.segments.length := by
  unfold localSuccessors at h
  cases hk : i.segment? k with
  | none => simp [hk] at h
  | some c =>
    cases k with
    | zero => exact absurd hk nofun
    | succ k => exact mem_upTo.mpr ⟨by omega, (List.getElem?_eq_some_iff.mp hk).1⟩

theorem mem_reaching_succ {i : Image} {goal n k : Nat} : k ∈ reaching i goal (n + 1) ↔
    k ∈ upTo i.segments.length ∧ (k ∈ reaching i goal n ∨ ∃ j ∈ localSuccessors i k, j ∈ reaching i goal n) := by
  simp [reaching]

/-- The segments that reach the goal in n steps are those with a path of at most n. -/
theorem mem_reaching {i : Image} {goal : Nat} (hg : goal ∈ upTo i.segments.length) (n k : Nat) :
    k ∈ reaching i goal n ↔ ∃ l, pathTo i goal k l ∧ l.length ≤ n := by
  induction n generalizing k with
  | zero =>
    simp only [reaching, List.mem_singleton, Nat.le_zero, List.length_eq_zero_iff]
    exact ⟨fun h => ⟨[], pathTo_nil.mpr h, rfl⟩, fun ⟨l, hp, hl⟩ => pathTo_nil.mp (hl ▸ hp)⟩
  | succ n ih =>
    rw [mem_reaching_succ]
    constructor
    · rintro ⟨-, h | ⟨j, hj, h⟩⟩
      · obtain ⟨l, hp, hl⟩ := (ih k).mp h
        exact ⟨l, hp, by omega⟩
      · obtain ⟨l, hp, hl⟩ := (ih j).mp h
        exact ⟨j :: l, pathTo_cons.mpr ⟨hj, hp⟩, by simpa using hl⟩
    · rintro ⟨l, hp, hl⟩
      cases l with
      | nil => exact ⟨pathTo_nil.mp hp ▸ hg, .inl ((ih k).mpr ⟨[], hp, by simp⟩)⟩
      | cons j l =>
        obtain ⟨hj, hp⟩ := pathTo_cons.mp hp
        exact ⟨mem_upTo_of_successor hj, .inr ⟨j, hj, (ih j).mpr ⟨l, hp, by simpa using hl⟩⟩⟩

theorem reaching_mono {i : Image} {goal : Nat} (hg : goal ∈ upTo i.segments.length) {n m : Nat} (h : n ≤ m) :
    reaching i goal n ⊆ reaching i goal m := fun k hk => by
  obtain ⟨l, hp, hl⟩ := (mem_reaching hg n k).mp hk
  exact (mem_reaching hg m k).mpr ⟨l, hp, by omega⟩

theorem reaching_sub {i : Image} {goal : Nat} (hg : goal ∈ upTo i.segments.length) (n : Nat) :
    reaching i goal n ⊆ upTo i.segments.length := fun k hk => by
  cases n with
  | zero => exact List.mem_singleton.mp hk ▸ hg
  | succ n => exact (mem_reaching_succ.mp hk).1

/-- As many steps as there are segments reach all that any number of steps reaches: the set grows, and it stands once two
steps leave it alike. -/
theorem reaching_stabilises {i : Image} {goal : Nat} (hg : goal ∈ upTo i.segments.length) {n k : Nat}
    (hk : k ∈ reaching i goal n) : k ∈ reaching i goal i.segments.length := by
  rcases Nat.le_total n i.segments.length with h | h
  · exact reaching_mono hg h hk
  · have hsub {n m : Nat} (h : n ≤ m) : (reaching i goal n).toFinset ⊆ (reaching i goal m).toFinset := fun x hx =>
      List.mem_toFinset.mpr (reaching_mono hg h (List.mem_toFinset.mp hx))
    have hcard : (reaching i goal n).toFinset.card = (reaching i goal i.segments.length).toFinset.card := by
      refine Nat.stabilises_of_monotone (f := fun n => (reaching i goal n).toFinset.card)
        (fun n m h => Finset.card_le_card (hsub h)) (fun m => ?_) (fun m hm => ?_) h
      · calc (reaching i goal m).toFinset.card ≤ (upTo i.segments.length).toFinset.card :=
              Finset.card_le_card fun x hx => List.mem_toFinset.mpr (reaching_sub hg m (List.mem_toFinset.mp hx))
          _ ≤ (upTo i.segments.length).length := List.toFinset_card_le _
          _ = i.segments.length := by simp [upTo]
      · have hset : (reaching i goal m).toFinset = (reaching i goal (m + 1)).toFinset :=
          Finset.eq_of_subset_of_card_le (hsub (Nat.le_succ m)) hm.ge
        have hmem (x : Nat) : x ∈ reaching i goal m ↔ x ∈ reaching i goal (m + 1) := by
          rw [← List.mem_toFinset, hset, List.mem_toFinset]
        refine congrArg Finset.card (Finset.ext fun x => ?_)
        rw [List.mem_toFinset, List.mem_toFinset, mem_reaching_succ, mem_reaching_succ (n := m + 1)]
        simp only [hmem]
    have heq := Finset.eq_of_subset_of_card_le (hsub h) hcard.le
    exact List.mem_toFinset.mp (heq ▸ List.mem_toFinset.mpr hk)

/-- A route takes, wherever another path of its length parts from it, the lower successor index. -/
def lowestParting (i : Image) (goal start : Nat) (route : List Nat) : Prop :=
  ∀ first a b rest rest' k, route = first ++ a :: rest → pathTo i goal start (first ++ b :: rest') →
    rest'.length = rest.length → (start :: first).getLast? = some k →
    (localSuccessors i k).idxOf a ≤ (localSuccessors i k).idxOf b

/-- The first of a list with a property stands no later than any other with it. -/
theorem idxOf_le_of_find? {l : List Nat} {p : Nat → Bool} {a b : Nat} (h : l.find? p = some a) (hb : p b = true) :
    l.idxOf a ≤ l.idxOf b := by
  obtain ⟨ha, front, back, rfl, hfront⟩ := List.find?_eq_some_iff_append.mp h
  have hnot {x : Nat} (hx : p x = true) : x ∉ front := fun hm => by simpa [hx] using hfront x hm
  rw [List.idxOf_append_of_notMem (hnot ha), List.idxOf_append_of_notMem (hnot hb), List.idxOf_cons_self]
  omega

/-- A walk over the nearest successors, from a segment just n steps away. -/
theorem walkTo_spec {i : Image} {goal : Nat} (hg : goal ∈ upTo i.segments.length) (n k : Nat)
    (hk : k ∈ reaching i goal n) (hmin : ∀ m < n, k ∉ reaching i goal m) :
    ∃ route, walkTo i goal n k = some route ∧ pathTo i goal k route ∧ route.length = n ∧ lowestParting i goal k route := by
  induction n generalizing k with
  | zero =>
    have hgoal : k = goal := List.mem_singleton.mp hk
    exact ⟨[], if_pos hgoal, pathTo_nil.mpr hgoal, rfl, fun first a b rest rest' c h => by simp at h⟩
  | succ n ih =>
    have hne : k ≠ goal := fun h => hmin 0 (by omega) (List.mem_singleton.mpr h)
    obtain ⟨l, hp, hl⟩ := (mem_reaching hg _ _).mp hk
    obtain ⟨j', l, rfl⟩ : ∃ j l', l = j :: l' := by
      cases l with
      | nil => exact absurd (pathTo_nil.mp hp) hne
      | cons j l => exact ⟨j, l, rfl⟩
    obtain ⟨hj', hp'⟩ := pathTo_cons.mp hp
    have hmem' : j' ∈ reaching i goal n := (mem_reaching hg n j').mpr ⟨l, hp', by simpa using hl⟩
    obtain ⟨j, hfind⟩ := Option.isSome_iff_exists.mp
      (List.find?_isSome.mpr ⟨j', hj', (List.contains_iff_mem (as := reaching i goal n)).mpr hmem'⟩)
    have hj : j ∈ localSuccessors i k := List.mem_of_find?_eq_some hfind
    have hjmem : j ∈ reaching i goal n := by simpa using List.find?_some hfind
    obtain ⟨route, hwalk, hpath, hlen, hlow⟩ := ih j hjmem fun m hm hjm =>
      hmin (m + 1) (by omega) (mem_reaching_succ.mpr ⟨mem_upTo_of_successor hj, .inr ⟨j, hj, hjm⟩⟩)
    refine ⟨j :: route, ?_, pathTo_cons.mpr ⟨hj, hpath⟩, by simp [hlen], ?_⟩
    · refine (if_neg hne).trans ?_
      rw [hfind]
      exact congrArg (Option.map _) hwalk
    · intro first a b rest rest' c hroute hother hrest hlast
      cases first with
      | nil =>
        obtain ⟨rfl, rfl⟩ := List.cons_eq_cons.mp hroute
        obtain rfl : k = c := by simpa using hlast
        have hb : b ∈ reaching i goal n :=
          (mem_reaching hg n b).mpr ⟨rest', (pathTo_cons.mp hother).2, by omega⟩
        exact idxOf_le_of_find? hfind (by simpa using hb)
      | cons x first =>
        obtain ⟨rfl, htail⟩ := List.cons.inj hroute
        exact hlow first a b rest rest' c htail (pathTo_cons.mp hother).2 hrest (by simpa using hlast)

/-- The number of steps that the route takes: the least from which the goal is reached. -/
theorem routeTo_eq (i : Image) (start goal : Nat) : routeTo i start goal =
    ((List.range (i.segments.length + 1)).find? fun n => (reaching i goal n).contains start).bind
      fun n => walkTo i goal n start := rfl

theorem routeTo_found {i : Image} {start goal n : Nat} (hg : goal ∈ upTo i.segments.length)
    (hn : (List.range (i.segments.length + 1)).find? (fun n => (reaching i goal n).contains start) = some n) :
    ∃ route, routeTo i start goal = some route ∧ pathTo i goal start route ∧ (∀ l, pathTo i goal start l → route.length ≤ l.length) ∧
      lowestParting i goal start route := by
  obtain ⟨hin, -, hmin⟩ := List.find?_range_eq_some.mp hn
  have hleast : ∀ m < n, start ∉ reaching i goal m := fun m hm => by simpa using hmin m hm
  obtain ⟨route, hwalk, hpath, hlen, hlow⟩ := walkTo_spec hg n start (by simpa using hin) hleast
  refine ⟨route, by rw [routeTo_eq, hn]; exact hwalk, hpath, fun l hl => ?_, hlow⟩
  by_contra hshort
  exact hleast l.length (by omega) ((mem_reaching hg _ _).mpr ⟨l, hl, Nat.le_refl _⟩)

theorem routeTo_none_iff {i : Image} {start goal : Nat} (hg : goal ∈ upTo i.segments.length) :
    routeTo i start goal = none ↔ ∀ l, ¬ pathTo i goal start l := by
  cases hn : (List.range (i.segments.length + 1)).find? (fun n => (reaching i goal n).contains start) with
  | none =>
    refine iff_of_true (by rw [routeTo_eq, hn]; rfl) fun l hl => ?_
    have hmem := reaching_stabilises hg ((mem_reaching hg _ _).mpr ⟨l, hl, Nat.le_refl _⟩)
    have := List.find?_eq_none.mp hn i.segments.length (List.mem_range.mpr (by omega))
    exact this (by simpa using hmem)
  | some n =>
    obtain ⟨route, hroute, hpath, -⟩ := routeTo_found hg hn
    exact iff_of_false (by simp [hroute]) fun h => h route hpath

/-! ### The delivery estimate (R45) -/

theorem parkedReady_iff {z : Zone} : parkedReady z = true ↔
    ∃ x ∈ z.track.vehicles, x.2.state = .parked ∧ x.2.loaded = false ∧ x.2.order = none := by
  simp [parkedReady, and_assoc]

theorem deliveryEstimate_of_route {e : Env} {z : Zone} {station k : Nat} {x : ExitCfg} {route : List Nat}
    (hk : e.img.loadingDock.bind (dockSegment e.img) = some k) (hx : e.img.exit? station = some x)
    (hr : routeTo e.img k x.segment = some route) : deliveryEstimate e z station =
      some (min 65534 (((k :: route).map (transitOf e.img)).sum + x.hops * e.img.meanTransit + 2 * e.img.transferTime +
        if parkedReady z then 0 else e.img.penalty)) := by
  simp only [deliveryEstimate, hk, hx, hr, Option.map_some]

theorem deliveryEstimate_of_none {e : Env} {z : Zone} {station : Nat}
    (h : e.img.loadingDock.bind (dockSegment e.img) = none ∨ e.img.exit? station = none) :
    deliveryEstimate e z station = none := by
  unfold deliveryEstimate
  split
  · rename_i hk hx
    rcases h with h | h
    · exact absurd (hk.symm.trans h) nofun
    · exact absurd (hx.symm.trans h) nofun
  · rfl

/-! ### ROLL CALL (R106) -/

theorem exec_rollCall (h : Header) {call : Byte} (u g : Byte) (w : BitVec 16) (m : BitVec 24) {s : State}
    (ht : s.takes h .rollCall = true) (hc : call ≠ 0) : exec (.rollCall h call u g w m) s =
      .next (s.endFrame h (answerRollCall s.env h.sender.toNat call.toNat (max 1 g.toNat) (max 200 (min 2600 w.toNat))
        (min 99999 m.toNat) s.heard)) :=
  congrArg Host.Outcome.next (hearBody_work (fun e z => answerRollCall e h.sender.toNat call.toNat (clampGrade g.toNat) (clampWidth w.toNat)
    (clampLength m.toNat) z) ht rfl (by simp [bodyKind, Kind.cls]) (if_neg hc))

theorem exec_rollCall_malformed (h : Header) {call : Byte} (u g : Byte) (w : BitVec 16) (m : BitVec 24) {s : State}
    (ht : s.takes h .rollCall = true) (hc : call = 0) : exec (.rollCall h call u g w m) s =
      .next (s.endFrame h { s.heard with line := { s.heard.line with malformed := min 65535 (s.heard.line.malformed + 1) } }) :=
  congrArg Host.Outcome.next (hearBody_malformed (take := takeRollCall h call g w m) ht rfl (by simp [bodyKind, Kind.cls])
    (if_pos hc))

theorem answerRollCall_offered {e : Env} {z : Zone} {station call grade width minLength k est : Nat} {r : Roll}
    (hf : choose e z ⟨.peer, grade, width, minLength⟩ = some (k, r)) (he : deliveryEstimate e z station = some est)
    (hn : reservedCount z < 8) : answerRollCall e station call grade width minLength z =
      offer e ⟨station, .rollOffer (byte call) r.serial (BitVec.ofNat 24 r.remaining) (BitVec.ofNat 16 est)
        (if parkedReady z then 1#8 else 0#8)⟩ z := by
  unfold answerRollCall
  rw [hf, he]
  exact if_pos hn

theorem answerRollCall_silent {e : Env} {z : Zone} {station call grade width minLength : Nat}
    (h : choose e z ⟨.peer, grade, width, minLength⟩ = none ∨ deliveryEstimate e z station = none ∨ 8 ≤ reservedCount z) :
    answerRollCall e station call grade width minLength z = z := by
  unfold answerRollCall
  split
  · rename_i hf he
    refine if_neg fun hn => ?_
    rcases h with h | h | h
    · exact absurd (hf.symm.trans h) nofun
    · exact absurd (he.symm.trans h) nofun
    · exact absurd hn (Nat.not_lt.mpr h)
  · rfl

/-- Settles O18: the answer by the three finds of ROLL CALL, and the route by the least number of steps from which the exit
segment is reached. -/
theorem rollCallAnswered : Obligations.RollCallAnswered := by
  refine ⟨?_, ?_, ?_⟩
  · intro h call u g w m s ht e z found
    refine ⟨exec_rollCall_malformed h u g w m ht, fun k r est hc hf he hn => ?_, fun hc hno => ?_⟩
    · have hanswer := answerRollCall_offered (call := call.toNat) hf he hn
      rw [byte_of_toNat rfl] at hanswer
      exact (exec_rollCall h u g w m ht hc).trans (congrArg (fun z => Host.Outcome.next (s.endFrame h z)) hanswer)
    · exact (exec_rollCall h u g w m ht hc).trans
        (congrArg (fun z => Host.Outcome.next (s.endFrame h z)) (answerRollCall_silent hno))
  · intro e z station ready start
    refine ⟨parkedReady_iff, fun k x route hk hx hr => ⟨fun hp => ?_, fun hp => ?_⟩, deliveryEstimate_of_none,
      fun k x hk hx hr => ?_, fun before x after hl hx hno => ?_⟩
    · rw [deliveryEstimate_of_route hk hx hr, if_pos (parkedReady_iff.mpr hp)]
      rfl
    · rw [deliveryEstimate_of_route hk hx hr, if_neg (mt parkedReady_iff.mp hp)]
      rfl
    · simp only [deliveryEstimate, show e.img.loadingDock.bind (dockSegment e.img) = some k from hk, hx, hr, Option.map_none]
    · exact List.find?_eq_some_iff_append.mpr ⟨by simpa using hx, before, after, hl, fun y hy => by simpa using hno y hy⟩
  · intro i start goal h1 h2 path
    have hg : goal ∈ upTo i.segments.length := mem_upTo.mpr ⟨h1, h2⟩
    refine ⟨routeTo_none_iff hg, fun route hr => ?_⟩
    have hn : (List.range (i.segments.length + 1)).find? (fun n => (reaching i goal n).contains start) ≠ none := fun hn => by
      rw [routeTo_eq, hn] at hr
      exact absurd hr nofun
    obtain ⟨n, hn⟩ := Option.ne_none_iff_exists'.mp hn
    obtain ⟨route', hr', hspec⟩ := routeTo_found hg hn
    obtain rfl := Option.some.inj (hr'.symm.trans hr)
    exact hspec

end Sys2Proof.Machine

/-! PROOF. The times of a call (R102, R103, R105), the unloading of a docked vehicle (R112) and the end of a load (R113). -/

namespace Sys2Proof.Machine

/-! ### The times of a call -/

theorem due_of {e : Env} {start : Option Time} {t after : Time} (hs : start = some t)
    (h : liesAfter (t + after) e.now = false) : due e start after = true := by simp [due, hs, reached, h]

theorem due_of_not {e : Env} {start : Option Time} {after : Time}
    (h : start = none ∨ ∃ t, start = some t ∧ liesAfter (t + after) e.now = true) : due e start after = false := by
  rcases h with h | ⟨t, h, ht⟩
  · simp [due, h]
  · simp [due, h, reached, ht]

theorem due_now_of {e : Env} {start : Option Time} {t : Time} (hs : start = some t) (h : liesAfter t e.now = false) :
    due e start 0 = true := due_of hs (by simpa using h)

theorem due_now_of_not {e : Env} {start : Option Time} (h : start = none ∨ ∃ t, start = some t ∧ liesAfter t e.now = true) :
    due e start 0 = false := due_of_not (by simpa using h)

theorem takeBest_next (e : Env) {c : Call} {o : Offer} {rest : List Offer} (z : Zone) (h : c.offers = o :: rest) :
    takeBest e c z = offer e
      ⟨o.station, .rollTake (byte c.number) o.serial (byte c.urgency.code) (byte (e.img.receivingDock.getD 0))⟩
      (setCall { c with state := .taking, chosen := some o, takeTime := none, late := decide (c.deadline < o.estimate) } z) := by
  unfold takeBest
  rw [h]
  rfl

theorem takeBest_last (e : Env) {c : Call} (z : Zone) (h : c.offers = []) : takeBest e c z = enterNoStock e c z := by
  unfold takeBest
  rw [h]

theorem exec_offerWindowEnd (n : Nat) {s : State} (ha : s.isActive = true) :
    exec (.offerWindowEnd n) s = .next (s.endEvent (windowEnded s.env n s.zone)) :=
  congrArg _ (whenActive_active ha _)

theorem exec_takeAnswerTimeout (n : Nat) {s : State} (ha : s.isActive = true) :
    exec (.takeAnswerTimeout n) s = .next (s.endEvent (takeTimedOut s.env n s.zone)) :=
  congrArg _ (whenActive_active ha _)

theorem exec_reissueTime (n : Nat) {s : State} (ha : s.isActive = true) :
    exec (.reissueTime n) s = .next (s.endEvent (reissueDue s.env n s.zone)) :=
  congrArg _ (whenActive_active ha _)

theorem exec_unloadRetry (n : Nat) {s : State} (ha : s.isActive = true) :
    exec (.unloadRetry n) s = .next (s.endEvent (retryDue s.env n s.zone)) :=
  congrArg _ (whenActive_active ha _)

theorem windowEnded_due {e : Env} {z : Zone} {c : Call} (hc : callNumbered z c.number = some c) (hs : c.state = .collecting)
    (hd : due e c.windowStart 15 = true) : windowEnded e c.number z = takeBest e c z := by
  unfold windowEnded
  rw [hc]
  exact if_pos ⟨hs, hd⟩

theorem windowEnded_not_due {e : Env} {z : Zone} {c : Call} (hc : callNumbered z c.number = some c)
    (h : c.state ≠ .collecting ∨ due e c.windowStart 15 = false) : windowEnded e c.number z = z := by
  unfold windowEnded
  rw [hc]
  exact if_neg fun hd => h.elim (absurd hd.1) fun h => absurd (hd.2.symm.trans h) nofun

theorem takeTimedOut_due {e : Env} {z : Zone} {c : Call} (hc : callNumbered z c.number = some c) (hs : c.state = .taking)
    (hd : due e c.takeTime 10 = true) : takeTimedOut e c.number z = dropChosen e c z := by
  unfold takeTimedOut
  rw [hc]
  exact if_pos ⟨hs, hd⟩

theorem takeTimedOut_not_due {e : Env} {z : Zone} {c : Call} (hc : callNumbered z c.number = some c)
    (h : c.state ≠ .taking ∨ due e c.takeTime 10 = false) : takeTimedOut e c.number z = z := by
  unfold takeTimedOut
  rw [hc]
  exact if_neg fun hd => h.elim (absurd hd.1) fun h => absurd (hd.2.symm.trans h) nofun

theorem reissueDue_due {e : Env} {z : Zone} {c : Call} (hc : callNumbered z c.number = some c) (hs : c.state = .noStock)
    (hd : due e c.reissueAt 0 = true) : reissueDue e c.number z = reissueOrFree e c z := by
  unfold reissueDue
  rw [hc]
  exact if_pos ⟨hs, hd⟩

theorem reissueDue_not_due {e : Env} {z : Zone} {c : Call} (hc : callNumbered z c.number = some c)
    (h : c.state ≠ .noStock ∨ due e c.reissueAt 0 = false) : reissueDue e c.number z = z := by
  unfold reissueDue
  rw [hc]
  exact if_neg fun hd => h.elim (absurd hd.1) fun h => absurd (hd.2.symm.trans h) nofun

/-- No call has the number: the three times of a call do nothing. -/
theorem times_of_no_call {e : Env} {z : Zone} {n : Nat} (hc : callNumbered z n = none) :
    reissueDue e n z = z ∧ windowEnded e n z = z ∧ takeTimedOut e n z = z := by
  unfold reissueDue windowEnded takeTimedOut
  rw [hc]
  exact ⟨rfl, rfl, rfl⟩

theorem reissueOrFree_again {e : Env} {c : Call} {z : Zone} (h : needStands e z c.need = true) :
    reissueOrFree e c z = issue e (freshCall e c.need c.grade c.width z) (callEntered e c.need c.grade c.width z) :=
  if_pos h

theorem reissueOrFree_freed {e : Env} {c : Call} {z : Zone} (h : needStands e z c.need = false) :
    reissueOrFree e c z = { z with supply := { z.supply with calls := z.supply.calls.erase c.need.key } } :=
  if_neg (by simp [h])

theorem needStands_runout_iff {e : Env} {z : Zone} {k : Nat} : needStands e z (.runout k) = true ↔
    rollAt z (.arm k (standbyArm z k)) = none ∧
      ∃ w x, z.splice.stands.get? k = some w ∧ w.running = some x ∧ rollAt z (.arm k x) ≠ none := by
  simp only [needStands, Bool.and_eq_true, Option.isNone_iff_eq_none, Option.any_eq_true, runningArm, splice?, Option.bind_eq_some_iff,
    Option.isSome_iff_ne_none]
  exact and_congr_right' ⟨fun ⟨x, ⟨w, hw, hx⟩, hr⟩ => ⟨w, x, hw, hx, hr⟩, fun ⟨w, x, hw, hx, hr⟩ => ⟨x, ⟨w, hw, hx⟩, hr⟩⟩

/-! ### The unloading of a docked vehicle -/

theorem dockedAt_iff {e : Env} {z : Zone} {n slot d : Nat} {v : Vehicle} (hv : findVehicle z n = some (slot, v)) :
    dockedAt e z n d = true ↔ v.state = .docked ∧ ∃ k, dockSegment e.img d = some k ∧ v.current = some k := by
  simp only [dockedAt, hv, Bool.and_eq_true, decide_eq_true_iff, and_assoc]
  cases dockSegment e.img d <;> simp

theorem vehicleOrdered_iff {z : Zone} {n : Nat} : vehicleOrdered z n = true ↔
    (∃ o ∈ allOrders z, o.vehicle = some n) ∨ ∃ q ∈ z.transfer.heldP ++ z.transfer.heldO, q.vehicle = some n := by
  simp [vehicleOrdered, or_and_right, exists_or]

theorem unload_silent {e : Env} {z : Zone} {n slot d : Nat} {v : Vehicle} (hv : findVehicle z n = some (slot, v))
    (hd : e.img.receivingDock = some d) (h : dockedAt e z n d = false ∨ v.loaded = false ∨ vehicleOrdered z n = true) :
    unload e n z = z := by
  unfold unload
  rw [hv, hd]
  refine if_neg fun ⟨hl, hdock, hno⟩ => ?_
  rcases h with h | h | h <;> simp_all

/-- The zone in which a docked vehicle's order has been asked for. -/
def unloading (n : Nat) (calls : Tbl Call) (r : OrderReq) (z : Zone) : Zone :=
  { z with supply := { z.supply with calls := calls, retries := z.supply.retries.erase n }
           agenda := z.agenda ++ [.requestOrder r] }

theorem unload_eq {e : Env} {z : Zone} {n slot d : Nat} {v : Vehicle} (hv : findVehicle z n = some (slot, v))
    (hd : e.img.receivingDock = some d) (hdock : dockedAt e z n d = true) (hl : v.loaded = true)
    (hno : vehicleOrdered z n = false) : unload e n z =
      match deliveredCall e z v with
      | some c => unloading n (z.supply.calls.set c.need.key { c with state := .delivered })
          (deliveryRequest e z c n (((rollAt z (.vehicle slot)).map Roll.serial).getD 0)) z
      | none => unloading n z.supply.calls
          (receiveRequest e n (((rollAt z (.vehicle slot)).map Roll.serial).getD 0) .anyStock none) z := by
  have hcond : v.loaded = true ∧ dockedAt e z n d = true ∧ (!vehicleOrdered z n) = true := ⟨hl, hdock, by simp [hno]⟩
  unfold unload
  rw [hv, hd]
  refine (if_pos hcond).trans ?_
  cases h : deliveredCall e z v with
  | none =>
    have h' : deliveredCall e { z with supply := { z.supply with retries := z.supply.retries.erase n } } v = none := h
    simp only [h']
    rfl
  | some c =>
    have h' : deliveredCall e { z with supply := { z.supply with retries := z.supply.retries.erase n } } v = some c := h
    simp only [h']
    rfl

theorem unload_delivered {e : Env} {z : Zone} {n slot d : Nat} {v : Vehicle} {c : Call} (hv : findVehicle z n = some (slot, v))
    (hd : e.img.receivingDock = some d) (hdock : dockedAt e z n d = true) (hl : v.loaded = true)
    (hno : vehicleOrdered z n = false) (hc : deliveredCall e z v = some c) : unload e n z =
      unloading n (z.supply.calls.set c.need.key { c with state := .delivered })
          (deliveryRequest e z c n (((rollAt z (.vehicle slot)).map Roll.serial).getD 0)) z := by
  rw [unload_eq hv hd hdock hl hno, hc]

theorem unload_unknown {e : Env} {z : Zone} {n slot d : Nat} {v : Vehicle} (hv : findVehicle z n = some (slot, v))
    (hd : e.img.receivingDock = some d) (hdock : dockedAt e z n d = true) (hl : v.loaded = true)
    (hno : vehicleOrdered z n = false) (hc : deliveredCall e z v = none) : unload e n z =
      unloading n z.supply.calls
          (receiveRequest e n (((rollAt z (.vehicle slot)).map Roll.serial).getD 0) .anyStock none) z := by
  rw [unload_eq hv hd hdock hl hno, hc]

theorem receiveRequest_eq {e : Env} {d : Nat} (hd : e.img.receivingDock = some d) (n : Nat) (serial : Serial) (dest : Dest)
    (ref : Option CallRef) : receiveRequest e n serial dest ref =
      { queue := .o, origin := .receive, serial := serial, source := .dock d, dest := dest, dockTrigger := some d,
        armTrigger := none, vehicle := some n, callRef := ref } := by
  simp only [receiveRequest, hd, Option.getD_some]

theorem deliveredCall_some {e : Env} {z : Zone} {v : Vehicle} {m dest dock : Nat} {c : Call}
    (hp : v.purpose = .ship e.own m dest dock) (hc : callNumbered z m = some c) (hs : c.state = .confirmed) :
    deliveredCall e z v = some c := by
  simp [deliveredCall, hp, hc, hs]

theorem deliveredCall_none {e : Env} {z : Zone} {v : Vehicle}
    (h : ∀ m dest dock c, v.purpose = .ship e.own m dest dock → callNumbered z m = some c → c.state ≠ .confirmed) :
    deliveredCall e z v = none := by
  unfold deliveredCall
  split
  · rename_i st m dest dock hp
    split
    · rename_i hst
      subst hst
      exact Option.filter_eq_none_iff.mpr fun c hc => by simpa using h m dest dock c hp hc
    · rfl
  · rfl

theorem deliveryRequest_arm {e : Env} {z : Zone} {c : Call} {r d : Nat} (hn : c.need = .runout r)
    (hd : e.img.receivingDock = some d) (n : Nat) (serial : Serial) (h : rollAt z (.arm r (standbyArm z r)) = none) :
    deliveryRequest e z c n serial =
      { queue := .p, origin := .callLoad, serial := serial, source := .dock d, dest := .place (.arm r (standbyArm z r)),
        dockTrigger := some d, armTrigger := some (r, standbyArm z r), vehicle := some n, callRef := some ⟨e.own, c.number, 0⟩ } := by
  simp only [deliveryRequest, hn, h, receiveRequest_eq hd, Option.isSome_none, Bool.false_eq_true, if_false]

theorem deliveryRequest_stock {e : Env} {z : Zone} {c : Call} {r : Nat} (hn : c.need = .runout r)
    (n : Nat) (serial : Serial) (h : rollAt z (.arm r (standbyArm z r)) ≠ none) :
    deliveryRequest e z c n serial = receiveRequest e n serial .anyStock (some ⟨e.own, c.number, 0⟩) := by
  simp only [deliveryRequest, hn]
  exact if_pos (Option.isSome_iff_ne_none.mpr h)

theorem deliveryRequest_lane {e : Env} {z : Zone} {c : Call} {l : Nat} (hn : c.need = .restock l)
    (n : Nat) (serial : Serial) : deliveryRequest e z c n serial = receiveRequest e n serial
      (if laneMode? e l = some .through then .place (.lane l 1) else .lane l) (some ⟨e.own, c.number, 0⟩) := by
  simp only [deliveryRequest, hn]

/-! ### The end of a load -/

theorem loads_of_no_call (e : Env) {n : Nat} (order : Nat) (serial : Serial) {z : Zone} (h : callNumbered z n = none) :
    loadDone n z = z ∧ loadFailed e n order serial z = z ∧ loadRedirected e n z = z := by
  unfold loadDone loadFailed loadRedirected
  rw [h]
  exact ⟨rfl, rfl, rfl⟩

theorem loads_of_call (e : Env) {c : Call} (order : Nat) (serial : Serial) {z : Zone} (h : callNumbered z c.number = some c) :
    loadDone c.number z = freeCall c.need z ∧
      loadFailed e c.number order serial z =
        reissueOrFree e c (raise e .loadFailed [.call c.number, .order order, .serial serial] z) ∧
      loadRedirected e c.number z = reissueOrFree e c z := by
  unfold loadDone loadFailed loadRedirected
  rw [h]
  exact ⟨rfl, rfl, rfl⟩

/-- Settles O44: each time of a call by whether it has come, and the unloading by the call that the vehicle's purpose
names. -/
theorem callTimes : Obligations.CallTimes := by
  refine ⟨?_, ?_, ?_, ?_, ?_, ?_, ?_⟩
  · intro s c ha hc e z taken noStock left
    have hno (c : Call) : enterNoStock e c z = noStock c := by
      cases c with
      | mk _ n => cases n <;> rfl
    refine ⟨fun t hs ht hl => ?_, fun h => ?_, fun t hs ht hl => ?_, fun h => ?_⟩
    · have hdue := windowEnded_due (e := s.env) hc hs (due_of ht hl)
      refine ⟨fun ho => ?_, fun o rest ho => ?_⟩ <;> refine (exec_offerWindowEnd _ ha).trans (event_congr (hdue.trans ?_))
      · exact (takeBest_last _ _ ho).trans (hno c)
      · exact takeBest_next _ _ ho
    · refine (exec_offerWindowEnd _ ha).trans (event_congr (windowEnded_not_due hc ?_))
      exact h.imp_right (due_of_not (e := s.env))
    · have hdue := takeTimedOut_due (e := s.env) hc hs (due_of ht hl)
      refine ⟨fun ho => ?_, fun o rest ho => ?_⟩ <;> refine (exec_takeAnswerTimeout _ ha).trans (event_congr (hdue.trans ?_))
      · exact (dropChosen_last _ _ ho).trans (hno _)
      · refine (dropChosen_next _ _ ho).trans ?_
        rw [← ho]
    · refine (exec_takeAnswerTimeout _ ha).trans (event_congr (takeTimedOut_not_due hc ?_))
      exact h.imp_right (due_of_not (e := s.env))
  · intro s ha e z
    refine ⟨fun c t hc hs ht hl => ?_, fun n hn => ?_, fun c hc h => ?_, fun n t ht hl => ?_, fun n h => ?_⟩
    · have hdue := (exec_reissueTime _ ha).trans
        (event_congr (reissueDue_due (e := s.env) hc hs (due_now_of ht hl)))
      exact ⟨fun hn => hdue.trans (event_congr (reissueOrFree_freed hn)),
        fun hn => hdue.trans (event_congr (reissueOrFree_again hn))⟩
    · obtain ⟨hre, hw, htake⟩ := times_of_no_call (e := s.env) hn
      exact ⟨(exec_reissueTime n ha).trans (event_congr hre), (exec_offerWindowEnd n ha).trans (event_congr hw),
        (exec_takeAnswerTimeout n ha).trans (event_congr htake)⟩
    · refine (exec_reissueTime _ ha).trans (event_congr (reissueDue_not_due hc ?_))
      exact h.imp_right (due_now_of_not (e := s.env))
    · exact (exec_unloadRetry n ha).trans (event_congr (if_pos (due_now_of (e := s.env) ht hl)))
    · refine (exec_unloadRetry n ha).trans (event_congr (if_neg ?_))
      exact Bool.eq_false_iff.mp (due_now_of_not (e := s.env) h)
  · intro e n slot d v z hv hd docked named serial order asked unknown
    have hdocked : dockedAt e z n d = true ↔ docked := dockedAt_iff hv
    have hnamed : vehicleOrdered z n = true ↔ named := vehicleOrdered_iff
    refine ⟨fun h => unload_silent hv hd ?_, fun hdock hl hno => ?_⟩
    · rcases h with h | h | h
      · exact .inl (Bool.eq_false_iff.mpr (mt hdocked.mp h))
      · exact .inr (.inl h)
      · exact .inr (.inr (hnamed.mpr h))
    · have hdock := hdocked.mpr hdock
      have hno : vehicleOrdered z n = false := Bool.eq_false_iff.mpr (mt hnamed.mp hno)
      have hunknown (h : deliveredCall e z v = none) : unload e n z = unknown :=
        (unload_unknown hv hd hdock hl hno h).trans (congrArg (unloading n _ · z) (receiveRequest_eq hd _ _ _ _))
      refine ⟨fun m dest dock c hp hc hs => ?_, fun m dest dock hp hc => hunknown (deliveredCall_none ?_),
        fun hp => hunknown (deliveredCall_none fun m dest dock c h => absurd h (hp m dest dock))⟩
      · have hknown := unload_delivered hv hd hdock hl hno (deliveredCall_some hp hc hs)
        refine ⟨fun r hr => ⟨fun harm => ?_, fun harm => ?_⟩, fun l hl => ?_⟩ <;>
          refine hknown.trans (congrArg (unloading n _ · z) ?_)
        · exact deliveryRequest_arm hr hd _ _ harm
        · exact (deliveryRequest_stock hr _ _ harm).trans (receiveRequest_eq hd _ _ _ _)
        · exact (deliveryRequest_lane hl _ _).trans (receiveRequest_eq hd _ _ _ _)
      · intro m' dest' dock' c hp' hc'
        obtain ⟨-, rfl, -, -⟩ := Purpose.ship.inj (hp.symm.trans hp')
        exact hc c hc'
  · intro e n z h
    unfold unload
    rcases h with h | h
    · rw [h]
    · rw [h]
      cases findVehicle z n <;> rfl
  · intro e c order serial z hc again
    have hagain (z' : Zone) : reissueOrFree e c z' = again z' := rfl
    obtain ⟨hdone, hfailed, hredirected⟩ := loads_of_call e order serial hc
    exact ⟨hdone, hfailed.trans (hagain _), hredirected.trans (hagain _)⟩
  · exact fun e n order serial z h => loads_of_no_call e order serial h
  · intro e z k
    refine ⟨needStands_runout_iff, laneShort_iff.trans ?_⟩
    have hcount (c : LaneCfg) : (upTo c.positions).countP (fun p => (rollAt z (.lane k p)).any fun r =>
        r.state = .stock && r.serial ≠ 0 && !quarantined z r.serial) =
        ((List.range c.positions).filter fun i => (rollAt z (.lane k (i + 1))).any fun r =>
          r.state = .stock && r.serial ≠ 0 && !quarantined z r.serial).length := by
      rw [upTo, List.countP_map, List.countP_eq_length_filter]
      rfl
    simp only [hcount]
    exact ⟨fun ⟨c, m, h1, h2, h3, h4, h5, h6⟩ => ⟨c, m, h1, h3, h2, h4, h5, h6⟩,
      fun ⟨c, m, h1, h3, h2, h4, h5, h6⟩ => ⟨c, m, h1, h2, h3, h4, h5, h6⟩⟩

end Sys2Proof.Machine

/-! PROOF. Docks and the capture of vehicles (R22, R30, R42, R43). -/

namespace Sys2Proof.Machine

/-! ### The records of vehicles and segments -/

@[simp] theorem vehicle?_modVehicle_same (slot : Nat) (f : Vehicle → Vehicle) (z : Zone) :
    vehicle? (modVehicle slot f z) slot = (vehicle? z slot).map f := by
  simp [vehicle?, modVehicle, Tbl.get?_modify]

theorem vehicle?_modVehicle {slot : Nat} {z : Zone} {v : Vehicle} (f : Vehicle → Vehicle) (hv : vehicle? z slot = some v) :
    vehicle? (modVehicle slot f z) slot = some (f v) := by
  rw [vehicle?_modVehicle_same, hv, Option.map_some]

@[simp] theorem modVehicle_modVehicle (slot : Nat) (f g : Vehicle → Vehicle) (z : Zone) :
    modVehicle slot g (modVehicle slot f z) = modVehicle slot (fun v => g (f v)) z := by
  simp only [modVehicle, Tbl.modify_modify]

/-- A change of a record that keeps its number leaves it where its number finds it. -/
theorem find?_number_modify {t : Tbl Vehicle} {n slot : Nat} {v : Vehicle} {f : Vehicle → Vehicle} (hf : (f v).number = n)
    (hget : t.get? slot = some v) (hfind : t.find? (fun x => x.2.number = n) = some (slot, v)) :
    (t.modify slot f).find? (fun x => x.2.number = n) = some (slot, f v) := by
  induction t with
  | nil => exact absurd hfind nofun
  | cons x t ih =>
    obtain ⟨k, w⟩ := x
    have hn : v.number = n := by simpa using List.find?_some hfind
    by_cases hw : w.number = n
    · rw [List.find?_cons_of_pos (by simpa using hw)] at hfind
      obtain ⟨rfl, rfl⟩ := Prod.mk.inj (Option.some.inj hfind)
      simp [Tbl.modify, hf]
    · rw [List.find?_cons_of_neg (by simpa using hw)] at hfind
      have hne : slot ≠ k := by
        rintro rfl
        rw [Tbl.get?, if_pos rfl] at hget
        exact hw (Option.some.inj hget ▸ hn)
      rw [Tbl.get?, if_neg hne] at hget
      rw [Tbl.modify, if_neg hne, List.find?_cons_of_neg (by simpa using hw)]
      exact ih hget hfind

theorem findVehicle_modVehicle {z : Zone} {n slot : Nat} {v : Vehicle} (f : Vehicle → Vehicle) (hf : (f v).number = v.number)
    (hget : vehicle? z slot = some v) (hfind : findVehicle z n = some (slot, v)) :
    findVehicle (modVehicle slot f z) n = some (slot, f v) :=
  find?_number_modify (hf.trans (findVehicle_number hfind)) hget hfind

/-! ### Docks (R22, R30) -/

theorem dockSegment_of_no_dock {i : Image} {d : Nat} (h : i.dock? d = none) : dockSegment i d = none := by
  simp only [dockSegment, h]

theorem dockSegment_of_dock {i : Image} {d : Nat} {c : DockCfg} (h : i.dock? d = some c) :
    dockSegment i d = if c.role = .scrap ∨ c.segment = 0 then none else some c.segment := by
  simp only [dockSegment, h]

theorem arrive_dock (e : Env) {slot d : Nat} {v : Vehicle} (z : Zone) (h : goalOf e v = .dock d) : arrive e slot v z =
    if (dockSegment e.img d).isSome && v.current = dockSegment e.img d && atDock e d then
      dockVehicle e slot d (modVehicle slot (fun v => { v with state := .held }) z)
    else modVehicle slot (fun v => { v with state := .held }) z := by
  simp only [arrive, h]

/-- A vehicle that is free to go and has no route left waits at its destination. -/
theorem proceed_arrive {e : Env} {slot : Nat} {z : Zone} {v : Vehicle} (hv : vehicle? z slot = some v)
    (hs : v.state = .moving ∨ v.state = .held) (hg : v.granted = none) (ht : v.trailing = none) (hr : v.route = []) :
    proceed e slot z = arrive e slot v z := by
  unfold proceed
  simp only [hv, if_pos hs, hg, ht, hr, Option.isSome_none, Bool.false_eq_true, if_false]

/-- A vehicle on purpose SHIP or RETURN is reported as it docks. -/
def reportsDocking (v : Vehicle) : Prop := (∃ a b c n, v.purpose = .ship a b c n) ∨ ∃ a, v.purpose = .returnTo a

theorem dockVehicle_reported {e : Env} {slot d : Nat} {z : Zone} {v : Vehicle} (hv : vehicle? z slot = some v)
    (hp : reportsDocking v) (hd : e.img.receivingDock = some d) : dockVehicle e slot d z =
      (modVehicle slot (fun v => { v with state := .docked }) z).push (.unload v.number) := by
  unfold dockVehicle
  rw [hv]
  rcases hp with ⟨a, b, c, n, hp⟩ | ⟨a, hp⟩ <;> simp only [hp, hd, if_true]

theorem dockVehicle_plain {e : Env} {slot d : Nat} {z : Zone} {v : Vehicle} (hv : vehicle? z slot = some v)
    (h : ¬ reportsDocking v ∨ e.img.receivingDock ≠ some d) : dockVehicle e slot d z =
      modVehicle slot (fun v => { v with state := .docked }) z := by
  unfold dockVehicle
  rw [hv]
  have hno (hp : reportsDocking v) : e.img.receivingDock ≠ some d := h.resolve_left (not_not_intro hp)
  cases hp : v.purpose with
  | ship a b c n => simp only [hp, if_neg (hno (.inl ⟨a, b, c, n, hp⟩))]
  | returnTo a => simp only [hp, if_neg (hno (.inr ⟨a, hp⟩))]
  | home => simp only [hp]
  | fetch d => simp only [hp]
  | none => simp only [hp]

theorem dockVehicle_track {e : Env} {slot d : Nat} {z : Zone} {v : Vehicle} (hv : vehicle? z slot = some v) :
    (dockVehicle e slot d z).track = (modVehicle slot (fun v => { v with state := .docked }) z).track := by
  by_cases h : ¬ reportsDocking v ∨ e.img.receivingDock ≠ some d
  · rw [dockVehicle_plain hv h]
  · obtain ⟨hp, hd⟩ := not_or.mp h
    rw [dockVehicle_reported hv (not_not.mp hp) (not_not.mp hd)]
    rfl

theorem findVehicle_of_track {z w : Zone} (n : Nat) (h : z.track = w.track) : findVehicle z n = findVehicle w n := by
  unfold findVehicle
  rw [h]

/-! ### The capture of an empty vehicle (R42, R43) -/

/-- An order of the zone waits for a vehicle. -/
def orderWaits (z : Zone) (o : Order) : Prop :=
  o ∈ allOrders z ∧ o.req.dockTrigger ≠ none ∧ o.vehicle = none ∧ (o.req.origin = .ship ∨ o.req.origin = .buttClear)

theorem orderWaits_iff {z : Zone} {o : Order} : orderWaits z o ↔ o ∈ (allOrders z).filter waitsForVehicle := by
  simp [orderWaits, waitsForVehicle, Option.isSome_iff_ne_none, and_assoc]

theorem oldestWaiting_eq (z : Zone) : oldestWaiting z =
    ((allOrders z).filter waitsForVehicle).foldl (keepBest fun x y => decide (x.accepted < y.accepted)) none := by
  unfold oldestWaiting
  congr 1
  funext best x
  cases best with
  | none => rfl
  | some b => simp [keepBest_some]; split <;> rfl

theorem best_of_measure {α : Type} (m : α → Nat) (l : List α) :
    (l.foldl (keepBest fun x y => decide (m x < m y)) none = none ↔ l = []) ∧
      ∀ a, l.foldl (keepBest fun x y => decide (m x < m y)) none = some a → a ∈ l ∧ ∀ x ∈ l, m a ≤ m x := by
  have h := foldl_keepBest (lt := fun x y => decide (m x < m y)) (fun a b => by simp; omega) (fun a b c => by simp; omega) l
  simpa using h

/-- A best by a number, where one of the list has a smaller number than every other. -/
theorem best_of_least {α : Type} {m : α → Nat} {l : List α} {a : α} (ha : a ∈ l) (hmin : ∀ x ∈ l, x ≠ a → m a < m x) :
    l.foldl (keepBest fun x y => decide (m x < m y)) none = some a := by
  obtain ⟨hnone, hsome⟩ := best_of_measure m l
  cases h : l.foldl (keepBest fun x y => decide (m x < m y)) none with
  | none => exact absurd (hnone.mp h ▸ ha) (List.not_mem_nil)
  | some b =>
    obtain ⟨hb, hle⟩ := hsome b h
    by_contra hne
    have := hmin b hb fun h => hne (congrArg some h)
    have := hle a ha
    omega

theorem oldestWaiting_none {z : Zone} (h : ∀ o, ¬ orderWaits z o) : oldestWaiting z = none := by
  rw [oldestWaiting_eq, (best_of_measure _ _).1]
  exact List.eq_nil_iff_forall_not_mem.mpr fun o ho => h o (orderWaits_iff.mpr ho)

theorem oldestWaiting_some {z : Zone} {o : Order} (ho : orderWaits z o)
    (hmin : ∀ p, orderWaits z p → p ≠ o → o.accepted < p.accepted) : oldestWaiting z = some o :=
  (oldestWaiting_eq z).trans (best_of_least (orderWaits_iff.mp ho) fun p hp => hmin p (orderWaits_iff.mpr hp))

theorem offerVehicle_absent (e : Env) {z : Zone} {n : Nat} (why : CaptureMoment) (h : findVehicle z n = none) :
    offerVehicle e n why z = z := by
  unfold offerVehicle
  rw [h]

theorem offerVehicle_busy (e : Env) {z : Zone} {n slot : Nat} {v : Vehicle} (why : CaptureMoment)
    (hv : findVehicle z n = some (slot, v)) (h : v.loaded = true ∨ v.order ≠ none) : offerVehicle e n why z = z := by
  unfold offerVehicle
  rw [hv]
  exact if_pos (h.imp_right Option.isSome_iff_ne_none.mpr)

theorem free_of {v : Vehicle} (hl : v.loaded = false) (ho : v.order = none) : ¬ (v.loaded = true ∨ v.order.isSome = true) := by
  simp [hl, ho]

theorem offerVehicle_captured (e : Env) {z : Zone} {n slot : Nat} {v : Vehicle} {o : Order} (why : CaptureMoment)
    (hv : findVehicle z n = some (slot, v)) (hl : v.loaded = false) (ho : v.order = none)
    (h : oldestWaiting z = some o) : offerVehicle e n why z = capture e slot v o z := by
  unfold offerVehicle
  rw [hv]
  refine (if_neg (free_of hl ho)).trans ?_
  rw [h]

theorem offerVehicle_home (e : Env) {z : Zone} {n slot : Nat} {v : Vehicle} {why : CaptureMoment}
    (hv : findVehicle z n = some (slot, v)) (hl : v.loaded = false) (ho : v.order = none)
    (h : oldestWaiting z = none) (hw : why = .emptied ∨ why = .released) :
    offerVehicle e n why z = setPurpose e slot .home z := by
  unfold offerVehicle
  rw [hv]
  refine (if_neg (free_of hl ho)).trans ?_
  rw [h]
  rcases hw with rfl | rfl <;> rfl

theorem offerVehicle_kept (e : Env) {z : Zone} {n slot : Nat} {v : Vehicle} {why : CaptureMoment}
    (hv : findVehicle z n = some (slot, v)) (hl : v.loaded = false) (ho : v.order = none)
    (h : oldestWaiting z = none) (he : why ≠ .emptied) (hr : why ≠ .released) : offerVehicle e n why z = z := by
  unfold offerVehicle
  rw [hv]
  refine (if_neg (free_of hl ho)).trans ?_
  rw [h]
  cases why with
  | emptied => exact absurd rfl he
  | released => exact absurd rfl hr
  | _ => rfl

/-- A vehicle of the table that an order beginning to wait may take. -/
def isCandidate (z : Zone) (x : Nat × Vehicle) : Prop :=
  x ∈ z.track.vehicles ∧ x.2.loaded = false ∧ x.2.order = none ∧ x.2.handOver = .none ∧
    x.2.state ∈ [VehState.moving, .held, .docked, .parked] ∧
    (x.2.purpose = .home ∨ x.2.purpose = .none ∨ ∃ d, x.2.purpose = .fetch d)

theorem isCandidate_iff {z : Zone} {x : Nat × Vehicle} :
    isCandidate z x ↔ x ∈ z.track.vehicles.filter fun v => captureCandidate v.2 := by
  cases hp : x.2.purpose <;> simp [isCandidate, captureCandidate, hp, and_assoc, or_assoc]

theorem lowestCandidate_eq (z : Zone) : lowestCandidate z =
    (z.track.vehicles.filter fun v => captureCandidate v.2).foldl
      (keepBest fun x y => decide (x.2.number < y.2.number)) none := by
  unfold lowestCandidate
  congr 1
  funext best x
  cases best with
  | none => rfl
  | some b => simp [keepBest_some]; split <;> rfl

theorem lowestCandidate_none {z : Zone} (h : ∀ x, ¬ isCandidate z x) : lowestCandidate z = none := by
  rw [lowestCandidate_eq, (best_of_measure (fun x : Nat × Vehicle => x.2.number) _).1]
  exact List.eq_nil_iff_forall_not_mem.mpr fun o ho => h o (isCandidate_iff.mpr ho)

theorem lowestCandidate_some {z : Zone} {x : Nat × Vehicle} (hx : isCandidate z x)
    (hmin : ∀ y, isCandidate z y → y ≠ x → x.2.number < y.2.number) : lowestCandidate z = some x :=
  (lowestCandidate_eq z).trans (best_of_least (m := fun x : Nat × Vehicle => x.2.number) (isCandidate_iff.mp hx)
    fun p hp => hmin p (isCandidate_iff.mpr hp))

theorem find?_unique {α : Type} {l : List α} {p : α → Bool} {a : α} (ha : a ∈ l) (hp : p a = true)
    (h : ∀ x ∈ l, p x = true → x = a) : l.find? p = some a := by
  cases hf : l.find? p with
  | none => exact absurd hp (by simpa using List.find?_eq_none.mp hf a ha)
  | some b => rw [h b (List.mem_of_find?_eq_some hf) (List.find?_some hf)]

theorem assignVehicle_of_none (e : Env) {z : Zone} {n : Nat} (h : ∀ o, orderWaits z o → o.number ≠ n) :
    assignVehicle e n z = z := by
  have hnone : (allOrders z).find? (fun o => o.number = n && waitsForVehicle o) = none :=
    List.find?_eq_none.mpr fun o ho hp => by
      obtain ⟨hn, hw⟩ := Bool.and_eq_true_iff.mp hp
      exact h o (orderWaits_iff.mpr (List.mem_filter.mpr ⟨ho, hw⟩)) (by simpa using hn)
  unfold assignVehicle
  rw [hnone]

theorem waiting_found {z : Zone} {o : Order} (ho : orderWaits z o)
    (h : ∀ p, orderWaits z p → p.number = o.number → p = o) :
    (allOrders z).find? (fun p => p.number = o.number && waitsForVehicle p) = some o := by
  have hmem := List.mem_filter.mp (orderWaits_iff.mp ho)
  refine find?_unique hmem.1 (by simp [hmem.2]) fun p hp hw => ?_
  obtain ⟨hn, hw⟩ := Bool.and_eq_true_iff.mp hw
  exact h p (orderWaits_iff.mpr (List.mem_filter.mpr ⟨hp, hw⟩)) (by simpa using hn)

theorem assignVehicle_taken (e : Env) {z : Zone} {o : Order} {slot : Nat} {v : Vehicle} (ho : orderWaits z o)
    (h : ∀ p, orderWaits z p → p.number = o.number → p = o) (hl : lowestCandidate z = some (slot, v)) :
    assignVehicle e o.number z = capture e slot v o z := by
  simp only [assignVehicle, waiting_found ho h, hl]

theorem assignVehicle_waits (e : Env) {z : Zone} {o : Order} (ho : orderWaits z o)
    (h : ∀ p, orderWaits z p → p.number = o.number → p = o) (hl : lowestCandidate z = none) :
    assignVehicle e o.number z = z := by
  simp only [assignVehicle, waiting_found ho h, hl]

theorem capture_eq (e : Env) (slot : Nat) (v : Vehicle) {o : Order} {d : Nat} (z : Zone) (hd : o.req.dockTrigger = some d) :
    capture e slot v o z = setPurpose e slot (.fetch d) (modVehicle slot (fun x => { x with order := some o.number })
      (modOrder o.number (fun o => { o with vehicle := some v.number }) z)) := by
  simp only [capture, hd, Option.getD_some]

theorem releaseVehicle_absent {z : Zone} {n : Nat} (m : Nat) (h : findVehicle z n = none) : releaseVehicle n m z = z := by
  unfold releaseVehicle
  rw [h]

theorem releaseVehicle_other {z : Zone} {n slot m : Nat} {v : Vehicle} (hv : findVehicle z n = some (slot, v))
    (h : v.order ≠ some m) : releaseVehicle n m z = z := by
  unfold releaseVehicle
  rw [hv]
  exact if_neg h

theorem releaseVehicle_own {z : Zone} {n slot m : Nat} {v : Vehicle} (hv : findVehicle z n = some (slot, v))
    (h : v.order = some m) : releaseVehicle n m z =
      (modVehicle slot (fun v => { v with order := none }) z).push (.offerVehicle n .released) := by
  unfold releaseVehicle
  rw [hv]
  exact if_pos h

/-! ### At-dock inputs (R30) -/

theorem pin_set (t : Tbl Bool) (d : Nat) : (t.set d true).pin d = true := by simp [Tbl.pin, Tbl.get?_set]

/-- The state with an at-dock input risen, and with it fallen. -/
def dockInput (s : State) (t : Tbl Bool) : State := { s with inputs := { s.inputs with atDock := t } }

theorem exec_atDockRise_still (d : Nat) {s : State} (h : s.inputs.atDock.pin d = true ∨ s.isActive = false) :
    exec (.atDockRise d) s = .next (dockInput s (s.inputs.atDock.set d true)) := by
  refine congrArg Host.Outcome.next ?_
  by_cases hp : s.inputs.atDock.pin d = true
  · exact if_pos hp
  · exact (if_neg hp).trans (whenActive_idle (s := dockInput s (s.inputs.atDock.set d true)) (h.resolve_left hp) _)

theorem exec_atDockRise (d : Nat) {s : State} (hp : s.inputs.atDock.pin d = false) (ha : s.isActive = true) :
    exec (.atDockRise d) s = .next ((dockInput s (s.inputs.atDock.set d true)).endEvent
      (dockRises (dockInput s (s.inputs.atDock.set d true)).env d s.zone)) :=
  congrArg Host.Outcome.next ((if_neg (by simp [hp])).trans
    (whenActive_active (s := dockInput s (s.inputs.atDock.set d true)) ha _))

theorem exec_atDockFall_still (d : Nat) {s : State} (h : s.inputs.atDock.pin d = false ∨ s.isActive = false) :
    exec (.atDockFall d) s = .next (dockInput s (s.inputs.atDock.erase d)) := by
  refine congrArg Host.Outcome.next ?_
  by_cases hp : s.inputs.atDock.pin d = true
  · exact (if_pos hp).trans (whenActive_idle (s := dockInput s (s.inputs.atDock.erase d))
      (h.resolve_left (by simp [hp])) _)
  · exact if_neg hp

theorem exec_atDockFall (d : Nat) {s : State} (hp : s.inputs.atDock.pin d = true) (ha : s.isActive = true) :
    exec (.atDockFall d) s = .next ((dockInput s (s.inputs.atDock.erase d)).endEvent
      (dockFalls (dockInput s (s.inputs.atDock.erase d)).env d s.zone)) :=
  congrArg Host.Outcome.next ((if_pos hp).trans (whenActive_active (s := dockInput s (s.inputs.atDock.erase d)) ha _))

/-- A vehicle that stands at a dock has no route left and stands on the dock's segment. -/
theorem atDockSlots_vehicle {e : Env} {z : Zone} {d slot : Nat} {v : Vehicle} (hs : z.track.vehicles.sorted = true)
    (hv : vehicle? z slot = some v) (h : slot ∈ atDockSlots e z d) :
    v.route = [] ∧ (dockSegment e.img d).isSome = true ∧ v.current = dockSegment e.img d := by
  obtain ⟨x, hx, rfl⟩ := List.mem_map.mp h
  obtain ⟨hmem, hcond⟩ := List.mem_filter.mp hx
  obtain rfl : x.2 = v := Option.some.inj ((Tbl.get?_of_mem hs hmem).symm.trans hv)
  simpa [and_assoc] using hcond

/-- The one vehicle that waited at the dock docks. -/
theorem dockRises_docked {e : Env} {z : Zone} {d slot : Nat} {v : Vehicle} (hs : z.track.vehicles.sorted = true)
    (hslots : atDockSlots e z d = [slot]) (hin : atDock e d = true) (hv : vehicle? z slot = some v) (hh : v.state = .held)
    (hg : v.granted = none) (ht : v.trailing = none) (hgoal : goalOf e v = .dock d) : dockRises e d z =
      dockVehicle e slot d (modVehicle slot (fun v => { v with state := .held }) z) := by
  obtain ⟨hr, hseg, hcur⟩ := atDockSlots_vehicle hs hv (hslots ▸ List.mem_singleton_self slot)
  unfold dockRises
  rw [hslots, List.foldl_cons, List.foldl_nil, proceed_arrive hv (.inr hh) hg ht hr, arrive_dock e z hgoal]
  exact if_pos (by simp [hseg, hcur, hin])

/-- Settles O39: the inputs at a dock, the dock's segment, and the capture by the oldest order or the lowest vehicle
number. -/
theorem dockInputsTaken : Obligations.DockInputsTaken := by
  refine ⟨?_, ?_, ?_, ?_⟩
  · intro d s up down z
    refine ⟨exec_atDockRise_still d, fun hp ha => ⟨fun slot v hs hslots hv hh hg ht hgoal => ?_, exec_atDockRise d hp ha,
      fun hnone => ?_⟩, exec_atDockFall_still d, exec_atDockFall d⟩
    · exact (exec_atDockRise d hp ha).trans
        (event_congr (dockRises_docked hs hslots (pin_set s.inputs.atDock d) hv hh hg ht hgoal))
    · refine (exec_atDockRise d hp ha).trans (event_congr ?_)
      exact congrArg (List.foldl (fun z slot => proceed up.env slot z) z) hnone
  · intro e slot d z v hv become loaded
    refine ⟨dockVehicle_reported hv, dockVehicle_plain hv, fun o hd harm ho hfind hcur hseg => ?_, ?_⟩
    · have hfound : findVehicle (dockVehicle e slot d z) v.number = some (slot, { v with state := .docked }) :=
        (findVehicle_of_track _ (dockVehicle_track hv)).trans
          (findVehicle_modVehicle (fun v => { v with state := .docked }) rfl hv hfind)
      obtain ⟨k, hk⟩ := Option.ne_none_iff_exists'.mp hcur
      have hdocked := (dockedAt_iff (e := e) (d := d) hfound).mpr ⟨rfl, k, hseg.symm.trans hk, hk⟩
      simp only [triggerHolds, hd, harm, ho, Option.any_some, hdocked, Bool.and_self]
    · unfold parkVehicle
      rw [hv]
      rfl
  · intro e d
    refine ⟨fun c hc => ⟨fun hr hs => ?_, fun h => (dockSegment_of_dock hc).trans (if_pos h)⟩, dockSegment_of_no_dock,
      fun start hd => ?_, fun slot v z hg hd => ?_⟩
    · exact (dockSegment_of_dock hc).trans (if_neg (not_or.mpr ⟨hr, hs⟩))
    · exact congrArg (Option.bind · fun k => routeTo e.img start k) hd
    · rw [arrive_dock e z hg]
      exact if_neg (by simp [hd])
  · intro e z waits captured candidate
    refine ⟨fun n why => offerVehicle_absent e why, fun n slot v why hv => ⟨offerVehicle_busy e why hv, fun hl ho =>
      ⟨fun o d hw hmin hd => ?_, fun hno => ⟨fun hwhy => ?_, fun he hr => ?_⟩⟩⟩, fun o d hw huniq hd => ⟨fun slot v hc hmin => ?_,
      fun hno => ?_⟩, fun n => assignVehicle_of_none e, fun n m => releaseVehicle_absent m,
      fun n m slot v hv => ⟨releaseVehicle_other hv, releaseVehicle_own hv⟩⟩
    · exact (offerVehicle_captured e why hv hl ho (oldestWaiting_some hw hmin)).trans (capture_eq e slot v z hd)
    · exact offerVehicle_home e hv hl ho (oldestWaiting_none hno) hwhy
    · exact offerVehicle_kept e hv hl ho (oldestWaiting_none hno) he hr
    · exact (assignVehicle_taken e hw huniq (lowestCandidate_some hc hmin)).trans (capture_eq e slot v z hd)
    · exact assignVehicle_waits e hw huniq (lowestCandidate_none hno)

end Sys2Proof.Machine

/-! PROOF. LANE SERVICE (R60): the comparison of a lane with its detectors, the closing up of a THROUGH lane, and the
orders of a lane taken out. -/

namespace Sys2Proof.Machine

/-! ### A position compared with its detector -/

theorem lane_key_ne {l p q : Nat} (hp : p < 16) (hq : q < 16) (h : p ≠ q) : (Place.lane l p).key ≠ (Place.lane l q).key :=
  fun hk => h ((lane_key_eq hp hq).mp hk).2

@[simp] theorem rollAt_eraseRoll_same (p : Place) (z : Zone) : rollAt (eraseRoll p z) p = none := by
  simp [rollAt, eraseRoll, Tbl.get?_erase]

theorem rollAt_eraseRoll_ne {p q : Place} (h : q.key ≠ p.key) (z : Zone) : rollAt (eraseRoll p z) q = rollAt z q := by
  simp [rollAt, eraseRoll, Tbl.get?_erase, h]

theorem rollAt_release_ne {p : Place} {k : Nat} (h : p.key ≠ k) (z : Zone) : rollAt (release k z) p = rollAt z p := by
  unfold release
  split
  · split
    · simp [rollAt, Zone.push, Tbl.get?_set, h]
    · rfl
  · rfl

theorem release_lanes (k : Nat) (z : Zone) : (release k z).stock.lanes = z.stock.lanes := by
  unfold release
  split
  · split <;> rfl
  · rfl

theorem comparePosition_lost {e : Env} {l p : Nat} {z : Zone} {r : Roll} (hr : rollAt z (.lane l p) = some r)
    (hd : laneDetector e l p = false) : comparePosition e l p z =
      raise e .mismatch [.lane l, .position p, .serial r.serial]
        (eraseRoll (.lane l p) (release (Place.lane l p).key z)) := by
  unfold comparePosition
  rw [hr, hd]

theorem comparePosition_found {e : Env} {l p : Nat} {z : Zone} (hr : rollAt z (.lane l p) = none)
    (hd : laneDetector e l p = true) : comparePosition e l p z = setRoll (.lane l p) (unidentified (laneRest e l)) z := by
  unfold comparePosition
  rw [hr, hd]

theorem comparePosition_agrees {e : Env} {l p : Nat} {z : Zone} (h : laneDetector e l p = (rollAt z (.lane l p)).isSome) :
    comparePosition e l p z = z := by
  unfold comparePosition
  rw [h]
  cases rollAt z (.lane l p) <;> rfl

/-- The record of a position once it has been compared: none where the detector shows nothing. -/
def comparedRoll (e : Env) (l p : Nat) (z : Zone) : Option Roll :=
  if laneDetector e l p then some ((rollAt z (.lane l p)).getD (unidentified (laneRest e l))) else none

theorem rollAt_comparePosition_same (e : Env) (l p : Nat) (z : Zone) :
    rollAt (comparePosition e l p z) (.lane l p) = comparedRoll e l p z := by
  unfold comparedRoll
  cases hd : laneDetector e l p with
  | true =>
    cases hr : rollAt z (.lane l p) with
    | none => rw [comparePosition_found hr hd, rollAt_setRoll_same]; rfl
    | some r => rw [comparePosition_agrees (by rw [hd, hr]; rfl), hr]; rfl
  | false =>
    cases hr : rollAt z (.lane l p) with
    | none => rw [comparePosition_agrees (by rw [hd, hr]; rfl), hr]; rfl
    | some r => rw [comparePosition_lost hr hd, rollAt_of_stock (raise_stock ..), rollAt_eraseRoll_same]; rfl

theorem rollAt_comparePosition_ne {e : Env} {l p q : Nat} (z : Zone) (hp : p < 16) (hq : q < 16) (h : p ≠ q) :
    rollAt (comparePosition e l q z) (.lane l p) = rollAt z (.lane l p) := by
  have hkey : (Place.lane l p).key ≠ (Place.lane l q).key := lane_key_ne hp hq h
  by_cases hd : laneDetector e l q = (rollAt z (.lane l q)).isSome
  · rw [comparePosition_agrees hd]
  · cases hr : rollAt z (.lane l q) with
    | none => rw [comparePosition_found hr (by simpa [hr] using hd), rollAt_setRoll_ne hkey]
    | some r =>
      rw [comparePosition_lost hr (by simpa [hr] using hd), rollAt_of_stock (raise_stock ..), rollAt_eraseRoll_ne hkey,
        rollAt_release_ne hkey]

theorem comparePosition_lanes (e : Env) (l p : Nat) (z : Zone) : (comparePosition e l p z).stock.lanes = z.stock.lanes := by
  unfold comparePosition
  split
  · rfl
  · rw [raise_stock]
    exact release_lanes _ z
  · rfl

/-- The positions of a lane compared one after the other. -/
def compareLane (e : Env) (l : Nat) (z : Zone) : Zone := (upTo (lanePositions e l)).foldl (fun z p => comparePosition e l p z) z

theorem rollAt_comparePositions {e : Env} {l p : Nat} (n : Nat) (z : Zone) (hn : n < 16) (hp : p < 16) :
    rollAt ((upTo n).foldl (fun z q => comparePosition e l q z) z) (.lane l p) =
      if 1 ≤ p ∧ p ≤ n then comparedRoll e l p z else rollAt z (.lane l p) := by
  induction n with
  | zero => rw [if_neg (by omega)]; rfl
  | succ n ih =>
    rw [upTo_succ, List.foldl_append, List.foldl_cons, List.foldl_nil]
    by_cases h : p = n + 1
    · subst h
      have hfirst : rollAt ((upTo n).foldl (fun z q => comparePosition e l q z) z) (.lane l (n + 1)) =
          rollAt z (.lane l (n + 1)) := (ih (by omega)).trans (if_neg (by omega))
      rw [rollAt_comparePosition_same, comparedRoll, hfirst]
      exact (if_pos (by omega)).symm
    · rw [rollAt_comparePosition_ne _ hp (by omega) h, ih (by omega)]
      exact if_congr (by omega) rfl rfl

theorem comparePositions_lanes (e : Env) (l : Nat) (ps : List Nat) (z : Zone) :
    (ps.foldl (fun z p => comparePosition e l p z) z).stock.lanes = z.stock.lanes := by
  induction ps generalizing z with
  | nil => rfl
  | cons p ps ih => rw [List.foldl_cons, ih, comparePosition_lanes]

/-! ### A THROUGH lane closes up -/

theorem rollAt_erasePositions {l p : Nat} (n : Nat) (z : Zone) (hp : 1 ≤ p) (hn : p ≤ n) :
    rollAt ((upTo n).foldl (fun z p => eraseRoll (.lane l p) z) z) (.lane l p) = none := by
  induction n with
  | zero => omega
  | succ n ih =>
    rw [upTo_succ, List.foldl_append, List.foldl_cons, List.foldl_nil]
    by_cases h : p = n + 1
    · rw [h, rollAt_eraseRoll_same]
    · by_cases hkey : (Place.lane l p).key = (Place.lane l (n + 1)).key
      · simp [rollAt, eraseRoll, Tbl.get?_erase, hkey]
      · rw [rollAt_eraseRoll_ne hkey, ih (by omega)]

/-- Records set one after the other from position m + 1 on. -/
theorem rollAt_setPositions {l p : Nat} (rolls : List Roll) (m : Nat) (z : Zone) (hm : m + rolls.length < 16) (hp : p < 16) :
    rollAt ((rolls.zipIdx m).foldl (fun z x => setRoll (.lane l (x.2 + 1)) x.1 z) z) (.lane l p) =
      if m < p ∧ p ≤ m + rolls.length then rolls[p - (m + 1)]? else rollAt z (.lane l p) := by
  induction rolls generalizing m z with
  | nil => exact (if_neg (by simp)).symm
  | cons r rolls ih =>
    rw [List.length_cons] at hm ⊢
    rw [List.zipIdx_cons, List.foldl_cons, ih (m + 1) _ (by omega)]
    by_cases h : p = m + 1
    · subst h
      rw [if_neg (by omega), if_pos (by omega), rollAt_setRoll_same, Nat.sub_self, List.getElem?_cons_zero]
    · rw [rollAt_setRoll_ne (lane_key_ne hp (by omega) h)]
      by_cases hin : m + 1 < p ∧ p ≤ m + 1 + rolls.length
      · rw [if_pos hin, if_pos (by omega), show p - (m + 1) = (p - (m + 1 + 1)) + 1 by omega, List.getElem?_cons_succ]
      · rw [if_neg hin, if_neg (by omega)]

theorem rollAt_closeUp {e : Env} {l p : Nat} (z : Zone) (hn : lanePositions e l ≤ 4) (hp : 1 ≤ p) (hle : p ≤ lanePositions e l) :
    rollAt (closeUp e l z) (.lane l p) = ((upTo (lanePositions e l)).filterMap fun q => rollAt z (.lane l q))[p - 1]? := by
  have hlen : ((upTo (lanePositions e l)).filterMap fun q => rollAt z (.lane l q)).length ≤ lanePositions e l :=
    (List.length_filterMap_le _ _).trans (by simp [upTo])
  refine (rollAt_setPositions _ 0 _ (by omega) (by omega)).trans ?_
  by_cases h : p ≤ ((upTo (lanePositions e l)).filterMap fun q => rollAt z (.lane l q)).length
  · rw [if_pos (by omega)]
  · rw [if_neg (by omega), rollAt_erasePositions _ _ hp hle, List.getElem?_eq_none (by omega)]

/-! ### A lane brought into service -/

/-- The last step of bringing a lane into service leaves the roll table alone. -/
theorem laneBroughtIn_rolls {e : Env} {l : Nat} {z : Zone} : (laneBroughtIn e l z).stock.rolls =
    (if laneMode? e l = some .through then
      closeUp e l (compareLane e l (modLane l (fun c => { c with overrun := false, underrun := false }) z))
    else compareLane e l (modLane l (fun c => { c with overrun := false, underrun := false }) z)).stock.rolls := rfl

theorem rollAt_of_rolls {z t : Zone} (h : t.stock.rolls = z.stock.rolls) (p : Place) : rollAt t p = rollAt z p := by
  simp only [rollAt, h]

theorem rollAt_laneBroughtIn_pick {e : Env} {l p : Nat} (z : Zone) (hm : laneMode? e l = some .pick) (hn : lanePositions e l ≤ 4)
    (hp : 1 ≤ p) (hle : p ≤ lanePositions e l) : rollAt (laneBroughtIn e l z) (.lane l p) = comparedRoll e l p z := by
  refine (rollAt_of_rolls (laneBroughtIn_rolls.trans (congrArg (fun z : Zone => z.stock.rolls) (if_neg (by simp [hm])))) _).trans ?_
  rw [compareLane, rollAt_comparePositions _ _ (by omega) (by omega), if_pos ⟨hp, hle⟩]
  rfl

theorem rollAt_laneBroughtIn_through {e : Env} {l p : Nat} (z : Zone) (hm : laneMode? e l = some .through)
    (hn : lanePositions e l ≤ 4) (hp : 1 ≤ p) (hle : p ≤ lanePositions e l) :
    rollAt (laneBroughtIn e l z) (.lane l p) = ((upTo (lanePositions e l)).filterMap fun q =>
      rollAt (compareLane e l (modLane l (fun c => { c with overrun := false, underrun := false }) z)) (.lane l q))[p - 1]? :=
  (rollAt_of_rolls (laneBroughtIn_rolls.trans (congrArg (fun z : Zone => z.stock.rolls) (if_pos hm))) _).trans (rollAt_closeUp _ hn hp hle)

theorem laneRec_modLane {l : Nat} {z : Zone} {c : Lane} (f : Lane → Lane) (h : laneRec z l = some c) :
    laneRec (modLane l f z) l = some (f c) := by
  simp only [laneRec, modLane, Tbl.get?_modify, if_true]
  exact congrArg (Option.map f) h

theorem laneRec_laneBroughtIn {e : Env} {l : Nat} {z : Zone} {c : Lane} (hm : laneMode? e l = some .pick)
    (h : laneRec z l = some c) :
    (laneRec (laneBroughtIn e l z) l).map (fun c => (c.inService, c.overrun, c.underrun)) = some (true, false, false) := by
  have hcompared : laneRec (compareLane e l (modLane l (fun c => { c with overrun := false, underrun := false }) z)) l =
      some { c with overrun := false, underrun := false } :=
    (congrArg (Tbl.get? · l) (comparePositions_lanes ..)).trans (laneRec_modLane _ h)
  have hbrought : laneBroughtIn e l z = (laneFound e l (modLane l (fun c => { c with inService := true })
      (compareLane e l (modLane l (fun c => { c with overrun := false, underrun := false }) z)))).push .restock :=
    congrArg (fun z => (laneFound e l (modLane l (fun c => { c with inService := true }) z)).push .restock)
      (if_neg (by simp [hm]))
  have hfound := laneRec_modLane (fun c : Lane => { c with
    full := decide ((heldPositions (modLane l (fun c => { c with inService := true })
      (compareLane e l (modLane l (fun c => { c with overrun := false, underrun := false }) z))) l (lanePositions e l)).length =
        lanePositions e l)
    empty := decide ((heldPositions (modLane l (fun c => { c with inService := true })
      (compareLane e l (modLane l (fun c => { c with overrun := false, underrun := false }) z))) l (lanePositions e l)).length =
        0) }) (laneRec_modLane (fun c => { c with inService := true }) hcompared)
  rw [hbrought]
  exact congrArg (Option.map _) hfound

/-! ### The command -/

theorem exec_laneServiceOut (h : Header) (b : Byte) {s : State} (ht : s.takes h .laneService = true) :
    exec (.laneServiceOut h b) s = .next (s.endFrame h (s.answered h .laneService (laneTakenOut s.env b.toNat s.heard).2
      (refByte b.toNat) (laneTakenOut s.env b.toNat s.heard).1)) :=
  congrArg _ (hearBody_decide .laneService _ _ ht rfl (by simp [bodyKind, Kind.cls]))

theorem exec_laneServiceIn (h : Header) (b : Byte) {s : State} (ht : s.takes h .laneService = true) :
    exec (.laneServiceIn h b) s = .next (s.endFrame h (s.answered h .laneService (laneServed s.env b.toNat s.heard).2
      (refByte b.toNat) (laneServed s.env b.toNat s.heard).1)) :=
  congrArg _ (hearBody_decide .laneService _ _ ht rfl (by simp [bodyKind, Kind.cls]))

theorem laneTakenOut_outside {e : Env} {l : Nat} {z : Zone} (h : laneRec z l = none) :
    laneTakenOut e l z = (z, .refusedRange) := by
  unfold laneTakenOut
  rw [h]

theorem laneTakenOut_already {e : Env} {l : Nat} {z : Zone} {c : Lane} (h : laneRec z l = some c) (hs : c.inService = false) :
    laneTakenOut e l z = (z, .done) := by
  unfold laneTakenOut
  rw [h]
  exact if_neg (by simp [hs])

theorem laneTakenOut_done {e : Env} {l : Nat} {z : Zone} {c : Lane} (h : laneRec z l = some c) (hs : c.inService = true) :
    laneTakenOut e l z = ((cancelForLane e l (modLane l (fun c => { c with inService := false, mismatch := false }) z)).push
      (.withdrawCall (.restock l)), .done) := by
  unfold laneTakenOut
  rw [h]
  exact if_pos hs

theorem laneServed_outside {e : Env} {l : Nat} {z : Zone} (h : laneRec z l = none) : laneServed e l z = (z, .refusedRange) := by
  unfold laneServed
  rw [h]

theorem laneServed_out {e : Env} {l : Nat} {z : Zone} {c : Lane} (h : laneRec z l = some c) (hs : c.inService = false) :
    laneServed e l z = (laneBroughtIn e l z, .done) := by
  unfold laneServed
  rw [h]
  exact if_neg (by simp [hs])

theorem laneServed_in {e : Env} {l : Nat} {z : Zone} {c : Lane} (h : laneRec z l = some c) (hs : c.inService = true) :
    laneServed e l z = (modLane l (fun c => { c with overrun := false, underrun := false }) z, .done) := by
  unfold laneServed
  rw [h]
  exact if_pos hs

theorem cancelForLane_none {e : Env} {l : Nat} {z : Zone}
    (h : ∀ o ∈ allOrders z, touchesLane o l = false ∨ gripsFor z o = true) : cancelForLane e l z = z := by
  have hnil : (allOrders z).filter (fun o => touchesLane o l && !gripsFor z o) = [] :=
    List.filter_eq_nil_iff.mpr fun o ho => by rcases h o ho with h | h <;> simp [h]
  unfold cancelForLane
  rw [hnil, List.foldl_nil]

theorem gripsFor_iff {z : Zone} {o : Order} : gripsFor z o = true ↔ z.transfer.carriage = .running o.number ∧ 4 ≤ o.step := by
  simp [gripsFor, orderRunning, leg2]

theorem touchesLane_iff {o : Order} {l : Nat} : touchesLane o l = true ↔
    (∃ p, o.req.source = .lane l p) ∨ (∃ p, o.req.dest = .place (.lane l p)) ∨ o.req.dest = .lane l ∨
      ∃ p, o.target = some (.lane l p) := by
  have hplace (p : Place) : placeLane p = some l ↔ ∃ q, p = .lane l q := by
    cases p <;> simp [placeLane]
  have hdest : destLane o.req.dest = some l ↔ (∃ p, o.req.dest = .place (.lane l p)) ∨ o.req.dest = .lane l := by
    cases o.req.dest <;> simp [destLane, hplace]
  simp only [touchesLane, Bool.or_eq_true, decide_eq_true_iff, hplace, hdest, Option.bind_eq_some_iff, or_assoc]
  refine or_congr_right (or_congr_right (or_congr_right ?_))
  exact ⟨fun ⟨q, hq, p, hp⟩ => ⟨p, hp ▸ hq⟩, fun ⟨p, hp⟩ => ⟨_, hp, p, rfl⟩⟩

/-- Settles O28: the record of the lane decides the answer, and the roll table of a lane brought in is read position by
position. -/
theorem laneServiceDecided : Obligations.LaneServiceDecided := by
  refine ⟨?_, ?_, ⟨?_, ?_⟩, ?_⟩
  · intro h b s ht e z l with'
    have hout := exec_laneServiceOut h b ht
    have hin := exec_laneServiceIn h b ht
    refine ⟨fun hr => ⟨?_, ?_⟩, fun c hr hs => ⟨?_, ?_⟩, fun c hr hs => ?_⟩
    · rw [hout, laneTakenOut_outside hr]
    · rw [hin, laneServed_outside hr]
    · rw [hout, laneTakenOut_already hr hs]
    · rw [hin, laneServed_out hr hs]
    · intro out
      have hdone : exec (.laneServiceOut h b) s = with' .done ((cancelForLane e l out).push (.withdrawCall (.restock l))) := by
        rw [hout, laneTakenOut_done hr hs]
      refine ⟨hdone, fun hno => ?_, by rw [hin, laneServed_in hr hs]⟩
      rw [hdone, cancelForLane_none (z := out) fun o ho => .inl (hno o ho)]
  · intro e l z c ha hc hm hn
    refine ⟨laneRec_laneBroughtIn hm hc, fun p hp hle hs => ⟨fun hd => ?_, fun hd hr => ?_, fun r hd hr hres => ?_⟩⟩ <;>
      rw [rollAt_laneBroughtIn_pick z hm hn hp hle, comparedRoll, hd]
    · rfl
    · rw [hr]
      rfl
    · rw [hr]
      rfl
  · intro e l p z r hr hd key told
    refine ⟨fun hres => ?_, fun hres => ?_⟩ <;> rw [comparePosition_lost hr hd]
    · rw [release_of_unreserved fun w hw => Option.some.inj (hr.symm.trans hw) ▸ hres]
      rfl
    · rw [release_of_reserved hr hres]
      rfl
  · intro e l p z hn hp hle records
    exact ⟨rollAt_closeUp z hn hp hle, fun hm => rollAt_laneBroughtIn_through z hm hn hp hle⟩
  · intro e l z
    refine ⟨fun h => cancelForLane_none fun o ho => (h o ho).imp_right gripsFor_iff.mpr, fun o h => ?_,
      fun o => touchesLane_iff⟩
    unfold cancelForLane
    rw [h, List.foldl_cons, List.foldl_nil]

end Sys2Proof.Machine

/-! PROOF. FAULT ACK (R183): the end of HALTED (R91) and of SPLICE_FAILED (R148, R149). -/

namespace Sys2Proof.Machine

/-! ### The end of HALTED -/

/-- The zone with the reservation of a record at CARRIAGE released. -/
def carriageFreed (r : Roll) (z : Zone) : Zone :=
  if r.reservation = none then z
  else { z with stock := { z.stock with rolls := z.stock.rolls.set 1024 r.released }, agenda := z.agenda ++ [.restock] }

theorem releaseCarried_eq {z : Zone} {r : Roll} (hr : rollAt z .carriage = some r) : releaseCarried z = carriageFreed r z := by
  by_cases hres : r.reservation = none
  · exact (release_of_unreserved fun w hw => Option.some.inj (hr.symm.trans hw) ▸ hres).trans (if_pos hres).symm
  · exact (release_of_reserved hr hres).trans (if_neg hres).symm

theorem rollAt_carriageFreed_ne {z : Zone} {r : Roll} {p : Place} (hp : p.key ≠ 1024) :
    rollAt (carriageFreed r z) p = rollAt z p := by
  unfold carriageFreed
  split
  · rfl
  · simp [rollAt, Tbl.get?_set, hp]

/-- The record at CARRIAGE carries no reservation any more; it takes its new state where it is put. -/
theorem rollAt_carriageFreed {z : Zone} {r : Roll} (hr : rollAt z .carriage = some r) :
    ∃ y, rollAt (carriageFreed r z) .carriage = some y ∧ y.serial = r.serial ∧ y.reservation = none ∧
      ∀ st, ({ y with state := st } : Roll) = { r with reservation := none, state := st } := by
  unfold carriageFreed
  split
  · rename_i hres
    exact ⟨r, hr, rfl, hres, fun st => by rw [← hres]⟩
  · exact ⟨r.released, by simp [rollAt, Place.key, Tbl.get?_set], rfl, rfl, fun st => rfl⟩

/-- CARRIAGE without its record, the reservation released. -/
def carriageEmptied (r : Roll) (z : Zone) : Zone := eraseRoll .carriage (carriageFreed r z)

/-- The record of CARRIAGE put at a place in a state, without a reservation. -/
def putDown (r : Roll) (p : Place) (st : RollState) (z : Zone) : Zone :=
  setRoll p { r with reservation := none, state := st } (carriageEmptied r z)

theorem key_ne_of_free {z : Zone} {r : Roll} {p : Place} (hr : rollAt z .carriage = some r) (hp : rollAt z p = none) :
    p.key ≠ 1024 := fun h => by
  have : rollAt z p = rollAt z .carriage := congrArg (Tbl.get? z.stock.rolls) h
  rw [hp, hr] at this
  exact absurd this nofun

theorem grippedSerial_eq {z : Zone} {r : Roll} (hr : rollAt z .carriage = some r) : grippedSerial z = r.serial := by
  simp only [grippedSerial, hr, Option.map_some, Option.getD_some]

/-- A move of the record that is expected, into a free place. -/
theorem moveRoll_free {e : Env} {src dst : Place} {z : Zone} {r : Roll} (f : Roll → Roll) (hsrc : rollAt z src = some r)
    (hdst : rollAt z dst = none) : moveRoll e src dst r.serial f z = (setRoll dst (f r) (eraseRoll src z), .moved r.serial) := by
  simp only [moveRoll, hdst, hsrc, if_true]

/-- The record of a halted carriage goes to a free place. -/
theorem moveRoll_gripped {e : Env} {p : Place} {z : Zone} {r : Roll} {f : Roll → Roll} {st : RollState}
    (hr : rollAt z .carriage = some r) (hp : rollAt z p = none)
    (hf : ∀ y : Roll, y.reservation = none → f y = { y with state := st }) :
    (moveRoll e .carriage p (grippedSerial z) f (releaseCarried z)).1 = putDown r p st z := by
  obtain ⟨y, hy, hserial, hres, hstate⟩ := rollAt_carriageFreed hr
  rw [releaseCarried_eq hr, grippedSerial_eq hr, ← hserial,
    moveRoll_free f hy ((rollAt_carriageFreed_ne (key_ne_of_free hr hp)).trans hp), hf y hres, hstate]
  rfl

theorem laneState_unreserved (e : Env) (l : Nat) {r : Roll} (h : r.reservation = none) :
    laneState e l r = if laneRole? e l = some .butt then .butt else .stock := by
  unfold laneState
  split
  · rename_i hb
    exact (if_pos hb).symm
  · rename_i hb
    exact (if_neg (by simp [h])).trans (if_neg hb).symm

theorem dropGripped_eq {e : Env} {z : Zone} {r : Roll} (hr : rollAt z .carriage = some r) :
    dropGripped e z = raise e .mismatch [.place .carriage, .serial r.serial] (carriageEmptied r z) := by
  rw [dropGripped, grippedSerial_eq hr, releaseCarried_eq hr]
  rfl

theorem endHalted_idle {e : Env} {z : Zone} (h : ∀ o, z.transfer.carriage ≠ .halted o) : endHalted e z = z := by
  unfold endHalted
  split
  · rename_i o ho
    exact absurd ho (h o)
  · rfl

theorem endHalted_waits {e : Env} {z : Zone} {o : Order} (h : z.transfer.carriage = .halted o)
    (hd : z.transfer.doneInput = false) : endHalted e z = z := by
  simp only [endHalted, h]
  exact if_neg (by simp [hd])

/-- The zone as HALTED has ended: the carriage IDLE, and GONE to the caller of a SHIP order whose reservation went. -/
def haltEnded (e : Env) (o : Order) (r : Roll) (z : Zone) : Zone := haltedGone e o (some r) (setCarriage .idle z)

theorem endHalted_placed {e : Env} {z : Zone} {o : Order} {r : Roll} (h : z.transfer.carriage = .halted o)
    (hd : z.transfer.doneInput = true) (hr : rollAt z .carriage = some r) :
    endHalted e z = haltEnded e o r (placeGripped e z.transfer.placeInput z) := by
  simp only [endHalted, h]
  refine (if_pos hd).trans ?_
  rw [hr]
  rfl

theorem placeGripped_lane {e : Env} {z : Zone} {r : Roll} {l p : Nat} {c : Lane} (hr : rollAt z .carriage = some r)
    (hc : laneRec z l = some c) (hs : c.inService = true) (hp : 1 ≤ p) (hn : p ≤ lanePositions e l)
    (hfree : rollAt z (.lane l p) = none) : placeGripped e (some (.lane l p)) z =
      laneEntered e l (putDown r (.lane l p) (if laneRole? e l = some .butt then .butt else .stock) z) := by
  refine (if_pos ⟨by simp [hc, hs], hp, hn, by simp [hfree]⟩).trans (congrArg (laneEntered e l) ?_)
  exact moveRoll_gripped hr hfree fun y hy => congrArg (fun st => { y with state := st }) (laneState_unreserved e l rfl)

theorem placeGripped_lane_dropped {e : Env} {z : Zone} {l p : Nat} {c : Lane} (hc : laneRec z l = some c)
    (h : c.inService = false ∨ p = 0 ∨ lanePositions e l < p ∨ rollAt z (.lane l p) ≠ none) :
    placeGripped e (some (.lane l p)) z = dropGripped e z := by
  refine if_neg fun ⟨hs, hp, hn, hfree⟩ => ?_
  rw [hc, Option.any_some] at hs
  rcases h with h | h | h | h
  · simp [h] at hs
  · omega
  · omega
  · exact h (Option.isNone_iff_eq_none.mp hfree)

theorem placeGripped_arm {e : Env} {z : Zone} {r : Roll} {n : Nat} {x : Arm} (hr : rollAt z .carriage = some r)
    (hw : splice? z n ≠ none) (hfree : rollAt z (.arm n x) = none) : placeGripped e (some (.arm n x)) z =
      rollSet e n x false (putDown r (.arm n x) .standby z) :=
  (if_pos ⟨Option.isSome_iff_ne_none.mpr hw, by simp [hfree]⟩).trans
    (congrArg (rollSet e n x false) (moveRoll_gripped hr hfree fun _ _ => rfl))

theorem placeGripped_arm_dropped {e : Env} {z : Zone} {n : Nat} {x : Arm} (h : splice? z n = none ∨ rollAt z (.arm n x) ≠ none) :
    placeGripped e (some (.arm n x)) z = dropGripped e z :=
  if_neg fun ⟨hw, hfree⟩ => h.elim (Option.isSome_iff_ne_none.mp hw) (absurd (Option.isNone_iff_eq_none.mp hfree))

theorem placeGripped_scrap {e : Env} {z : Zone} {r : Roll} {d : Nat} {c : DockCfg} (hr : rollAt z .carriage = some r)
    (hd : e.img.dock? d = some c) (hs : c.role = .scrap) : placeGripped e (some (.dock d)) z = carriageEmptied r z :=
  (if_pos (by simp [hd, hs])).trans (congrArg (eraseRoll .carriage) (releaseCarried_eq hr))

theorem placeGripped_dock_dropped {e : Env} {z : Zone} {d : Nat} {c : DockCfg} (hd : e.img.dock? d = some c)
    (hs : c.role ≠ .scrap) (h : ∀ v ∈ z.track.vehicles, dockedAt e z v.2.number d = false ∨ v.2.loaded = true) :
    placeGripped e (some (.dock d)) z = dropGripped e z := by
  have hnone : z.track.vehicles.find? (fun v => dockedAt e z v.2.number d && !v.2.loaded) = none :=
    List.find?_eq_none.mpr fun v hv => by rcases h v hv with h | h <;> simp [h]
  refine (if_neg (by simp [hd, hs])).trans ?_
  rw [hnone]

theorem loadFromHalt_free {e : Env} {slot : Nat} {v : Vehicle} (ho : v.order = none) (z : Zone) :
    loadFromHalt e slot v z = startVehicle e slot (.returnTo e.own) z := by
  simp only [loadFromHalt, ho]

theorem placeGripped_docked {e : Env} {z : Zone} {r : Roll} {d slot : Nat} {c : DockCfg} {v : Vehicle}
    (hr : rollAt z .carriage = some r) (hd : e.img.dock? d = some c) (hs : c.role ≠ .scrap)
    (hv : z.track.vehicles.find? (fun v => dockedAt e z v.2.number d && !v.2.loaded) = some (slot, v))
    (hfree : rollAt z (.vehicle slot) = none) (ho : v.order = none) : placeGripped e (some (.dock d)) z =
      startVehicle e slot (.returnTo e.own) (putDown r (.vehicle slot) .shipping z) := by
  refine (if_neg (by simp [hd, hs])).trans ?_
  rw [hv]
  exact (if_pos (by simp [hfree])).trans ((loadFromHalt_free ho _).trans
    (congrArg (startVehicle e slot (.returnTo e.own)) (moveRoll_gripped hr hfree fun _ _ => rfl)))

/-! ### The end of SPLICE_FAILED -/

/-- The flags of the failed splice cleared. -/
def spliceCleared (r : Nat) (z : Zone) : Zone := modSplice r (fun s => { s.clearSplice with inhibited := false }) z

theorem splice?_spliceCleared {r : Nat} {z : Zone} {w : Splice} (hw : splice? z r = some w) :
    splice? (spliceCleared r z) r = some { w.clearSplice with inhibited := false } :=
  (splice?_modSplice r _ z).trans (congrArg (Option.map _) hw)

theorem leaveFailed_stays {e : Env} {r : Nat} {z : Zone} {w : Splice} (hw : splice? z r = some w)
    (h : w.state ≠ .spliceFailed ∨ (reelIns e r).webBreak = true) : leaveFailed e r z = z := by
  unfold leaveFailed
  rw [hw]
  exact if_pos h

/-- An arm holds a standby roll. -/
def standsBy (z : Zone) (r : Nat) (x : Arm) : Prop := ∃ y, rollAt z (.arm r x) = some y ∧ y.state = .standby

theorem standsBy_iff {z : Zone} {r : Nat} {x : Arm} :
    ((rollAt z (.arm r x)).any fun y => y.state = .standby) = true ↔ standsBy z r x := by
  rw [Option.any_eq_true]
  simp [standsBy]

section
variable {e : Env} {r : Nat} {z : Zone} {w : Splice} (hw : splice? z r = some w) (hs : w.state = .spliceFailed)
  (hb : (reelIns e r).webBreak = false)
include hw hs hb

theorem leaveFailed_threads {x : Arm} (hx : w.running = some x) (hr : rollAt z (.arm r x) = none) (hy : standsBy z r x.other) :
    leaveFailed e r z = threadRunning e r x.other (spliceCleared r z) := by
  unfold leaveFailed
  rw [hw]
  refine (if_neg (by simp [hs, hb])).trans ((if_neg ?_).trans ((if_pos ⟨by simp [hx], ?_⟩).trans ?_))
  · rw [hx, Option.any_some]
    exact Bool.eq_false_iff.mp (congrArg Option.isSome hr)
  · rw [hx]
    rfl
  · rw [hx]
    exact standsBy_iff.mpr hy

theorem leaveFailed_empties (h : w.running = none ∨ ∃ x, w.running = some x ∧ rollAt z (.arm r x) = none ∧ ¬ standsBy z r x.other) :
    leaveFailed e r z = reportRunningArm e r none
      (modSplice r (fun w => { w with running := none, runoutRaised := false, lateRaised := false })
        (modSplice r (fun w => { w with state := .empty }) (spliceCleared r z))) := by
  have hstate : setSpliceState e r .empty (spliceCleared r z) = modSplice r (fun s => { s with state := .empty }) (spliceCleared r z) :=
    setSpliceState_of_plain (splice?_spliceCleared hw) (.inl (congrArg SpliceState.splicing hs))
  unfold leaveFailed
  rw [hw]
  refine (if_neg (by simp [hs, hb])).trans ((if_neg ?_).trans ((if_neg ?_).trans ?_))
  · rcases h with h | ⟨x, hx, hr, -⟩
    · simp [h]
    · rw [hx, Option.any_some]
      exact Bool.eq_false_iff.mp (congrArg Option.isSome hr)
  · rintro ⟨hrun, hstand⟩
    rcases h with h | ⟨x, hx, -, hno⟩
    · simp [h] at hrun
    · rw [hx] at hstand
      exact hno (standsBy_iff.mp hstand)
  · exact congrArg (fun z => reportRunningArm e r none
      (modSplice r (fun w => { w with running := none, runoutRaised := false, lateRaised := false }) z)) hstate

/-- The running arm with its record RUNNING, in SINGLE, as the runout engine is told. -/
def ackSingle (e : Env) (r : Nat) (x : Arm) (y : Roll) (z : Zone) : Zone :=
  reportRunningArm e r (some x) (modSplice r (fun w => { w with state := .single })
    (setRoll (.arm r x) { y with state := .running } (spliceCleared r z)))

/-- And as the web path is told where the roll was not RUNNING. -/
def ackTold (e : Env) (r : Nat) (x : Arm) (y : Roll) (z : Zone) : Zone :=
  if y.state = .running then ackSingle e r x y z else reportRunningRoll e r y.serial (ackSingle e r x y z)

omit hw hs hb in
theorem ackTold_splice (x : Arm) (y : Roll) : (ackTold e r x y z).splice = (ackSingle e r x y z).splice := by
  unfold ackTold
  split <;> rfl

omit hs hb in
theorem splice?_ackTold (x : Arm) (y : Roll) : ∃ w', splice? (ackTold e r x y z) r = some w' ∧ w'.state = .single := by
  have hstart : splice? (modSplice r (fun w => { w with state := .single })
      (setRoll (.arm r x) { y with state := .running } (spliceCleared r z))) r =
      some { w.clearSplice with inhibited := false, state := .single } :=
    (splice?_modSplice r _ _).trans (congrArg (Option.map _) (splice?_spliceCleared hw))
  obtain ⟨w', hw', hflags⟩ := reportRunningArm_flags e r (some x) _ _ hstart ⟨rfl, by simp⟩
  exact ⟨w', (by rw [splice?, ackTold_splice]; exact hw'), hflags.state⟩

theorem leaveFailed_running {x : Arm} {y : Roll} (hx : w.running = some x) (hy : rollAt z (.arm r x) = some y) :
    leaveFailed e r z =
      if (rollAt z (.arm r x.other)).any (fun x => x.state = .standby) then
        let loaded := setSpliceState e r .loaded (modSplice r (fun s => { s with inhibited := true }) (ackTold e r x y z))
        if (reelIns e r).standbyReady then enterPrepared e r loaded else loaded
      else ackTold e r x y z := by
  have harm : rollAt (spliceCleared r z) (.arm r x) = some y := hy
  have hset := setArmState_of_roll (e := e) harm .running
  have hcleared : splice? (setRoll (.arm r x) { y with state := .running } (spliceCleared r z)) r =
      some { w.clearSplice with inhibited := false } := splice?_spliceCleared hw
  have hstate := setSpliceState_of_plain (e := e) (st := .single) hcleared (.inl (congrArg SpliceState.splicing hs))
  have hsingle : reportRunningArm e r (some x)
      (setSpliceState e r .single (setArmState e r x .running (spliceCleared r z))) = ackSingle e r x y z := by
    rw [hset, hstate]
    rfl
  have hserial : armSerial (ackSingle e r x y z) r x = y.serial := by
    have hroll : rollAt (ackSingle e r x y z) (.arm r x) = some { y with state := .running } :=
      (rollAt_of_stock (reportRunningArm_driven e r (some x) _).2.1 _).trans (rollAt_setRoll_same _ _ _)
    have hread := armSerial_of_roll hroll
    exact hread
  have hwas : ((rollAt z (.arm r x)).any fun x => x.state = .running) = decide (y.state = .running) := by rw [hy]; rfl
  have htold : (if (rollAt z (.arm r x)).any (fun x => x.state = .running) then ackSingle e r x y z
      else reportRunningRoll e r (armSerial (ackSingle e r x y z) r x) (ackSingle e r x y z)) = ackTold e r x y z := by
    rw [hwas, hserial, ackTold]
    simp only [decide_eq_true_eq]
  unfold leaveFailed
  rw [hw]
  refine (if_neg (by simp [hs, hb])).trans ((if_pos ?_).trans ?_)
  · rw [hx, Option.any_some]
    exact congrArg Option.isSome hy
  · rw [← htold, ← hsingle, hx]
    rfl
end

/-! ### The command -/

theorem exec_faultAck (h : Header) {s : State} (ht : s.takes h .faultAck = true) : exec (.faultAck h) s =
    .next (s.endFrame h (s.answered h .faultAck .done 0
      (ackSplices s.env (endHalted s.env { s.heard with faults := ⟨[], none, some s.env.img.level⟩ })))) :=
  congrArg _ (hearBody_decide .faultAck _ _ ht rfl (by simp [bodyKind, Kind.cls]))

theorem ackSplices_left {e : Env} {z t : Zone} (ht : (reelNumbers e).foldl (fun z r => leaveFailed e r z) z = t)
    (h : ∃ x ∈ t.splice.stands, x.2.state = .spliceFailed) : ackSplices e z = t := by
  subst ht
  exact if_pos (by simpa [List.any_eq_true] using h)

theorem ackSplices_ended {e : Env} {z t : Zone} (ht : (reelNumbers e).foldl (fun z r => leaveFailed e r z) z = t)
    (h : ∀ x ∈ t.splice.stands, x.2.state ≠ .spliceFailed) :
    ackSplices e z = { t with splice := { t.splice with pressStop := false } } := by
  subst ht
  exact if_neg (by simpa [List.any_eq_true] using h)

/-- With no reelstand in SPLICE_FAILED the sequencer has nothing to end. -/
theorem leaveFailed_none {e : Env} {z : Zone} (h : ∀ x ∈ z.splice.stands, x.2.state ≠ .spliceFailed) (l : List Nat) :
    l.foldl (fun z r => leaveFailed e r z) z = z := by
  induction l with
  | nil => rfl
  | cons r l ih =>
    have hr : leaveFailed e r z = z := by
      cases hw : splice? z r with
      | none => simp only [leaveFailed, hw]
      | some w => exact leaveFailed_stays hw (.inl (h (r, w) (Tbl.mem_of_get? hw)))
    rw [List.foldl_cons, hr, ih]

/-- Settles O32: where a halted carriage puts its roll, and what each arm makes of a failed splice. -/
theorem faultAckDecided : Obligations.FaultAckDecided := by
  refine ⟨?_, ⟨fun e z => endHalted_idle, fun e z o => endHalted_waits, ?_⟩, ?_, ?_⟩
  · intro h s ht e z t
    refine ⟨exec_faultAck h ht, fun hidle hquiet hsorted => ?_⟩
    have hack : ackSplices e z = { z with splice := { z.splice with pressStop := false } } :=
      ackSplices_ended (leaveFailed_none hquiet _) hquiet
    refine (exec_faultAck h ht).trans ?_
    rw [endHalted_idle hidle]
    exact congrArg (fun z => Host.Outcome.next (s.endFrame h (s.answered h .faultAck .done 0 z))) hack
  · intro e z o r hc hd hr free empty put ended lost
    have hempty : carriageEmptied r z = empty := rfl
    have hput (p : Place) (st : RollState) : putDown r p st z = put p st := rfl
    have hended (z' : Zone) : haltEnded e o r z' = ended z' := by
      cases ho : o.req.origin <;> cases hres : r.reservation <;>
        simp only [haltEnded, haltedGone, ended, ho, hres, Option.bind_some] <;> rfl
    have hplaced {z' : Zone} (h : placeGripped e z.transfer.placeInput z = z') : endHalted e z = ended z' := by
      rw [endHalted_placed hc hd hr, h, hended]
    have hlost : dropGripped e z = lost := dropGripped_eq hr
    refine ⟨fun hp => hplaced ?_, fun l p c hp hl => ⟨fun hs h1 hn hfree => hplaced ?_, fun h => hplaced ?_⟩,
      fun n x hp => ⟨fun hw hfree => hplaced ?_, fun h => hplaced ?_⟩, fun d c hp hdock hscrap => hplaced ?_,
      fun d c hp hdock hscrap => ⟨fun h => hplaced ?_, fun slot v hv hfree ho => hplaced ?_⟩⟩ <;> rw [hp]
    · exact hlost
    · exact placeGripped_lane hr hl hs h1 hn hfree
    · exact (placeGripped_lane_dropped hl h).trans hlost
    · exact placeGripped_arm hr hw hfree
    · exact (placeGripped_arm_dropped h).trans hlost
    · exact placeGripped_scrap hr hdock hscrap
    · exact (placeGripped_dock_dropped hdock hscrap h).trans hlost
    · exact placeGripped_docked hr hdock hscrap hv hfree ho
  · intro e r z w hw
    refine ⟨leaveFailed_stays hw, ?_⟩
    intro hs hb cleared standby
    refine ⟨?_, fun x hx hr hy => ?_, fun h => ?_⟩
    · intro x y hx hy single told loaded
      have htold : ackTold e r x y z = told := rfl
      obtain ⟨w', hw', hstate⟩ := splice?_ackTold (e := e) hw x y
      have hinhibited : splice? (modSplice r (fun s => { s with inhibited := true }) (ackTold e r x y z)) r =
          some { w' with inhibited := true } := (splice?_modSplice r _ _).trans (congrArg (Option.map _) hw')
      have hloaded : setSpliceState e r .loaded (modSplice r (fun s => { s with inhibited := true }) (ackTold e r x y z)) =
          loaded := setSpliceState_of_plain hinhibited (.inl (congrArg SpliceState.splicing hstate))
      have hleave := leaveFailed_running hw hs hb hx hy
      rw [hloaded] at hleave
      refine ⟨fun hno => hleave.trans (if_neg (mt standsBy_iff.mp hno)), fun hyes => ⟨?_, ?_⟩⟩
      · exact (congrArg (Option.map _) hw').trans (congrArg some hstate)
      · exact hleave.trans (if_pos (standsBy_iff.mpr hyes))
    · exact leaveFailed_threads hw hs hb hx hr hy
    · exact leaveFailed_empties hw hs hb h
  · intro e z t
    exact ⟨ackSplices_left rfl, ackSplices_ended rfl⟩

end Sys2Proof.Machine

/-! PROOF. ORDER REQUEST and the requests of the blocks for an order (R73 to R77). -/

namespace Sys2Proof.Machine

/-! ### The operator's request (R77) -/

theorem capacity_eq (e : Env) (q : Queue) : capacity e q = if q = .p then e.img.queueB else 24 - e.img.queueB := by
  cases q <;> rfl

theorem queueFull_iff {e : Env} {z : Zone} {q : Queue} : queueFull e z q = true ↔
    (if q = .p then e.img.queueB else 24 - e.img.queueB) ≤ (ordersOf z q).length := by
  rw [queueFull, decide_eq_true_iff, capacity_eq]

theorem exec_orderRequest (h : Header) (q : Byte) (x : Serial) (a b : PlaceCode) {s : State}
    (ht : s.takes h .orderRequest = true) : exec (.orderRequest h q x a b) s =
      .next (s.endFrame h (s.answered h .orderRequest (orderAsked s.env q x a b s.heard).2.1
        (refByte (orderAsked s.env q x a b s.heard).2.2) (orderAsked s.env q x a b s.heard).1)) :=
  congrArg _ (hearBody_within (b := .orderRequest q x a b) _ ht rfl (by simp [bodyKind, Kind.cls]))

theorem queueOf_none_iff {q : Byte} : queueOf q = none ↔ q ≠ 1 ∧ q ≠ 2 := by
  unfold queueOf
  split
  · rename_i h1
    exact iff_of_false nofun fun hn => hn.1 h1
  · rename_i h1
    split
    · rename_i h2
      exact iff_of_false nofun fun hn => hn.2 h2
    · rename_i h2
      exact iff_of_true rfl ⟨h1, h2⟩

theorem orderAsked_malformed {e : Env} {q : Byte} {x : Serial} {a b : PlaceCode} {z : Zone}
    (h : (q ≠ 1 ∧ q ≠ 2) ∨ a.decode = none ∨ b.decode = none) : orderAsked e q x a b z = (z, .refusedRange, 0) := by
  unfold orderAsked
  split
  · rename_i hq ha hb
    rcases h with h | h | h
    · exact absurd ((queueOf_none_iff.mpr h).symm.trans hq) nofun
    · exact absurd (h.symm.trans ha) nofun
    · exact absurd (h.symm.trans hb) nofun
  · rfl

theorem orderAsked_eq {e : Env} {q : Byte} {x : Serial} {a b : PlaceCode} {k : Queue} {src dst : Place} (z : Zone)
    (hq : queueOf q = some k) (ha : a.decode = some src) (hb : b.decode = some dst) :
    orderAsked e q x a b z = orderRequested e k x src dst z := by
  simp only [orderAsked, hq, ha, hb]

theorem orderRequested_refused {e : Env} {q : Queue} {x : Serial} {src dst : Place} {z : Zone} {r : Result}
    (h : operatorRefusal e z q x src dst = some r) (hr : r ≠ .refusedState ∨ serialOrdered z x = false) :
    orderRequested e q x src dst z = (z, r, 0) := by
  unfold orderRequested
  rw [h]
  by_cases hs : r = .refusedState
  · subst hs
    exact congrArg (fun z : Zone => (z, Result.refusedState, 0)) (if_neg (Bool.eq_false_iff.mp (hr.resolve_left (absurd rfl))))
  · cases r with
    | refusedState => exact absurd rfl hs
    | _ => rfl

theorem orderRequested_ordered {e : Env} {q : Queue} {x : Serial} {src dst : Place} {z : Zone}
    (h : operatorRefusal e z q x src dst = some .refusedState) (hs : serialOrdered z x = true) :
    orderRequested e q x src dst z = (bumpOverrun q z, .refusedState, 0) := by
  unfold orderRequested
  rw [h]
  exact congrArg (fun z : Zone => (z, Result.refusedState, 0)) (if_pos hs)

theorem orderRequested_accepted {e : Env} {q : Queue} {x : Serial} {src dst : Place} {z : Zone}
    (h : operatorRefusal e z q x src dst = none) : orderRequested e q x src dst z =
      ((acceptOrder e (operatorRequest q x src dst) z).1, .done, (acceptOrder e (operatorRequest q x src dst) z).2) := by
  unfold orderRequested
  rw [h]

/-! ### The checks of R77 -/

/-- A place is a lane position. -/
def isLane (p : Place) : Prop := ∃ l k, p = .lane l k

/-- A place is an arm. -/
def isArm (p : Place) : Prop := ∃ r x, p = .arm r x

theorem operatorPlaces_iff {e : Env} {src dst : Place} : operatorPlaces e src dst = true ↔
    e.img.hasPlace src = true ∧ e.img.hasPlace dst = true ∧ src ≠ dst ∧ (isLane src ∨ isArm src) ∧
      (isLane dst ∨ isArm dst ∨ ∃ d c, dst = .dock d ∧ e.img.dock? d = some c ∧ c.role = .scrap) := by
  cases src <;> cases dst <;> simp [operatorPlaces, isLane, isArm, and_assoc, Option.any_eq_true, imp_iff_not_or]

theorem throughLane_iff {e : Env} {p : Place} {l : Nat} :
    throughLane e p = some l ↔ ∃ k, p = .lane l k ∧ laneMode? e l = some .through := by
  cases p with
  | lane m k =>
    by_cases h : laneMode? e m = some .through
    · simp only [throughLane, h, if_true, Option.some.injEq]
      constructor
      · rintro rfl
        exact ⟨k, rfl, h⟩
      · rintro ⟨k', hp, -⟩
        exact (Place.lane.inj hp).1
    · simp only [throughLane, h, if_false]
      refine iff_of_false nofun fun ⟨k', hp, hm⟩ => ?_
      exact h ((Place.lane.inj hp).1 ▸ hm)
  | _ => exact iff_of_false nofun fun ⟨k', hp, _⟩ => nomatch hp

/-- The source of an order is in a THROUGH lane. -/
def fromThrough (e : Env) (src : Place) : Prop := ∃ l k, src = .lane l k ∧ laneMode? e l = some .through

theorem throughLane_isSome {e : Env} {p : Place} : (throughLane e p).isSome = true ↔ fromThrough e p := by
  rw [Option.isSome_iff_exists]
  exact exists_congr fun l => throughLane_iff

theorem throughLane_none {e : Env} {p : Place} : throughLane e p = none ↔ ¬ fromThrough e p := by
  rw [← throughLane_isSome, Bool.not_eq_true, Option.isSome_eq_false_iff, Option.isNone_iff_eq_none]

/-- The serial stands at the source, in a THROUGH lane at any position of it. -/
def standsHere (e : Env) (z : Zone) (x : Serial) (src : Place) : Prop :=
  (fromThrough e src ∧ ∃ l k p r, src = .lane l k ∧ 1 ≤ p ∧ p ≤ lanePositions e l ∧ rollAt z (.lane l p) = some r ∧
    r.serial = x) ∨ (¬ fromThrough e src ∧ ∃ r, rollAt z src = some r ∧ r.serial = x)

theorem rollSerial_iff {o : Option Roll} {x : Serial} :
    (o.any fun r => r.serial = x) = true ↔ ∃ r, o = some r ∧ r.serial = x := by
  cases o <;> simp

theorem standsAtSource_iff {e : Env} {z : Zone} {x : Serial} {src : Place} :
    standsAtSource e z x src = true ↔ standsHere e z x src := by
  cases h : throughLane e src with
  | none =>
    have hno := throughLane_none.mp h
    simp only [standsAtSource, h, rollSerial_iff, standsHere, hno, false_and, false_or, not_false_eq_true, true_and]
  | some l =>
    have hyes := throughLane_isSome.mp (Option.isSome_of_eq_some h)
    obtain ⟨k, rfl, -⟩ := throughLane_iff.mp h
    simp only [standsAtSource, h, List.any_eq_true, mem_upTo, rollSerial_iff, standsHere, hyes, true_and, not_true_eq_false,
      false_and, or_false]
    constructor
    · rintro ⟨p, ⟨h1, h2⟩, r, hr, hx⟩
      exact ⟨l, k, p, r, rfl, h1, h2, hr, hx⟩
    · rintro ⟨l', k', p, r, heq, h1, h2, hr, hx⟩
      obtain ⟨rfl, rfl⟩ := Place.lane.inj heq
      exact ⟨p, ⟨h1, h2⟩, r, hr, hx⟩

/-- The roll that an operator order names. -/
def namedRoll (e : Env) (z : Zone) (x : Serial) (src : Place) (r : Roll) : Prop :=
  (x ≠ 0 ∧ ∃ k, findSerial z x = some (k, r)) ∨ (x = 0 ∧ ¬ fromThrough e src ∧ rollAt z src = some r)

theorem operatorRoll_iff {e : Env} {z : Zone} {x : Serial} {src : Place} {r : Roll} :
    operatorRoll e z x src = some r ↔ namedRoll e z x src r := by
  by_cases hx : x = 0
  · simp only [operatorRoll, namedRoll, hx, ne_eq, not_true_eq_false, if_false, false_and, false_or, true_and]
    by_cases ht : fromThrough e src
    · simp only [throughLane_isSome.mpr ht, if_true, ht, not_true_eq_false, false_and]
      exact iff_of_false nofun id
    · simp only [throughLane_none.mpr ht, Option.isSome_none, Bool.false_eq_true, if_false, ht, not_false_eq_true, true_and]
  · simp only [operatorRoll, namedRoll, hx, ne_eq, not_false_eq_true, if_true, true_and, false_and, or_false,
      Option.map_eq_some_iff, Prod.exists]
    exact ⟨fun ⟨k, r', h, hr⟩ => ⟨k, hr ▸ h⟩, fun ⟨k, h⟩ => ⟨k, r, h, rfl⟩⟩

theorem armSplicing_iff {z : Zone} {p : Place} : armSplicing z p = true ↔
    ∃ r x w, p = .arm r x ∧ z.splice.stands.get? r = some w ∧
      w.state ∈ [SpliceState.accelerating, .matched, .pasting, .cutting] := by
  cases p with
  | arm r x =>
    simp only [armSplicing, Option.any_eq_true, splice?, splicing_iff]
    constructor
    · rintro ⟨w, hw, hs⟩
      exact ⟨r, x, w, rfl, hw, hs⟩
    · rintro ⟨r', x', w, heq, hw, hs⟩
      obtain ⟨rfl, rfl⟩ := Place.arm.inj heq
      exact ⟨w, hw, hs⟩
  | _ => exact iff_of_false nofun fun ⟨r, x, w, h, _⟩ => nomatch h

theorem laneOut_iff {z : Zone} {p : Place} : laneOut z p = true ↔
    ∃ l k c, p = .lane l k ∧ laneRec z l = some c ∧ c.inService = false := by
  cases p with
  | lane l k =>
    simp only [laneOut, placeLane, Option.any_eq_true, Bool.not_eq_true']
    constructor
    · rintro ⟨c, hc, hs⟩
      exact ⟨l, k, c, rfl, hc, hs⟩
    · rintro ⟨l', k', c, heq, hc, hs⟩
      obtain ⟨rfl, rfl⟩ := Place.lane.inj heq
      exact ⟨c, hc, hs⟩
  | _ => exact iff_of_false nofun fun ⟨l, k, c, h, _⟩ => nomatch h

theorem serialOrdered_iff {z : Zone} {x : Serial} :
    serialOrdered z x = true ↔ x ≠ 0 ∧ ∃ o ∈ z.transfer.ordersP ++ z.transfer.ordersO, o.serial = x := by
  simp only [serialOrdered, Bool.and_eq_true, decide_eq_true_iff, List.any_eq_true, allOrders]

/-- The roll of the request is known. -/
def requestKnown (e : Env) (z : Zone) (x : Serial) (src : Place) : Prop :=
  (x ≠ 0 ∧ findSerial z x ≠ none) ∨ (x = 0 ∧ (fromThrough e src ∨ ∃ r, rollAt z src = some r ∧ r.serial = 0))

/-- The state of roll, arm, lanes or orders forbids the request. -/
def requestBarred (e : Env) (z : Zone) (x : Serial) (src dst : Place) : Prop :=
  (x ≠ 0 ∧ ¬ standsHere e z x src) ∨ (∃ r, namedRoll e z x src r ∧ (r.reservation ≠ none ∨ r.state = .running)) ∨
    (∃ r x w, src = .arm r x ∧ z.splice.stands.get? r = some w ∧
      w.state ∈ [SpliceState.accelerating, .matched, .pasting, .cutting]) ∨
    (∃ l k c, src = .lane l k ∧ laneRec z l = some c ∧ c.inService = false) ∨
    (∃ l k c, dst = .lane l k ∧ laneRec z l = some c ∧ c.inService = false) ∨
    (x ≠ 0 ∧ ∃ o ∈ z.transfer.ordersP ++ z.transfer.ordersO, o.serial = x)

theorem requestKnown_iff {e : Env} {z : Zone} {x : Serial} {src : Place} : requestKnown e z x src ↔
    ¬ (x ≠ 0 ∧ (findSerial z x).isNone = true) ∧
    ¬ (x = 0 ∧ (throughLane e src).isNone = true ∧ (!(rollAt z src).any (fun r => r.serial = 0)) = true) := by
  simp only [requestKnown, Option.isNone_iff_eq_none, throughLane_none, Bool.not_eq_true', ← Bool.not_eq_true, rollSerial_iff]
  by_cases hx : x = 0
  · simp only [hx, ne_eq, not_true_eq_false, false_and, false_or, not_false_eq_true, true_and, not_and_or, not_not]
  · simp only [hx, ne_eq, not_false_eq_true, true_and, false_and, or_false, and_true]

theorem requestBarred_iff {e : Env} {z : Zone} {x : Serial} {src dst : Place} : requestBarred e z x src dst ↔
    ((x ≠ 0 ∧ (!standsAtSource e z x src) = true) ∨
      (operatorRoll e z x src).any (fun r => r.reservation.isSome || r.state = .running) = true ∨
      armSplicing z src = true ∨ laneOut z src = true ∨ laneOut z dst = true ∨ serialOrdered z x = true) := by
  simp only [requestBarred, armSplicing_iff, laneOut_iff, serialOrdered_iff, Bool.not_eq_true', ← Bool.not_eq_true,
    standsAtSource_iff, Option.any_eq_true, operatorRoll_iff, Bool.or_eq_true, Option.isSome_iff_ne_none, decide_eq_true_iff]

section
variable {e : Env} {z : Zone} {q : Queue} {x : Serial} {src dst : Place}

theorem refusal_range (h : operatorPlaces e src dst = false) : operatorRefusal e z q x src dst = some .refusedRange :=
  if_pos (by simp [h])

theorem refusal_unknown (hp : operatorPlaces e src dst = true) (hk : ¬ requestKnown e z x src) :
    operatorRefusal e z q x src dst = some .unknownRoll := by
  refine (if_neg (by simp [hp])).trans ?_
  by_cases h : x ≠ 0 ∧ (findSerial z x).isNone = true
  · exact if_pos h
  · refine (if_neg h).trans (if_pos ?_)
    by_contra h'
    exact hk (requestKnown_iff.mpr ⟨h, h'⟩)

theorem refusal_barred (hp : operatorPlaces e src dst = true) (hk : requestKnown e z x src) (hb : requestBarred e z x src dst) :
    operatorRefusal e z q x src dst = some .refusedState :=
  (if_neg (by simp [hp])).trans ((if_neg (requestKnown_iff.mp hk).1).trans ((if_neg (requestKnown_iff.mp hk).2).trans
    (if_pos (requestBarred_iff.mp hb))))

theorem refusal_room (hp : operatorPlaces e src dst = true) (hk : requestKnown e z x src) (hb : ¬ requestBarred e z x src dst) :
    operatorRefusal e z q x src dst = if queueFull e z q then some .refusedFull else none :=
  (if_neg (by simp [hp])).trans ((if_neg (requestKnown_iff.mp hk).1).trans ((if_neg (requestKnown_iff.mp hk).2).trans
    (if_neg (mt requestBarred_iff.mpr hb))))

/-- Only a full queue gives REFUSED_FULL. -/
theorem queueFull_of_refused (h : operatorRefusal e z q x src dst = some .refusedFull) : queueFull e z q = true := by
  cases hp : operatorPlaces e src dst with
  | false => exact absurd ((refusal_range hp).symm.trans h) nofun
  | true =>
    by_cases hk : requestKnown e z x src
    · by_cases hb : requestBarred e z x src dst
      · exact absurd ((refusal_barred hp hk hb).symm.trans h) nofun
      · by_contra hf
        exact absurd (((refusal_room hp hk hb).trans (if_neg hf)).symm.trans h) nofun
    · exact absurd ((refusal_unknown hp hk).symm.trans h) nofun
end

/-! ### The acceptance of a request (R74, R75, R76) -/

/-- The order that a request becomes, as it is entered. -/
def orderOf (e : Env) (r : OrderReq) (z : Zone) : Order :=
  { number := nextNumber ((allOrders z).map (·.number)) z.transfer.nextNumber, req := r, serial := r.serial,
    vehicle := r.vehicle, target := none, state := .waitingTrigger, step := 0, stepStart := e.now, holding := false,
    overrunRaised := false, accepted := z.transfer.accepted }

/-- The zone with an order at the tail of its queue, READY or waiting for its trigger. -/
def orderEntered (e : Env) (r : OrderReq) (z : Zone) : Zone :=
  setOrders r.queue
    (ordersOf z r.queue ++ [{ orderOf e r z with
      state := if triggerHolds e z (orderOf e r z) then .ready else .waitingTrigger }])
    { z with transfer := { z.transfer with
      nextNumber := nextNumber ((allOrders z).map (·.number)) z.transfer.nextNumber % 255 + 1
      accepted := z.transfer.accepted + 1 } }

theorem ordersOf_of_lists {z t : Zone} (q : Queue) (hp : t.transfer.ordersP = z.transfer.ordersP)
    (ho : t.transfer.ordersO = z.transfer.ordersO) : ordersOf t q = ordersOf z q := by
  cases q
  · exact hp
  · exact ho

theorem acceptOrder_eq (e : Env) (r : OrderReq) (z : Zone) : (acceptOrder e r z).1 =
    if (fixButt e r).dockTrigger.isSome && (fixButt e r).vehicle.isNone &&
        ((fixButt e r).origin = .ship || (fixButt e r).origin = .buttClear) then
      (orderEntered e (fixButt e r) z).push
        (.assignVehicle (nextNumber ((allOrders z).map (·.number)) z.transfer.nextNumber))
    else orderEntered e (fixButt e r) z := by
  have hkept (t : Zone) (hp : t.transfer.ordersP = z.transfer.ordersP) (ho : t.transfer.ordersO = z.transfer.ordersO) :
      ordersOf t (fixButt e r).queue = ordersOf z (fixButt e r).queue := ordersOf_of_lists _ hp ho
  simp only [acceptOrder, hkept]
  rfl

/-- Only the destination and the dock trigger of a request are fixed as it is accepted. -/
theorem fixButt_eq (e : Env) (r : OrderReq) :
    fixButt e r = { r with dest := (fixButt e r).dest, dockTrigger := (fixButt e r).dockTrigger } := by
  unfold fixButt
  split
  · split
    · split
      · rfl
      · split <;> rfl
    · split <;> rfl
  · rfl

theorem fixButt_other {e : Env} {r : OrderReq} (h : r.origin ≠ .buttClear) : fixButt e r = r := if_neg h

theorem fixButt_returned {e : Env} {r : OrderReq} {k : Nat} (h : r.origin = .buttClear) (hd : e.img.loadingDock = some k)
    (hr : e.img.buttReturn ≠ 0) : fixButt e r = { r with dest := .place (.dock k), dockTrigger := some k } := by
  refine (if_pos h).trans ?_
  rw [hd]
  exact if_pos hr

theorem fixButt_stored {e : Env} {r : OrderReq} (h : r.origin = .buttClear) (hd : e.img.loadingDock = none ∨ e.img.buttReturn = 0) :
    fixButt e r = if e.img.lanes.any (fun l => l.role = .butt) then { r with dest := .anyButt, dockTrigger := none }
      else { r with dest := .place (.dock ((scrapDock e.img).getD 0)), dockTrigger := none } := by
  refine (if_pos h).trans ?_
  cases hl : e.img.loadingDock with
  | none => rfl
  | some k => exact if_neg (not_not_intro (hd.resolve_left (by simp [hl])))

/-! ### The requests of the blocks -/

/-- The zone with a queue's list of held requests. -/
def heldSet (q : Queue) (l : List OrderReq) (z : Zone) : Zone :=
  { z with transfer := if q = .p then { z.transfer with heldP := l } else { z.transfer with heldO := l } }

theorem setHeld_eq (q : Queue) (l : List OrderReq) (z : Zone) : setHeld q l z = heldSet q l z := by cases q <;> rfl

theorem requestOrder_ordered {e : Env} {r : OrderReq} {z : Zone} (h : serialOrdered z r.serial = true) :
    requestOrder e r z = requestDropped e r (bumpOverrun r.queue z) := if_pos h

theorem requestOrder_held {e : Env} {r : OrderReq} {z : Zone} (h : serialOrdered z r.serial = false)
    (hf : queueFull e z r.queue = true) (hl : (heldOf z r.queue).length < 32) :
    requestOrder e r z = heldSet r.queue (heldOf z r.queue ++ [r]) z :=
  (if_neg (Bool.eq_false_iff.mp h)).trans ((if_pos hf).trans ((if_pos hl).trans (setHeld_eq ..)))

theorem requestOrder_dropped {e : Env} {r : OrderReq} {z : Zone} (h : serialOrdered z r.serial = false)
    (hf : queueFull e z r.queue = true) (hl : 32 ≤ (heldOf z r.queue).length) : requestOrder e r z = requestDropped e r z :=
  (if_neg (Bool.eq_false_iff.mp h)).trans ((if_pos hf).trans (if_neg (Nat.not_lt.mpr hl)))

theorem requestOrder_accepted {e : Env} {r : OrderReq} {z : Zone} (h : serialOrdered z r.serial = false)
    (hf : queueFull e z r.queue = false) : requestOrder e r z = (acceptOrder e r z).1 :=
  (if_neg (Bool.eq_false_iff.mp h)).trans (if_neg (Bool.eq_false_iff.mp hf))

theorem invite_next {e : Env} {q : Queue} {z : Zone} {first : OrderReq} {rest : List OrderReq}
    (h : heldOf z q = first :: rest) : invite e q z = requestOrder e first (heldSet q rest z) := by
  unfold invite
  rw [h, ← setHeld_eq]

theorem invite_none {e : Env} {q : Queue} {z : Zone} (h : heldOf z q = []) : invite e q z = z := by
  unfold invite
  rw [h]

/-! ### A request that is dropped -/

theorem requestDropped_plain {e : Env} {r : OrderReq} {z : Zone} (h : r.origin = .buttClear ∨ r.origin = .operator) :
    requestDropped e r z = z := by
  unfold requestDropped
  rcases h with h | h <;> rw [h]

/-- The vehicle of an unloading request is looked at again 300 ds later. -/
def vehicleRetried (e : Env) (r : OrderReq) (z : Zone) : Zone :=
  match r.vehicle with
  | some v => { z with supply := { z.supply with retries := z.supply.retries.set v (e.now + 300) } }
  | none => z

theorem requestDropped_unloading {e : Env} {r : OrderReq} {z : Zone} {ref : CallRef} (h : r.origin = .callLoad ∨ r.origin = .receive)
    (hr : r.callRef = some ref) : requestDropped e r z = vehicleRetried e r (z.push (.loadFailed ref.call 0 r.serial)) := by
  cases hv : r.vehicle <;> rcases h with h | h <;> simp only [requestDropped, vehicleRetried, h, hr, hv] <;> rfl

theorem requestDropped_uncalled {e : Env} {r : OrderReq} {z : Zone} (h : r.origin = .callLoad ∨ r.origin = .receive)
    (hr : r.callRef = none) : requestDropped e r z = vehicleRetried e r z := by
  cases hv : r.vehicle <;> rcases h with h | h <;> simp only [requestDropped, vehicleRetried, h, hr, hv] <;> rfl

theorem requestDropped_uncalled_other {e : Env} {r : OrderReq} {z : Zone} (h : ¬ (r.origin = .callLoad ∨ r.origin = .receive))
    (hr : r.callRef = none) : requestDropped e r z = z := by
  unfold requestDropped
  split
  · simp only [hr]
  · simp only [hr]
  · exact absurd (.inl ‹_›) h
  · exact absurd (.inr ‹_›) h
  · rfl

theorem requestDropped_ship {e : Env} {r : OrderReq} {z : Zone} {ref : CallRef} (h : r.origin = .ship) (hr : r.callRef = some ref) :
    requestDropped e r z = endShipReservation e ref z := by
  simp only [requestDropped, h, hr]

theorem requestDropped_local {e : Env} {r : OrderReq} {z : Zone} {ref : CallRef} {k : Nat} (h : r.origin = .localLoad)
    (hr : r.callRef = some ref) (hk : reservationKey z ref.station ref.call = some k) :
    requestDropped e r z = (release k z).push (.loadFailed ref.call 0 r.serial) := by
  simp only [requestDropped, h, hr, hk]

theorem requestDropped_local_free {e : Env} {r : OrderReq} {z : Zone} {ref : CallRef} (h : r.origin = .localLoad)
    (hr : r.callRef = some ref) (hk : reservationKey z ref.station ref.call = none) :
    requestDropped e r z = z.push (.loadFailed ref.call 0 r.serial) := by
  simp only [requestDropped, h, hr, hk]

theorem endShipReservation_none {e : Env} {ref : CallRef} {z : Zone} (h : reservationKey z ref.station ref.call = none) :
    endShipReservation e ref z = z := by
  simp only [endShipReservation, h]

theorem endShipReservation_gone {e : Env} {ref : CallRef} {z : Zone} {k : Nat} {x : Roll}
    (h : reservationKey z ref.station ref.call = some k) (hx : z.stock.rolls.get? k = some x) :
    endShipReservation e ref z = offer e ⟨ref.station, .takeAnswer (byte ref.call) x.serial 2⟩ (release k z) := by
  simp only [endShipReservation, h, hx]
  rfl

/-- Settles O27: the request by its fields and the first check that fails, and a block's request by serial, room and held
list. -/
theorem orderRequestsDecided : Obligations.OrderRequestsDecided := by
  refine ⟨?_, ?_, ?_, ?_⟩
  · intro h q x a b s ht e z t with'
    have hasked {z' : Zone} {r : Result} {n : Nat} (hd : orderAsked s.env q x a b s.heard = (z', r, n)) : t = with' r n z' :=
      (exec_orderRequest h q x a b ht).trans (by rw [hd])
    refine ⟨fun hbad => hasked (orderAsked_malformed hbad), fun k src dst hq ha hb => ?_⟩
    have hwith {z' : Zone} {r : Result} {n : Nat} (hd : orderRequested e k x src dst z = (z', r, n)) : t = with' r n z' :=
      hasked ((orderAsked_eq _ hq ha hb).trans hd)
    have hfound (h : findSerial z x ≠ none) (hx : x ≠ 0) : requestKnown e z x src := .inl ⟨hx, h⟩
    refine ⟨fun hp => hwith (orderRequested_refused (refusal_range hp) (.inl nofun)), fun hp hx hn => hwith ?_,
      fun hp hx hn ho => hwith ?_, fun r hr ho => hwith (orderRequested_refused hr ho),
      fun hr => queueFull_iff.mp (queueFull_of_refused hr), fun hr => ?_⟩
    · refine orderRequested_refused (refusal_unknown hp fun hk => ?_) (.inl nofun)
      exact hk.elim (fun hk => hk.2 hn) fun hk => hx hk.1
    · refine orderRequested_ordered (refusal_barred hp (hfound hn hx) ?_) ho
      exact requestBarred_iff.mpr (.inr (.inr (.inr (.inr (.inr ho)))))
    · intro n o
      refine hwith ((orderRequested_accepted hr).trans ?_)
      refine congrArg (fun z => (z, Result.done, n)) ((acceptOrder_eq e (operatorRequest k x src dst) z).trans ?_)
      rw [fixButt_other (r := operatorRequest k x src dst) nofun]
      rfl
  · intro e r z capacity held ordered kept
    have hordered : serialOrdered z r.serial = true ↔ ordered := serialOrdered_iff
    have hfull : queueFull e z r.queue = true ↔ capacity ≤ (ordersOf z r.queue).length := queueFull_iff
    have hfree (h : ¬ ordered) : serialOrdered z r.serial = false := Bool.eq_false_iff.mpr (mt hordered.mp h)
    refine ⟨fun h => requestOrder_ordered (hordered.mpr h), fun h hf => ⟨requestOrder_held (hfree h) (hfull.mpr hf),
      requestOrder_dropped (hfree h) (hfull.mpr hf)⟩, fun h hf => ?_, fun first rest => invite_next, invite_none⟩
    refine ⟨(fixButt e r).dest, (fixButt e r).dockTrigger, ?_, fun ho => ?_, fun ho => ⟨fun k hd hr => ?_, fun hd => ⟨?_, ?_⟩⟩⟩
    · have hnot : queueFull e z r.queue = false := Bool.eq_false_iff.mpr (mt hfull.mp (Nat.not_le.mpr hf))
      refine (requestOrder_accepted (hfree h) hnot).trans ((acceptOrder_eq e r z).trans ?_)
      rw [fixButt_eq e r]
      refine if_congr ?_ rfl rfl
      simp only [Bool.and_eq_true, Option.isSome_iff_ne_none, Option.isNone_iff_eq_none, Bool.or_eq_true, decide_eq_true_iff,
        and_assoc]
    · rw [fixButt_other ho]
      exact ⟨rfl, rfl⟩
    · rw [fixButt_returned ho hd hr]
      exact ⟨rfl, rfl⟩
    · intro hb
      rw [fixButt_stored ho hd, if_pos (by simpa [List.any_eq_true] using hb)]
      exact ⟨rfl, rfl⟩
    · intro hb k hk
      rw [fixButt_stored ho hd, if_neg (by simpa [List.any_eq_true] using hb), scrapDock, hk]
      exact ⟨rfl, rfl⟩
  · intro e z q x src dst lane arm range through known here roll out barred full
    have hrange : operatorPlaces e src dst = true ↔ range := operatorPlaces_iff
    have hfull : queueFull e z q = true ↔ full := queueFull_iff
    refine ⟨hrange, fun h => refusal_range (Bool.eq_false_iff.mpr (mt hrange.mp h)),
      fun h hk => refusal_unknown (hrange.mpr h) hk, fun h hk hb => refusal_barred (hrange.mpr h) hk hb,
      fun h hk hb hf => ?_, fun h hk hb hf => ?_⟩
    · exact (refusal_room (hrange.mpr h) hk hb).trans (if_pos (hfull.mpr hf))
    · exact (refusal_room (hrange.mpr h) hk hb).trans (if_neg (mt hfull.mp hf))
  · intro e r z again
    have hagain (z' : Zone) : vehicleRetried e r z' = again z' := rfl
    refine ⟨fun hr => ?_, requestDropped_plain, fun ref hr => ?_⟩
    · by_cases ho : r.origin = .callLoad ∨ r.origin = .receive
      · exact (requestDropped_uncalled ho hr).trans ((hagain z).trans (if_pos ho).symm)
      · exact (requestDropped_uncalled_other ho hr).trans (if_neg ho).symm
    · intro told
      refine ⟨fun ho => (requestDropped_unloading ho hr).trans (hagain _), fun hk => ⟨fun ho => ?_, fun ho => ?_⟩, ?_⟩
      · exact (requestDropped_ship ho hr).trans (endShipReservation_none hk)
      · exact requestDropped_local_free ho hr hk
      · intro k x hk hx hres freed
        have hfreed : release k z = freed := release_of_reserved hx hres
        refine ⟨fun ho => ?_, fun ho => ?_⟩
        · rw [requestDropped_local ho hr hk, hfreed]
          rfl
        · rw [requestDropped_ship ho hr, endShipReservation_gone hk hx, hfreed]

end Sys2Proof.Machine

/-! PROOF. The clearing of a segment, and who gets a segment that has become FREE (R25, R27, R29, R32). -/

namespace Sys2Proof.Machine

/-! ### Segments -/

theorem seg?_modSeg_same {k : Nat} {z : Zone} {x : Segment} (f : Segment → Segment) (h : seg? z k = some x) :
    seg? (modSeg k f z) k = some (f x) := by
  simp only [seg?, modSeg, Tbl.get?_modify, if_true]
  exact congrArg (Option.map f) h

theorem modSeg_congr {k : Nat} {f g : Segment → Segment} {z : Zone} {x : Segment} (h : seg? z k = some x) (hfg : f x = g x) :
    modSeg k f z = modSeg k g z :=
  congrArg (fun t => ({ z with track := { z.track with segments := t } } : Zone))
    (Tbl.modify_congr _ _ _ _ fun _ hw => Option.some.inj (h.symm.trans hw) ▸ hfg)

theorem modVehicle_congr {slot : Nat} {f g : Vehicle → Vehicle} {z : Zone} {v : Vehicle} (h : vehicle? z slot = some v)
    (hfg : f v = g v) : modVehicle slot f z = modVehicle slot g z :=
  congrArg (fun t => ({ z with track := { z.track with vehicles := t } } : Zone))
    (Tbl.modify_congr _ _ _ _ fun _ hw => Option.some.inj (h.symm.trans hw) ▸ hfg)

/-! ### A segment is handed on (R29) -/

theorem grantFirst_none {e : Env} {k : Nat} {z : Zone} (h : ∀ x, seg? z k = some x → x.wait = []) : grantFirst e k z = z := by
  have hnone : (seg? z k).bind (·.wait.head?) = none := by
    cases hx : seg? z k with
    | none => rfl
    | some x => simp [h x hx]
  simp only [grantFirst, hnone]

theorem grantFirst_some {e : Env} {k n slot : Nat} {rest : List Nat} {z : Zone} {x : Segment} {v : Vehicle} (hx : seg? z k = some x)
    (hw : x.wait = n :: rest) (hv : findVehicle z n = some (slot, v)) :
    grantFirst e k z = askAgain e k (grant e slot k (modSeg k (fun x => { x with wait := rest }) z)) := by
  have hhead : (seg? z k).bind (·.wait.head?) = some n := by simp [hx, hw]
  have htail : modSeg k (fun s => { s with wait := s.wait.tail }) z = modSeg k (fun x => { x with wait := rest }) z :=
    modSeg_congr hx (by simp [hw])
  have hv' : findVehicle (modSeg k (fun x => { x with wait := rest }) z) n = some (slot, v) := hv
  simp only [grantFirst, hhead, htail, hv']

theorem handOn_unclaimed {e : Env} {k : Nat} {z : Zone} (h : deferredFor z k = none) : handOn e k z = grantFirst e k z := by
  simp only [handOn, h]

/-- The claim of the first vehicle of a segment's wait list. -/
def firstClaim (z : Zone) (k : Nat) : Option Nat :=
  (((seg? z k).bind (·.wait.head?)).bind (findVehicle z)).map fun x => x.2.claim

theorem handOn_eq {e : Env} {k : Nat} {z : Zone} {o : PassOffer} (h : deferredFor z k = some o) : handOn e k z =
    if (firstClaim z k).any (fun c => c < o.claim) then grantFirst e k z
    else
      match freeVehicleSlot z, findVehicle z o.number with
      | some slot, none => takeDeferred e slot o z
      | _, _ => grantFirst e k z := by
  simp only [handOn, h]
  rfl

theorem handOn_first {e : Env} {k : Nat} {z : Zone} (h : deferredFor z k = none ∨
    (∃ o, deferredFor z k = some o ∧ (firstClaim z k).any (fun c => c < o.claim) = true) ∨ freeVehicleSlot z = none ∨
      ∃ o, deferredFor z k = some o ∧ findVehicle z o.number ≠ none) : handOn e k z = grantFirst e k z := by
  cases hd : deferredFor z k with
  | none => exact handOn_unclaimed hd
  | some o =>
    rw [handOn_eq hd]
    by_cases hc : (firstClaim z k).any (fun c => c < o.claim) = true
    · exact if_pos hc
    · refine (if_neg hc).trans ?_
      rw [hd] at h
      rcases h with h | ⟨o', ho, h⟩ | h | ⟨o', ho, h⟩
      · exact absurd h nofun
      · exact absurd (Option.some.inj ho ▸ h) hc
      · simp only [h]
      · obtain ⟨x, hx⟩ := Option.ne_none_iff_exists'.mp (Option.some.inj ho ▸ h)
        cases freeVehicleSlot z <;> simp only [hx]

theorem handOn_deferred {e : Env} {k slot : Nat} {z : Zone} {o : PassOffer} (hd : deferredFor z k = some o)
    (hc : (firstClaim z k).any (fun c => c < o.claim) = false) (hs : freeVehicleSlot z = some slot)
    (hn : findVehicle z o.number = none) : handOn e k z = takeDeferred e slot o z := by
  rw [handOn_eq hd]
  refine (if_neg (Bool.eq_false_iff.mp hc)).trans ?_
  simp only [hs, hn]

/-- The segment as it has become FREE, before it is handed on. -/
def segFreed (k : Nat) (z : Zone) : Zone := modSeg k (fun x => { x with state := .free, permit := false }) z

theorem freeSegment_unclaimed {e : Env} {k : Nat} {z : Zone} (hd : deferredFor z k = none)
    (hw : ∀ x, seg? z k = some x → x.wait = []) : freeSegment e k z = segFreed k z := by
  refine (handOn_unclaimed (z := segFreed k z) hd).trans (grantFirst_none fun x hx => ?_)
  cases hz : seg? z k with
  | none =>
    have : seg? (segFreed k z) k = none := by
      simp only [segFreed, seg?, modSeg, Tbl.get?_modify, if_true]
      exact congrArg (Option.map _) hz
    exact absurd (this.symm.trans hx) nofun
  | some y =>
    obtain rfl := Option.some.inj ((seg?_modSeg_same (fun x => { x with state := .free, permit := false }) hz).symm.trans hx)
    exact hw y hz

/-! ### Vehicles that ask again (R27) -/

theorem proceed_stays {e : Env} {slot : Nat} {z : Zone} {v : Vehicle} (hv : vehicle? z slot = some v) (h1 : v.state ≠ .moving)
    (h2 : v.state ≠ .held) : proceed e slot z = z := by
  unfold proceed
  rw [hv]
  exact if_neg (not_or.mpr ⟨h1, h2⟩)

theorem proceed_granted {e : Env} {slot : Nat} {z : Zone} {v : Vehicle} (hv : vehicle? z slot = some v)
    (hs : v.state = .moving ∨ v.state = .held) (hg : v.granted ≠ none) : proceed e slot z = z := by
  unfold proceed
  rw [hv]
  exact (if_pos hs).trans (if_pos (Option.isSome_iff_ne_none.mpr hg))

theorem proceed_trailing {e : Env} {slot : Nat} {z : Zone} {v : Vehicle} (hv : vehicle? z slot = some v)
    (hs : v.state = .moving ∨ v.state = .held) (hg : v.granted = none) (ht : v.trailing ≠ none) :
    proceed e slot z = modVehicle slot (fun v => { v with state := .held }) z := by
  unfold proceed
  rw [hv]
  exact (if_pos hs).trans ((if_neg (by simp [hg])).trans (if_pos (Option.isSome_iff_ne_none.mpr ht)))

theorem proceed_asks {e : Env} {slot k : Nat} {rest : List Nat} {z : Zone} {v : Vehicle} (hv : vehicle? z slot = some v)
    (hs : v.state = .moving ∨ v.state = .held) (hg : v.granted = none) (ht : v.trailing = none) (hr : v.route = k :: rest) :
    proceed e slot z = ask e slot z := by
  unfold proceed
  simp only [hv, if_pos hs, hg, ht, hr, Option.isSome_none, Bool.false_eq_true, if_false]

theorem ask_idle {e : Env} {slot : Nat} {z : Zone} {v : Vehicle} (hv : vehicle? z slot = some v) (hm : mayAsk z v = false) :
    ask e slot z = z := by
  unfold ask
  rw [hv]
  cases hr : v.route with
  | nil => simp only [hr]
  | cons k rest =>
    simp only [hr]
    exact if_neg (Bool.eq_false_iff.mp hm)

theorem mayAsk_iff {z : Zone} {v : Vehicle} : mayAsk z v = true ↔
    (v.state = .moving ∨ v.state = .held) ∧ v.granted = none ∧ v.trailing = none ∧ inWaitList z v.number = false := by
  simp [mayAsk, and_assoc]

/-- A vehicle asks again just where it is free to go on. -/
theorem asks_again (e : Env) (k slot : Nat) (z : Zone) :
    (if (vehicle? z slot).any (fun v => v.route.head? = some k) then ask e slot z else z) =
      if (vehicle? z slot).any fun v => v.route.head? = some k && (v.state = .moving || v.state = .held) && v.granted.isNone &&
        v.trailing.isNone then proceed e slot z else z := by
  cases hv : vehicle? z slot with
  | none => rfl
  | some v =>
    simp only [Option.any_some, Bool.and_eq_true, Bool.or_eq_true, decide_eq_true_iff, Option.isNone_iff_eq_none]
    by_cases hk : v.route.head? = some k
    · obtain ⟨rest, hr⟩ : ∃ rest, v.route = k :: rest := by
        cases hr : v.route with
        | nil => simp [hr] at hk
        | cons j rest => exact ⟨rest, by simp [hr] at hk; rw [hk]⟩
      by_cases h : (v.state = .moving ∨ v.state = .held) ∧ v.granted = none ∧ v.trailing = none
      · rw [if_pos hk, if_pos ⟨⟨⟨hk, h.1⟩, h.2.1⟩, h.2.2⟩, proceed_asks hv h.1 h.2.1 h.2.2 hr]
      · rw [if_pos hk, if_neg fun hn => h ⟨hn.1.1.2, hn.1.2, hn.2⟩]
        refine ask_idle hv (Bool.eq_false_iff.mpr fun hm => h ?_)
        obtain ⟨hs, hg, ht, -⟩ := mayAsk_iff.mp hm
        exact ⟨hs, hg, ht⟩
    · rw [if_neg hk, if_neg fun hn => hk hn.1.1.1]

theorem askAgain_eq (e : Env) (k : Nat) (z : Zone) : askAgain e k z = (z.track.vehicles.map (·.1)).foldl (fun z slot =>
    if (vehicle? z slot).any fun v => v.route.head? = some k && (v.state = .moving || v.state = .held) && v.granted.isNone &&
      v.trailing.isNone then proceed e slot z else z) z := by
  unfold askAgain
  congr 1
  funext z slot
  exact asks_again e k slot z

theorem askAgain_none {e : Env} {k : Nat} {z : Zone}
    (h : ∀ x ∈ z.track.vehicles, ∀ v, vehicle? z x.1 = some v → v.route.head? ≠ some k) : askAgain e k z = z := by
  have hfold (l : List Nat) (hl : ∀ slot ∈ l, ∀ v, vehicle? z slot = some v → v.route.head? ≠ some k) :
      l.foldl (fun z slot => if (vehicle? z slot).any (fun v => v.route.head? = some k) then ask e slot z else z) z = z := by
    induction l with
    | nil => rfl
    | cons slot l ih =>
      have hstep : (if (vehicle? z slot).any (fun v => v.route.head? = some k) then ask e slot z else z) = z := by
        refine if_neg fun hany => ?_
        rw [Option.any_eq_true] at hany
        obtain ⟨v, hv, hk⟩ := hany
        exact hl slot List.mem_cons_self v hv (by simpa using hk)
      rw [List.foldl_cons, hstep]
      exact ih fun j hj => hl j (List.mem_cons_of_mem _ hj)
  refine hfold _ fun slot hslot => ?_
  obtain ⟨x, hx, rfl⟩ := List.mem_map.mp hslot
  exact h x hx

/-! ### A vehicle is stranded (R25, R32) -/

/-- The record of a vehicle that is stranded, before it gives up its grant and its place in a wait list. -/
def recordStranded (slot : Nat) (z : Zone) : Zone := modVehicle slot (fun v => { v with state := .stranded, route := [] }) z

theorem strand_eq {e : Env} {slot : Nat} {z : Zone} {v : Vehicle} (hv : vehicle? z slot = some v) :
    strand e slot z = leaveWaits e v.number (withdrawGrant e slot (recordStranded slot z)) := by
  simp only [strand, hv]
  rfl

theorem withdrawGrant_none {e : Env} {slot : Nat} {z : Zone} {v : Vehicle} (hv : vehicle? z slot = some v)
    (hg : v.granted = none) : withdrawGrant e slot z = z := by
  simp only [withdrawGrant, hv, hg]

theorem leaveWaits_none {e : Env} {n : Nat} {z : Zone} (h : ∀ x ∈ z.track.segments, n ∉ x.2.wait) : leaveWaits e n z = z := by
  have hnil : (z.track.segments.filter fun s => s.2.wait.contains n) = [] :=
    List.filter_eq_nil_iff.mpr fun x hx => by simpa using h x hx
  simp only [leaveWaits, hnil, List.map_nil, List.foldl_nil]

/-! ### The clearing -/

/-- The state with the occupancy input of a segment at a level. -/
def occupancyInput (s : State) (t : Tbl Nat) : State := { s with inputs := { s.inputs with occupancy := t } }

theorem exec_occupancyClear_still (k : Nat) {s : State} (h : s.inputs.occupancy.has k = false ∨ s.isActive = false) :
    exec (.occupancyClear k) s = .next (occupancyInput s (s.inputs.occupancy.erase k)) := by
  refine congrArg Host.Outcome.next ?_
  by_cases hp : s.inputs.occupancy.has k = true
  · exact (if_pos hp).trans (whenActive_idle (s := occupancyInput s (s.inputs.occupancy.erase k))
      (h.resolve_left (by simp [hp])) _)
  · exact if_neg hp

theorem exec_occupancyClear {k : Nat} {s : State} (hp : s.inputs.occupancy.has k = true) (ha : s.isActive = true) :
    exec (.occupancyClear k) s = .next ((occupancyInput s (s.inputs.occupancy.erase k)).endEvent
      (clearSegment (occupancyInput s (s.inputs.occupancy.erase k)).env k s.zone)) :=
  congrArg Host.Outcome.next ((if_pos hp).trans
    (whenActive_active (s := occupancyInput s (s.inputs.occupancy.erase k)) ha _))

theorem clearSegment_other {e : Env} {k : Nat} {z : Zone} (h : ∀ n, segState z k ≠ some (.occupied n)) :
    clearSegment e k z = z := by
  unfold clearSegment
  split
  · rename_i n hn
    exact absurd hn (h n)
  · rfl

theorem clearSegment_unknown {e : Env} {k n : Nat} {z : Zone} (h : segState z k = some (.occupied n))
    (hv : findVehicle z n = none) : clearSegment e k z = freeSegment e k z := by
  simp only [clearSegment, h, hv]

theorem clearSegment_trailing {e : Env} {k n slot : Nat} {z : Zone} {v : Vehicle} (h : segState z k = some (.occupied n))
    (hv : findVehicle z n = some (slot, v)) (ht : v.trailing = some k) : clearSegment e k z =
      proceed e slot (modVehicle slot (fun v => { v with trailing := none }) (freeSegment e k z)) := by
  simp only [clearSegment, h, hv]
  exact if_pos ht

theorem clearSegment_passed {e : Env} {k n slot : Nat} {z : Zone} {v : Vehicle} (h : segState z k = some (.occupied n))
    (hv : findVehicle z n = some (slot, v)) (ht : v.trailing ≠ some k) (hc : v.current ≠ some k) :
    clearSegment e k z = freeSegment e k z := by
  simp only [clearSegment, h, hv]
  exact (if_neg ht).trans (if_neg hc)

theorem clearSegment_current {e : Env} {k n slot : Nat} {z : Zone} {v : Vehicle} (h : segState z k = some (.occupied n))
    (hv : findVehicle z n = some (slot, v)) (ht : v.trailing ≠ some k) (hc : v.current = some k) :
    clearSegment e k z = if mayLeave z k v then freeSegment e k z else loseVehicle e slot k v z := by
  simp only [clearSegment, h, hv]
  exact (if_neg ht).trans (if_pos hc)

theorem mayLeave_iff {z : Zone} {k : Nat} {v : Vehicle} : mayLeave z k v = true ↔
    (∃ x, z.track.segments.get? k = some x ∧ x.permit = true) ∨ v.granted ≠ none ∨ v.state = .passing := by
  simp only [mayLeave, Bool.or_eq_true, Option.any_eq_true, seg?, Option.isSome_iff_ne_none, decide_eq_true_iff, or_assoc]

/-- Settles O38: the clearing by what stands on the segment, and the older claim of wait list and deferred offers. -/
theorem occupancyClears : Obligations.OccupancyClears := by
  refine ⟨?_, ?_, ?_, ?_⟩
  · intro k s s' e z t
    refine ⟨exec_occupancyClear_still k, fun hp ha => ?_, freeSegment_unclaimed⟩
    have hexec {z' : Zone} (h : clearSegment e k z = z') : t = .next (s'.endEvent z') :=
      (exec_occupancyClear hp ha).trans (event_congr h)
    refine ⟨fun h => hexec (clearSegment_other h), fun n hn => ⟨fun hv => hexec (clearSegment_unknown hn hv), fun slot v hv =>
      ⟨fun ht => hexec (clearSegment_trailing hn hv ht), fun ht hc => hexec (clearSegment_passed hn hv ht hc), fun ht hc =>
        ⟨fun hleave => hexec ((clearSegment_current hn hv ht hc).trans (if_pos (mayLeave_iff.mpr hleave))),
          fun hx hg hs => hexec ((clearSegment_current hn hv ht hc).trans ((if_neg fun hm => ?_).trans ?_))⟩⟩⟩⟩
    · rcases mayLeave_iff.mp hm with ⟨x, hget, hperm⟩ | h | h
      · exact absurd ((hx x hget).symm.trans hperm) nofun
      · exact h hg
      · exact hs h
    · rw [← findVehicle_number hv]
      rfl
  · intro e k z x hx free claimOf
    have hfree : segFreed k z = free := rfl
    have hseg : seg? free k = some { x with state := .free, permit := false } := seg?_modSeg_same _ hx
    have hclaim : firstClaim free k = (x.wait.head?.bind (findVehicle z)).map fun y => y.2.claim := by
      simp only [firstClaim, hseg, Option.bind_some]
      rfl
    refine ⟨fun n rest slot v hw hv hwho => ?_, fun o slot hd hc hs hn => ?_⟩
    · have hfirst : firstClaim free k = some v.claim := by
        rw [hclaim, hw, List.head?_cons, Option.bind_some, hv, Option.map_some]
      refine (handOn_first (z := free) ?_).trans (grantFirst_some hseg hw hv)
      refine hwho.imp_right (Or.imp_left ?_)
      rintro ⟨o, hd, hlt⟩
      exact ⟨o, hd, by rw [hfirst]; simpa using hlt⟩
    · refine handOn_deferred (z := free) hd ?_ hs hn
      rw [hclaim]
      refine Bool.eq_false_iff.mpr fun hany => ?_
      rw [Option.any_eq_true] at hany
      obtain ⟨c, hmap, hlt⟩ := hany
      obtain ⟨⟨slot', v⟩, hbind, rfl⟩ := Option.map_eq_some_iff.mp hmap
      obtain ⟨n, hhead, hfind⟩ := Option.bind_eq_some_iff.mp hbind
      exact absurd (hc v.claim ⟨n, slot', v, hhead, hfind, rfl⟩) (by simpa using hlt)
  · intro e slot z v hv stranded
    refine ⟨strand_eq hv, fun hg hw => ?_⟩
    have hrecord : vehicle? (recordStranded slot z) slot = some { v with state := .stranded, route := [] } :=
      vehicle?_modVehicle _ hv
    rw [strand_eq hv, withdrawGrant_none hrecord hg]
    exact leaveWaits_none hw
  · intro e k z
    exact ⟨rfl, askAgain_none, askAgain_eq e k z⟩

end Sys2Proof.Machine

/-! PROOF. Tag reads (R28, R31, R41), routes and grants (R24 to R27). -/

namespace Sys2Proof.Machine

/-! ### The reading of a tag -/

theorem exec_tagRead_still {k : Nat} {tag : BitVec 6} {s : State} (h : s.inputs.occupancy.has k = true ∨ s.isActive = false) :
    exec (.tagRead k tag) s = .next (occupancyInput s (s.inputs.occupancy.set k tag.toNat)) := by
  refine congrArg Host.Outcome.next ?_
  by_cases hp : s.inputs.occupancy.has k = true
  · exact if_pos hp
  · exact (if_neg hp).trans (whenActive_idle (s := occupancyInput s (s.inputs.occupancy.set k tag.toNat))
      (h.resolve_left hp) _)

theorem exec_tagRead {k : Nat} {tag : BitVec 6} {s : State} (hp : s.inputs.occupancy.has k = false) (ha : s.isActive = true) :
    exec (.tagRead k tag) s = .next ((occupancyInput s (s.inputs.occupancy.set k tag.toNat)).endEvent
      (readTag (occupancyInput s (s.inputs.occupancy.set k tag.toNat)).env k tag.toNat s.zone)) :=
  congrArg Host.Outcome.next ((if_neg (by simp [hp])).trans
    (whenActive_active (s := occupancyInput s (s.inputs.occupancy.set k tag.toNat)) ha _))

theorem readTag_outside {e : Env} {k tag : Nat} {z : Zone} (h : segState z k = none) : readTag e k tag z = z := by
  simp only [readTag, h]

theorem readTag_granted {e : Env} {k tag slot : Nat} {z : Zone} {v : Vehicle} (h : segState z k = some (.granted tag))
    (hv : findVehicle z tag = some (slot, v)) : readTag e k tag z = enterSegment e slot k z := by
  simp only [readTag, h, hv, if_true]

theorem readTag_reserved {e : Env} {k tag slot : Nat} {z : Zone} {v : Vehicle} (h : segState z k = some (.reserved tag))
    (hv : findVehicle z tag = some (slot, v)) : readTag e k tag z = arriveIncoming e slot k z := by
  simp only [readTag, h, hv, if_true]

theorem readTag_granted_other {e : Env} {k tag n : Nat} {z : Zone} (h : segState z k = some (.granted n)) (hn : n ≠ tag) :
    readTag e k tag z = tagMismatch e k tag z := by
  simp only [readTag, h, hn, if_false]

theorem readTag_reserved_other {e : Env} {k tag n : Nat} {z : Zone} (h : segState z k = some (.reserved n)) (hn : n ≠ tag) :
    readTag e k tag z = raise e .tagMismatch [.segment k, .vehicle n, .number tag] (setSegState k .blocked z) := by
  simp only [readTag, h, hn, if_false, tagMismatch]

theorem readTag_intrusion {e : Env} {k tag : Nat} {z : Zone}
    (h : segState z k = some .free ∨ segState z k = some .blocked ∨ ∃ n, segState z k = some (.occupied n)) :
    readTag e k tag z = raise e .intrusion [.segment k, .number tag] (setSegState k .blocked z) := by
  rcases h with h | h | ⟨n, h⟩ <;> simp only [readTag, h, tagMismatch]

/-- Another tag than that of the vehicle granted: the vehicle is HELD at the head of the wait list, its permit off. -/
theorem tagMismatch_granted {e : Env} {k tag n slot c : Nat} {z : Zone} {v : Vehicle} (h : segState z k = some (.granted n))
    (hv : findVehicle z n = some (slot, v)) (hc : v.current = some c) (hs : segState z c = some (.occupied n)) :
    tagMismatch e k tag z = raise e .tagMismatch [.segment k, .vehicle n, .number tag]
      (setSegState k .blocked (modSeg k (fun x => { x with wait := (n :: x.wait).take 7 })
        (modVehicle slot (fun x => { x with granted := none, state := .held, route := k :: x.route }) (setPermit c false z)))) := by
  have hdrop : dropPermit v z = setPermit c false z := dropPermit_on hc (.inl (findVehicle_number hv ▸ hs))
  simp only [tagMismatch, h, hv, hdrop]
  rfl

/-! ### Entry and arrival -/

theorem segState_setSegState_ne {c k : Nat} (st : SegState) (z : Zone) (h : c ≠ k) : segState (setSegState k st z) c = segState z c := by
  simp only [segState, seg?, get?_setSegState, if_neg h]

/-- The entry of a vehicle whose old segment still shows occupancy: that one trails, and the vehicle is HELD. -/
theorem enterSegment_trailing {e : Env} {slot k c : Nat} {z : Zone} {v : Vehicle} (hv : vehicle? z slot = some v)
    (hc : v.current = some c) (hne : c ≠ k) (hs : segState z c = some (.occupied v.number)) (ho : occupied e c = true) :
    enterSegment e slot k z = modVehicle slot (fun v => { v with current := some k, granted := none, trailing := some c, state := .held })
      (setPermit c false (setSegState k (.occupied v.number) z)) := by
  have hheld : v.current.filter (fun c => segState (setSegState k (.occupied v.number) z) c = some (.occupied v.number) && c ≠ k) =
      some c := by simp [hc, segState_setSegState_ne _ z hne, hs, hne]
  have hoff : v.current.filter (fun d => d ≠ k && (true ||
      segState (setSegState k (.occupied v.number) z) d = some .blocked)) = some c := by simp [hc, hne]
  have htrail : (some c).filter (fun c => occupied e c) = some c := by simp [ho]
  have hentered : enterSegment e slot k z = proceed e slot (modVehicle slot
      (fun v => { v with current := some k, granted := none, trailing := some c, state := .held })
      (setPermit c false (setSegState k (.occupied v.number) z))) := by
    simp only [enterSegment, hv, hheld, hoff, htrail, ho, if_true, Option.isSome_some]
  have hrecord : vehicle? (modVehicle slot (fun v => { v with current := some k, granted := none, trailing := some c, state := .held })
      (setPermit c false (setSegState k (.occupied v.number) z))) slot =
        some { v with current := some k, granted := none, trailing := some c, state := .held } := vehicle?_modVehicle _ hv
  rw [hentered, proceed_trailing hrecord (.inr rfl) rfl nofun, modVehicle_modVehicle]

/-- The zone as an incoming vehicle stands on its segment, before its carried roll is entered. -/
def arrivedHere (slot k : Nat) (v : Vehicle) (z : Zone) : Zone :=
  modVehicle slot (fun v => { v with state := .held, current := some k, carried := none, offeredBy := none })
    (setSegState k (.occupied v.number) z)

/-- What follows the arrival: PASS DONE, the route and the first grant. -/
def arrivedOn (e : Env) (slot k : Nat) (v : Vehicle) (b : Nat) (z : Zone) : Zone :=
  routeAndGo e slot (offer e ⟨b, .passDone (byte v.number) (byte (v.current.getD k))⟩ z)

theorem arriveIncoming_empty {e : Env} {slot k b : Nat} {z : Zone} {v : Vehicle} (hv : vehicle? z slot = some v)
    (hb : v.offeredBy = some b) (hc : v.carried = none) (hl : v.loaded = false) : arriveIncoming e slot k z =
      (arrivedOn e slot k v b (arrivedHere slot k v z)).push (.offerVehicle v.number .entered) := by
  simp only [arriveIncoming, hv, hb, hc, hl, Bool.false_eq_true, if_false]
  rfl

theorem arriveIncoming_loaded {e : Env} {slot k b : Nat} {z : Zone} {v : Vehicle} {r : Roll} (hv : vehicle? z slot = some v)
    (hb : v.offeredBy = some b) (hc : v.carried = some r) (hl : v.loaded = true) : arriveIncoming e slot k z =
      arrivedOn e slot k v b (enterCarried e slot r (arrivedHere slot k v z)) := by
  simp only [arriveIncoming, hv, hb, hc, hl, if_true]
  rfl

theorem enterCarried_new {e : Env} {slot : Nat} {r : Roll} {z : Zone} (h : r.serial = 0 ∨ findSerial z r.serial = none) :
    enterCarried e slot r z = setRoll (.vehicle slot) { r with state := .shipping, reservation := none } z := by
  refine if_neg fun ⟨h0, hf⟩ => ?_
  rcases h with h | h
  · exact h0 h
  · exact absurd h (Option.isSome_iff_ne_none.mp hf)

theorem enterCarried_known {e : Env} {slot : Nat} {r : Roll} {z : Zone} (h0 : r.serial ≠ 0) (hf : findSerial z r.serial ≠ none) :
    enterCarried e slot r z = raise e .mismatch [.place (.vehicle slot), .serial r.serial]
      (setRoll (.vehicle slot)
        { unidentified .shipping with breaks := r.breaks, waste := r.waste, defect := r.defect } z) :=
  if_pos ⟨h0, Option.isSome_iff_ne_none.mpr hf⟩

/-! ### Routes -/

section
variable {e : Env} {slot start : Nat} {z : Zone} {v : Vehicle} (hv : vehicle? z slot = some v)
  (hs : v.granted = some start ∨ (v.granted = none ∧ v.current = some start))
include hv hs

theorem computeRoute_none (hr : routeFor e (goalOf e v) start = none) : computeRoute e slot z =
    raise e .stranded (.vehicle v.number :: (v.current.map CtxElem.segment).toList) (strand e slot z) := by
  have hstart : (v.granted <|> v.current) = some start := by rcases hs with h | ⟨h, hc⟩ <;> simp [*]
  simp only [computeRoute, hv, hstart, hr, strandNoRoute]
  rfl

theorem computeRoute_some {route : List Nat} (hr : routeFor e (goalOf e v) start = some route) : computeRoute e slot z =
    if goalOf e v = .nearestPark ∧ (parkingDocks e.img).isEmpty ∧ (v.state = .moving ∨ v.state = .held) then
      parkVehicle slot (withdrawGrant e slot (modVehicle slot (fun v => { v with route := route }) z))
    else modVehicle slot (fun v => { v with route := route }) z := by
  have hstart : (v.granted <|> v.current) = some start := by rcases hs with h | ⟨h, hc⟩ <;> simp [*]
  simp only [computeRoute, hv, hstart, hr]
end

/-! ### Grants and wait lists -/

section
variable {e : Env} {slot k : Nat} {rest : List Nat} {z : Zone} {v : Vehicle} {x : Segment} (hv : vehicle? z slot = some v)
  (hm : mayAsk z v = true) (hr : v.route = k :: rest) (hx : z.track.segments.get? k = some x)
include hv hm hr hx

theorem ask_free (hs : x.state = .free) : ask e slot z = grant e slot k (claimNow slot z) := by
  have hstate : segState z k = some .free := by simp [segState, seg?, hx, hs]
  simp only [ask, hv, hr, hm, if_true, hstate]

theorem ask_taken (hs : x.state ≠ .free) : ask e slot z = joinWait slot v.number k z := by
  have hstate : segState z k ≠ some .free := by simp [segState, seg?, hx, hs]
  simp only [ask, hv, hr, hm, if_true, hstate, if_false]
end

theorem claimNow_eq (slot : Nat) (z : Zone) : claimNow slot z = { z with track := { z.track with
    claims := z.track.claims + 1
    vehicles := z.track.vehicles.modify slot fun v => { v with claim := z.track.claims + 1 } } } := rfl

theorem joinWait_room {slot n k : Nat} {z : Zone} {x : Segment} (hx : z.track.segments.get? k = some x) (hw : x.wait.length < 7) :
    joinWait slot n k z = { z with track := { z.track with
      claims := z.track.claims + 1
      vehicles := z.track.vehicles.modify slot fun v => { v with state := .held, claim := z.track.claims + 1 }
      segments := z.track.segments.modify k fun x => { x with wait := x.wait ++ [n] } } } := by
  refine (if_pos (by simp only [seg?, modVehicle, hx, Option.any_some, decide_eq_true_iff]; exact hw)).trans ?_
  rw [claimNow_eq]
  simp only [modSeg, modVehicle, Tbl.modify_modify]

theorem joinWait_full {slot n k : Nat} {z : Zone} {x : Segment} (hx : z.track.segments.get? k = some x) (hw : 7 ≤ x.wait.length) :
    joinWait slot n k z = modVehicle slot (fun v => { v with state := .held }) z :=
  if_neg (by simp only [seg?, modVehicle, hx, Option.any_some, decide_eq_true_iff]; exact Nat.not_lt.mpr hw)

theorem grant_eq {e : Env} {slot k c : Nat} {rest : List Nat} {z : Zone} {v : Vehicle} {cfg : SegCfg} (hv : vehicle? z slot = some v)
    (hr : v.route = k :: rest) (hc : v.current = some c) (hcfg : e.img.segment? c = some cfg) : grant e slot k z =
      setPermit c true (setPoints e c (if cfg.succ1.station = 0 ∧ cfg.succ1.segment = k then 1 else 2)
        (modVehicle slot (fun v => { v with granted := some k, state := .moving, route := rest })
          (setSegState k (.granted v.number) z))) := by
  have hroute : modVehicle slot (fun v => { v with
        granted := some k, state := .moving, route := if v.route.head? = some k then v.route.tail else v.route })
      (setSegState k (.granted v.number) z) =
      modVehicle slot (fun v => { v with granted := some k, state := .moving, route := rest })
        (setSegState k (.granted v.number) z) := modVehicle_congr (v := v) hv (by simp [hr])
  simp only [grant, hv, hroute, hc, hcfg, pointsFor]

/-- Settles O37: a tag by the state of its segment, an arrival by what the vehicle carries, and the next step of a vehicle
that is free to go. -/
theorem tagReadTaken : Obligations.TagReadTaken := by
  refine ⟨?_, ?_, ?_⟩
  · intro k tag s s' e z t
    refine ⟨exec_tagRead_still, fun hp ha => ?_, fun slot v c => enterSegment_trailing⟩
    have hexec {z' : Zone} (h : readTag e k tag.toNat z = z') : t = .next (s'.endEvent z') :=
      (exec_tagRead hp ha).trans (event_congr h)
    refine ⟨fun h => hexec (readTag_outside h), fun slot v h hv => hexec (readTag_granted h hv),
      fun slot v h hv => hexec (readTag_reserved h hv), fun h => hexec (readTag_intrusion h),
      fun n h hn => hexec (readTag_reserved_other h hn), fun n slot v c h hn hv hc hs => ?_⟩
    exact hexec ((readTag_granted_other h hn).trans (tagMismatch_granted h hv hc hs))
  · intro e slot k z v b hv hb here on
    refine ⟨arriveIncoming_empty hv hb, fun r hc hl => ⟨fun h => ?_, fun h0 hf => ?_⟩⟩ <;>
      refine (arriveIncoming_loaded hv hb hc hl).trans (congrArg on ?_)
    · exact enterCarried_new h
    · exact enterCarried_known h0 hf
  · intro e slot z v hv
    refine ⟨fun start hs => ?_, proceed_stays hv, fun hs => ⟨proceed_granted hv hs, proceed_trailing hv hs,
      proceed_arrive hv hs, fun k rest x hg ht hr hw hx => ?_⟩, fun k rest c cfg hr hc hcfg => grant_eq hv hr hc hcfg⟩
    · intro g parks
      refine ⟨computeRoute_none hv hs, fun route hr => ⟨fun hno => ?_, fun hyes => ?_⟩⟩ <;>
        refine (computeRoute_some hv hs hr).trans ?_
      · exact if_neg fun ⟨hg, hd, hst⟩ => hno ⟨hg, List.isEmpty_iff.mp hd, hst⟩
      · obtain ⟨hg, hd, hst⟩ := hyes
        exact if_pos ⟨hg, List.isEmpty_iff.mpr hd, hst⟩
    · have hm : mayAsk z v = true := mayAsk_iff.mpr ⟨hs, hg, ht, hw⟩
      have hask := proceed_asks (e := e) hv hs hg ht hr
      intro n
      refine ⟨fun hf => ?_, fun hf hl => ?_, fun hf hl => ?_⟩ <;> refine hask.trans ?_
      · exact ask_free hv hm hr hx hf
      · exact (ask_taken hv hm hr hx hf).trans (joinWait_room hx hl)
      · exact (ask_taken hv hm hr hx hf).trans (joinWait_full hx hl)

end Sys2Proof.Machine

/-! PROOF. SEGMENT RELEASE (R33, R34, Table 2-4-1) and the change of a vehicle's purpose (R25, R27, R30). -/

namespace Sys2Proof.Machine

/-! ### Wait lists and grants given up -/

theorem leaveWaits_outside {e : Env} {n : Nat} {z : Zone} (h : inWaitList z n = false) : leaveWaits e n z = z :=
  leaveWaits_none fun x hx hn => by
    have := List.any_eq_false.mp h x hx
    exact this (List.contains_iff_mem.mpr hn)

theorem withdrawGrant_some {e : Env} {slot g c : Nat} {z : Zone} {v : Vehicle} (hv : vehicle? z slot = some v)
    (hg : v.granted = some g) (hc : v.current = some c)
    (hs : segState z c = some (.occupied v.number) ∨ segState z c = some .blocked) : withdrawGrant e slot z =
      handOn e g (setSegState g .free (setPermit c false (modVehicle slot (fun v => { v with granted := none }) z))) := by
  have hdrop : dropPermit v (modVehicle slot (fun v => { v with granted := none }) z) =
      setPermit c false (modVehicle slot (fun v => { v with granted := none }) z) := dropPermit_on hc hs
  simp only [withdrawGrant, hv, hg, hdrop]

/-! ### A purpose is set -/

/-- The record of a vehicle whose purpose changes. -/
def repurposed (now : Time) (p : Purpose) (v : Vehicle) : Vehicle :=
  { (if v.handOver = .accepted ∨ v.handOver = .none then v
     else { v with handOver := .none, handOverTime := now, offeredTo := none }) with
    purpose := p, state := if v.state = .docked ∨ v.state = .parked then .held else v.state }

theorem repurposed_eq (now : Time) (p : Purpose) (v : Vehicle) :
    { (if v.handOver = .accepted then v else v.noHandOver now) with
      purpose := p, state := if v.state = .docked ∨ v.state = .parked then .held else v.state } = repurposed now p v := by
  unfold repurposed Vehicle.noHandOver
  by_cases ha : v.handOver = .accepted
  · simp only [ha, true_or, if_true]
  · by_cases hn : v.handOver = .none <;> simp only [ha, hn, false_or, if_true, if_false, reduceCtorEq]

theorem setPurpose_eq {e : Env} {slot : Nat} {p : Purpose} {z : Zone} {v : Vehicle} (hv : vehicle? z slot = some v)
    (hw : inWaitList z v.number = false) :
    setPurpose e slot p z = routeAndGo e slot (modVehicle slot (repurposed e.now p) z) := by
  simp only [setPurpose, hv, leaveWaits_outside hw, repurposed_eq]

/-! ### A vehicle found on a BLOCKED segment -/

theorem takeInHere_same {e : Env} {slot k c : Nat} {z : Zone} {v : Vehicle} (hc : v.current = some c) (h : c = k) :
    takeInHere e slot k v z = arriveIncoming e slot k z := by
  simp only [takeInHere, hc]
  exact if_neg fun hn => hn.1 h

theorem takeInHere_released {e : Env} {slot k c : Nat} {z : Zone} {v : Vehicle} (hc : v.current = some c) (h : c ≠ k)
    (hs : segState (arriveIncoming e slot k z) c = some (.reserved v.number) ∨
      segState (arriveIncoming e slot k z) c = some .blocked) :
    takeInHere e slot k v z = freeSegment e c (arriveIncoming e slot k z) := by
  simp only [takeInHere, hc]
  exact if_pos ⟨h, hs⟩

theorem takeInHere_kept {e : Env} {slot k c : Nat} {z : Zone} {v : Vehicle} (hc : v.current = some c)
    (hr : segState (arriveIncoming e slot k z) c ≠ some (.reserved v.number))
    (hb : segState (arriveIncoming e slot k z) c ≠ some .blocked) :
    takeInHere e slot k v z = arriveIncoming e slot k z := by
  simp only [takeInHere, hc]
  exact if_neg fun hn => hn.2.elim hr hb

/-- The segments that a vehicle leaves behind it as it is moved, in the order current, trailing. -/
def oldSegments (e : Env) (k : Nat) (v : Vehicle) (z : Zone) : List Nat :=
  ([v.current, v.trailing].filterMap id).filter fun c =>
    c ≠ k && segState z c = some (.occupied v.number) && occupied e c

/-- A vehicle that has been moved to segment k, a segment trailing it or none. -/
def movedTo (e : Env) (slot k : Nat) (v : Vehicle) (trail : Option Nat) (z : Zone) : Zone :=
  routeAndGo e slot (modVehicle slot (fun x =>
      { x.noHandOver e.now with current := some k, trailing := trail, state := .held })
    (setSegState k (.occupied v.number) z))

theorem moveHere_eq {e : Env} {slot k : Nat} {z : Zone} {v : Vehicle} {old : List Nat}
    (ho : oldSegments e k v (withdrawGrant e slot (leaveWaits e v.number z)) = old) :
    moveHere e slot k v z = movedTo e slot k v old.head?
      (old.foldl (fun z c => setPermit c false z) (withdrawGrant e slot (leaveWaits e v.number z))) := by
  subst ho
  rfl

theorem oldSegments_one {e : Env} {k c : Nat} {v : Vehicle} {z : Zone} (hc : v.current = some c) (ht : v.trailing = none)
    (hk : c ≠ k) (hs : segState z c = some (.occupied v.number)) (ho : occupied e c = true) : oldSegments e k v z = [c] := by
  simp [oldSegments, hc, ht, hk, hs, ho]

theorem oldSegments_none {e : Env} {k : Nat} {v : Vehicle} {z : Zone} (h : ∀ c, v.current = some c ∨ v.trailing = some c →
    c = k ∨ segState z c ≠ some (.occupied v.number) ∨ occupied e c = false) : oldSegments e k v z = [] := by
  refine List.filter_eq_nil_iff.mpr fun c hc hcond => ?_
  obtain ⟨o, ho, rfl⟩ := List.mem_filterMap.mp hc
  have hmem : v.current = some c ∨ v.trailing = some c := by
    rcases List.mem_cons.mp ho with h | h
    · exact .inl h.symm
    · exact .inr (List.mem_singleton.mp h).symm
  simp only [Bool.and_eq_true, decide_eq_true_iff] at hcond
  rcases h c hmem with h | h | h
  · exact hcond.1.1 h
  · exact h hcond.1.2
  · exact absurd (h.symm.trans hcond.2) nofun

/-! ### A stranded vehicle is redirected (R34) -/

/-- The record of an empty stranded vehicle as it is sent off again. -/
def sentOff (e : Env) (slot : Nat) (z : Zone) : Zone :=
  modVehicle slot (fun v => { v with home := e.own, order := none }) (modVehicle slot (fun v => { v with state := .held }) z)

theorem redirect_loaded {e : Env} {slot : Nat} {z : Zone} {v : Vehicle} (hl : v.loaded = true) : redirect e slot v z =
    setPurpose e slot (.returnTo e.own) (modVehicle slot (fun v => { v with state := .held }) z) := if_pos hl

theorem redirect_empty {e : Env} {slot : Nat} {z : Zone} {v : Vehicle} (hl : v.loaded = false) (ho : v.order = none) :
    redirect e slot v z = match oldestWaiting z with
      | some o => capture e slot v o (sentOff e slot z)
      | none => setPurpose e slot .home (sentOff e slot z) := by
  refine (if_neg (by simp [hl])).trans ?_
  rw [ho]
  rfl

theorem redirect_captured {e : Env} {slot : Nat} {z : Zone} {v : Vehicle} {o : Order} (hl : v.loaded = false)
    (ho : v.order = none) (hw : oldestWaiting z = some o) : redirect e slot v z = capture e slot v o (sentOff e slot z) := by
  rw [redirect_empty hl ho, hw]

theorem redirect_home {e : Env} {slot : Nat} {z : Zone} {v : Vehicle} (hl : v.loaded = false)
    (ho : v.order = none) (hw : oldestWaiting z = none) : redirect e slot v z = setPurpose e slot .home (sentOff e slot z) := by
  rw [redirect_empty hl ho, hw]

/-! ### Table 2-4-1 -/

theorem exec_segmentRelease (h : Header) (b : Byte) {s : State} (ht : s.takes h .segmentRelease = true) :
    exec (.segmentRelease h b) s = .next (s.endFrame h (s.answered h .segmentRelease (segmentReleased s.env b.toNat s.heard).2
      (refByte b.toNat) (segmentReleased s.env b.toNat s.heard).1)) :=
  congrArg _ (hearBody_decide .segmentRelease _ _ ht rfl (by simp [bodyKind, Kind.cls]))

theorem segmentReleased_outside {e : Env} {k : Nat} {z : Zone} (h : segState z k = none) :
    segmentReleased e k z = (z, .refusedRange) := by
  simp only [segmentReleased, h]

theorem segmentReleased_blocked {e : Env} {k : Nat} {z : Zone} (h : segState z k = some .blocked) :
    segmentReleased e k z = releaseBlocked e k z := by
  simp only [segmentReleased, h]

theorem segmentReleased_stranded {e : Env} {k slot : Nat} {z : Zone} {v : Vehicle} {st : SegState} (h : segState z k = some st)
    (hb : st ≠ .blocked) (hs : strandedAt z k = some (slot, v)) : segmentReleased e k z = (redirect e slot v z, .done) := by
  unfold segmentReleased
  rw [h]
  cases st with
  | blocked => exact absurd rfl hb
  | _ => simp only [hs]

theorem segmentReleased_unconfirmed {e : Env} {k slot : Nat} {z : Zone} {v : Vehicle} {st : SegState} (h : segState z k = some st)
    (hb : st ≠ .blocked) (hs : strandedAt z k = none) (hu : unconfirmedAt z k = some (slot, v)) : segmentReleased e k z =
      if occupied e k then (z, .refusedState) else (deletePassed e slot v z, .done) := by
  unfold segmentReleased
  rw [h]
  cases st with
  | blocked => exact absurd rfl hb
  | _ => simp only [hs, hu]

theorem segmentReleased_other {e : Env} {k : Nat} {z : Zone} {st : SegState} (h : segState z k = some st)
    (hb : st ≠ .blocked) (hs : strandedAt z k = none) (hu : unconfirmedAt z k = none) :
    segmentReleased e k z = (z, .refusedState) := by
  unfold segmentReleased
  rw [h]
  cases st with
  | blocked => exact absurd rfl hb
  | _ => simp only [hs, hu]

theorem strandedAt_of {z : Zone} {k n slot : Nat} {v : Vehicle} (h : segState z k = some (.occupied n))
    (hv : findVehicle z n = some (slot, v)) (hs : v.state = .stranded) (hh : v.handOver = .none) :
    strandedAt z k = some (slot, v) := by
  simp only [strandedAt, h, hv]
  exact if_pos ⟨hs, hh⟩

theorem releaseBlocked_freed {e : Env} {k : Nat} {z : Zone} (ho : occupied e k = false)
    (hi : z.track.vehicles.find? (fun v => v.2.state = .incoming && v.2.current = some k) = none) :
    releaseBlocked e k z = (freeSegment e k z, .done) := by
  refine (if_neg (by simp [ho])).trans ?_
  rw [hi]

theorem releaseBlocked_reserved {e : Env} {k : Nat} {z : Zone} {x : Nat × Vehicle} (ho : occupied e k = false)
    (hi : z.track.vehicles.find? (fun v => v.2.state = .incoming && v.2.current = some k) = some x) :
    releaseBlocked e k z = (setSegState k (.reserved x.2.number) z, .done) := by
  refine (if_neg (by simp [ho])).trans ?_
  rw [hi]

theorem releaseBlocked_known {e : Env} {k slot : Nat} {z : Zone} {v : Vehicle} (ho : occupied e k = true)
    (hv : findVehicle z (presentTag e k) = some (slot, v)) : releaseBlocked e k z =
      if v.state = .incoming then (takeInHere e slot k v z, .done)
      else if v.state = .passing then (z, .refusedState)
      else (moveHere e slot k v z, .done) := by
  refine (if_pos ho).trans ?_
  simp only [hv]

theorem releaseBlocked_adopted {e : Env} {k slot : Nat} {z : Zone} (ho : occupied e k = true)
    (hv : findVehicle z (presentTag e k) = none) (hs : freeVehicleSlot z = some slot) (ht : vehicleOk (presentTag e k) = true) :
    releaseBlocked e k z = (adopt e slot k (presentTag e k) z, .done) := by
  refine (if_pos ho).trans ?_
  simp only [hv, hs]
  exact if_pos ht

theorem releaseBlocked_unknown {e : Env} {k : Nat} {z : Zone} (ho : occupied e k = true)
    (hv : findVehicle z (presentTag e k) = none) (h : freeVehicleSlot z = none ∨ vehicleOk (presentTag e k) = false) :
    releaseBlocked e k z = (z, .refusedState) := by
  refine (if_pos ho).trans ?_
  simp only [hv]
  cases hs : freeVehicleSlot z with
  | none => rfl
  | some slot => exact if_neg (Bool.eq_false_iff.mp (h.resolve_left (by simp [hs])))

/-- Settles O30: Table 2-4-1 by the segment's state and what reads on it, and the effect of each of its lines. -/
theorem segmentReleaseDecided : Obligations.SegmentReleaseDecided := by
  refine ⟨?_, ?_, ?_, ?_, ?_, ?_, ?_⟩
  · intro h b s ht e z k t with' incoming
    have hwith {z' : Zone} {r : Result} (hd : segmentReleased s.env b.toNat s.heard = (z', r)) : t = with' r z' :=
      (exec_segmentRelease h b ht).trans (by rw [hd])
    have hblocked (hb : segState z k = some .blocked) {z' : Zone} {r : Result} (hd : releaseBlocked e k z = (z', r)) :
        t = with' r z' := hwith ((segmentReleased_blocked hb).trans hd)
    refine ⟨fun h => hwith (segmentReleased_outside h), fun hb ho => ⟨fun hi => hblocked hb (releaseBlocked_freed ho hi),
      fun x hi => hblocked hb (releaseBlocked_reserved ho hi)⟩, fun hb ho => ⟨fun slot v hv => ⟨fun hs => hblocked hb ?_,
        fun hs => hblocked hb ?_, fun hi hp => hblocked hb ?_⟩, fun slot hv hs h1 h2 => hblocked hb ?_,
        fun hv hno => hblocked hb ?_⟩, fun n slot v hs hv hst hho => hwith ?_, fun st slot v hs hb hno hu => ⟨fun ho => hwith ?_,
          fun ho => hwith ?_⟩, fun st hs hb hno hu => hwith (segmentReleased_other hs hb hno hu)⟩
    · exact (releaseBlocked_known ho hv).trans (if_pos hs)
    · exact (releaseBlocked_known ho hv).trans ((if_neg (by simp [hs])).trans (if_pos hs))
    · exact (releaseBlocked_known ho hv).trans ((if_neg hi).trans (if_neg hp))
    · exact releaseBlocked_adopted ho hv hs (vehicleOk_iff.mpr ⟨h1, h2⟩)
    · refine releaseBlocked_unknown ho hv (hno.imp_right fun h0 => Bool.eq_false_iff.mpr fun hok => ?_)
      exact absurd (vehicleOk_iff.mp hok).1 (by omega)
    · exact segmentReleased_stranded hs nofun (strandedAt_of hs hv hst hho)
    · exact (segmentReleased_unconfirmed hs hb hno hu).trans (if_pos ho)
    · exact (segmentReleased_unconfirmed hs hb hno hu).trans (if_neg (Bool.eq_false_iff.mp ho))
  · intro e slot k z v c hc t
    exact ⟨takeInHere_same hc, takeInHere_released hc, takeInHere_kept hc⟩
  · intro e slot k z v left placed
    have hplaced (trail : Option Nat) (z' : Zone) : movedTo e slot k v trail z' = placed trail z' := rfl
    have hmove {old : List Nat} (ho : oldSegments e k v left = old) :
        moveHere e slot k v z = placed old.head? (old.foldl (fun z c => setPermit c false z) left) := by
      rw [← hplaced]
      exact moveHere_eq ho
    refine ⟨fun c hc ht hk hs ho => ?_, fun h => ?_⟩
    · have hone := hmove (oldSegments_one hc ht hk hs ho)
      rw [List.head?_cons, List.foldl_cons, List.foldl_nil] at hone
      exact hone
    · have hnone := hmove (oldSegments_none h)
      rw [List.head?_nil, List.foldl_nil] at hnone
      exact hnone
  · exact fun e slot k tag z => rfl
  · intro e slot z v held free
    refine ⟨redirect_loaded, fun hl ho => ⟨redirect_home hl ho, fun o d hw hd => ?_⟩⟩
    exact (redirect_captured hl ho hw).trans (capture_eq e slot v free hd)
  · exact fun e slot p z v hv hw => setPurpose_eq hv hw
  · intro e slot z v hv
    exact ⟨withdrawGrant_none hv, fun g c => withdrawGrant_some hv, leaveWaits_outside⟩

end Sys2Proof.Machine

/-! PROOF. The end of an order: its queue, counts and notices, the reservation and the vehicle it gives up (R85, R92, R93),
and the limits of its steps (R89, R90). -/

namespace Sys2Proof.Machine

/-! ### Queues and their counts -/

/-- The other queue. -/
def otherQueue (q : Queue) : Queue := if q = .p then .o else .p

@[simp] theorem ordersOf_setOrders_same (q : Queue) (l : List Order) (z : Zone) : ordersOf (setOrders q l z) q = l := by
  cases q <;> rfl

@[simp] theorem ordersOf_setOrders_other (q : Queue) (l : List Order) (z : Zone) :
    ordersOf (setOrders q l z) (otherQueue q) = ordersOf z (otherQueue q) := by
  cases q <;> rfl

@[simp] theorem statOf_setOrders (q r : Queue) (l : List Order) (z : Zone) : statOf (setOrders q l z) r = statOf z r := by
  cases q <;> cases r <;> rfl

@[simp] theorem statOf_modStat_same (q : Queue) (f : QueueStat → QueueStat) (z : Zone) :
    statOf (modStat q f z) q = f (statOf z q) := by
  cases q <;> rfl

@[simp] theorem statOf_modStat_other (q : Queue) (f : QueueStat → QueueStat) (z : Zone) :
    statOf (modStat q f z) (otherQueue q) = statOf z (otherQueue q) := by
  cases q <;> rfl

@[simp] theorem ordersOf_modStat (q r : Queue) (f : QueueStat → QueueStat) (z : Zone) :
    ordersOf (modStat q f z) r = ordersOf z r := by
  cases q <;> cases r <;> rfl

theorem ordersOf_of_transfer {z t : Zone} (h : t.transfer = z.transfer) (q : Queue) : ordersOf t q = ordersOf z q := by
  cases q <;> simp only [ordersOf, h]

theorem statOf_of_transfer {z t : Zone} (h : t.transfer = z.transfer) (q : Queue) : statOf t q = statOf z q := by
  cases q <;> simp only [statOf, h]

/-! ### What the change of queue, count and notices leaves -/

/-- A change of the queues, their counts and notices, and of the requests asked for. -/
def queueOnly (z t : Zone) : Prop :=
  t.track = z.track ∧ t.stock = z.stock ∧ t.supply = z.supply ∧ t.faults = z.faults ∧
    t.transfer.carriage = z.transfer.carriage ∧ t.transfer.command = z.transfer.command

theorem queueOnly.refl (z : Zone) : queueOnly z z := ⟨rfl, rfl, rfl, rfl, rfl, rfl⟩

theorem queueOnly.trans {z t u : Zone} (h : queueOnly z t) (h' : queueOnly t u) : queueOnly z u := by
  obtain ⟨h1, h2, h3, h4, h5, h6⟩ := h
  obtain ⟨h1', h2', h3', h4', h5', h6'⟩ := h'
  exact ⟨h1'.trans h1, h2'.trans h2, h3'.trans h3, h4'.trans h4, h5'.trans h5, h6'.trans h6⟩

theorem modStat_queueOnly (q : Queue) (f : QueueStat → QueueStat) (z : Zone) : queueOnly z (modStat q f z) := by
  cases q <;> exact .refl z

theorem modStat_agenda (q : Queue) (f : QueueStat → QueueStat) (z : Zone) : (modStat q f z).agenda = z.agenda := by
  cases q <;> rfl

theorem modStat_notices (q : Queue) (f : QueueStat → QueueStat) (z : Zone) :
    (modStat q f z).transfer.notices = z.transfer.notices := by cases q <;> rfl

/-! ### Notices (R93) -/

theorem get?_setNotice {p : Place} {j : Nat} (hp : noticeKey p = some j) (f : Notice → Notice) (z : Zone) (k : Nat) :
    (setNotice p f z).transfer.notices.get? k =
      if k = j then some (f ((z.transfer.notices.get? j).getD ⟨none, none⟩)) else z.transfer.notices.get? k := by
  simp only [setNotice, hp, Tbl.get?_set]

theorem setNotice_outside {p : Place} (hp : noticeKey p = none) (f : Notice → Notice) (z : Zone) : setNotice p f z = z := by
  simp only [setNotice, hp]

/-- A zone with other notices. -/
def withNotices (t : Tbl Notice) (z : Zone) : Zone := { z with transfer := { z.transfer with notices := t } }

theorem setNotice_frame (p : Place) (f : Notice → Notice) (z : Zone) : ∃ t, setNotice p f z = withNotices t z := by
  unfold setNotice
  split
  · exact ⟨_, rfl⟩
  · exact ⟨z.transfer.notices, rfl⟩

/-- A notice without the hold of an order. -/
def holdCleared (n : Nat) (x : Notice) : Notice := if x.hold.any fun h => h.order = n then { x with hold := none } else x

theorem get?_clearHold (n : Nat) (z : Zone) (k : Nat) :
    (clearHold n z).transfer.notices.get? k = (z.transfer.notices.get? k).map (holdCleared n) :=
  Tbl.get?_map z.transfer.notices (fun _ => holdCleared n) k

/-- No hold notice names an order. -/
def unheld (n : Nat) (z : Zone) : Prop :=
  ∀ k x h, z.transfer.notices.get? k = some x → x.hold = some h → h.order ≠ n

theorem clearHold_unheld (n : Nat) (z : Zone) : unheld n (clearHold n z) := by
  intro k x h hx hh
  rw [get?_clearHold] at hx
  obtain ⟨y, -, rfl⟩ := Option.map_eq_some_iff.mp hx
  unfold holdCleared at hh
  by_cases hy : y.hold.any (fun h => h.order = n) = true
  · rw [if_pos hy] at hh
    exact absurd hh nofun
  · rw [if_neg hy] at hh
    simpa [hh] using hy

/-- The completion notice of a place names an ended order. -/
def notesEnd (note : DoneNotice) (k : Nat) (z : Zone) : Prop :=
  (z.transfer.notices.get? k).bind (·.completion) = some note

/-- A completion notice written at places, one after the other. -/
def noted (note : DoneNotice) (ps : List Place) (z : Zone) : Zone :=
  ps.foldl (fun z p => setNotice p (fun x => { x with completion := some note }) z) z

theorem noteEnd_eq (o : Order) (failed : Option Reason) (z : Zone) :
    ∃ ps, noteEnd o failed z = noted ⟨o.number, o.req.origin, failed⟩ (o.req.source :: ps) z := by
  unfold noteEnd
  dsimp only
  split
  · exact ⟨[_], rfl⟩
  · exact ⟨[], rfl⟩

theorem setNotice_unheld {n : Nat} {z : Zone} (h : unheld n z) (p : Place) (note : DoneNotice) :
    unheld n (setNotice p (fun x => { x with completion := some note }) z) := by
  cases hp : noticeKey p with
  | none =>
    rw [setNotice_outside hp]
    exact h
  | some j =>
    intro k x g hx hh
    rw [get?_setNotice hp] at hx
    by_cases hk : k = j
    · rw [if_pos hk] at hx
      obtain rfl := Option.some.inj hx
      cases hj : z.transfer.notices.get? j with
      | none => simp [hj] at hh
      | some y => exact h j y g hj (by simpa [hj] using hh)
    · rw [if_neg hk] at hx
      exact h k x g hx hh

theorem noted_unheld {n : Nat} (note : DoneNotice) (ps : List Place) {z : Zone} (h : unheld n z) : unheld n (noted note ps z) := by
  induction ps generalizing z with
  | nil => exact h
  | cons p ps ih => exact ih (setNotice_unheld h p note)

theorem setNotice_notes {note : DoneNotice} {k : Nat} {z : Zone} (p : Place) (h : notesEnd note k z ∨ noticeKey p = some k) :
    notesEnd note k (setNotice p (fun x => { x with completion := some note }) z) := by
  cases hp : noticeKey p with
  | none =>
    rw [setNotice_outside hp]
    exact h.resolve_right (by simp [hp])
  | some j =>
    unfold notesEnd
    rw [get?_setNotice hp]
    by_cases hk : k = j
    · rw [if_pos hk, Option.bind_some]
    · rw [if_neg hk]
      exact h.resolve_right fun hj => hk (Option.some.inj (hj.symm.trans hp))

theorem noted_notes {note : DoneNotice} {k : Nat} (ps : List Place) {z : Zone} (h : notesEnd note k z) :
    notesEnd note k (noted note ps z) := by
  induction ps generalizing z with
  | nil => exact h
  | cons p ps ih => exact ih (setNotice_notes p (.inl h))

theorem noted_frame (note : DoneNotice) (ps : List Place) (z : Zone) : ∃ t, noted note ps z = withNotices t z := by
  induction ps generalizing z with
  | nil => exact ⟨z.transfer.notices, rfl⟩
  | cons p ps ih =>
    obtain ⟨t, ht⟩ := setNotice_frame p (fun x => { x with completion := some note }) z
    obtain ⟨u, hu⟩ := ih (withNotices t z)
    exact ⟨u, (congrArg (noted note ps) ht).trans hu⟩

/-! ### The order leaves its queue -/

/-- The zone that an ended order has left, its notices given. -/
def orderLeft (o : Order) (failed : Option Reason) (z : Zone) : Zone := noteEnd o failed (removeOrder o z)

/-- The zone with an order gone from its queue, before any notice of its end. -/
def orderGone (o : Order) (z : Zone) : Zone :=
  (setOrders o.req.queue ((ordersOf z o.req.queue).filter fun x => x.number ≠ o.number) z).push (.invite o.req.queue)

theorem removeOrder_frame (o : Order) (z : Zone) :
    removeOrder o z = withNotices (clearHold o.number z).transfer.notices (orderGone o z) := by
  unfold removeOrder orderGone
  cases o.req.queue <;> rfl

theorem orderLeft_frame (o : Order) (failed : Option Reason) (z : Zone) :
    ∃ t, orderLeft o failed z = withNotices t (orderGone o z) := by
  obtain ⟨ps, hps⟩ := noteEnd_eq o failed (removeOrder o z)
  obtain ⟨t, ht⟩ := noted_frame ⟨o.number, o.req.origin, failed⟩ (o.req.source :: ps) (removeOrder o z)
  refine ⟨t, hps.trans (ht.trans ?_)⟩
  rw [removeOrder_frame]
  rfl

theorem orderLeft_unheld (o : Order) (failed : Option Reason) (z : Zone) : unheld o.number (orderLeft o failed z) := by
  obtain ⟨ps, hps⟩ := noteEnd_eq o failed (removeOrder o z)
  rw [orderLeft, hps, removeOrder_frame]
  exact noted_unheld _ _ (clearHold_unheld o.number z)

theorem orderLeft_notes {o : Order} {failed : Option Reason} {z : Zone} {k : Nat} (hk : noticeKey o.req.source = some k) :
    notesEnd ⟨o.number, o.req.origin, failed⟩ k (orderLeft o failed z) := by
  obtain ⟨ps, hps⟩ := noteEnd_eq o failed (removeOrder o z)
  rw [orderLeft, hps]
  exact noted_notes ps (setNotice_notes o.req.source (.inr hk))

/-- What an ended order leaves: its queue without it, the other queue and the counts as they were, and one request asked. -/
theorem orderLeft_spec (o : Order) (failed : Option Reason) (z : Zone) :
    ordersOf (orderLeft o failed z) o.req.queue = (ordersOf z o.req.queue).filter (fun x => x.number ≠ o.number) ∧
    ordersOf (orderLeft o failed z) (otherQueue o.req.queue) = ordersOf z (otherQueue o.req.queue) ∧
    (∀ q, statOf (orderLeft o failed z) q = statOf z q) ∧ queueOnly z (orderLeft o failed z) ∧
    (orderLeft o failed z).agenda = z.agenda ++ [.invite o.req.queue] := by
  obtain ⟨t, ht⟩ := orderLeft_frame o failed z
  rw [ht]
  unfold orderGone
  cases o.req.queue <;> exact ⟨rfl, rfl, fun q => by cases q <;> rfl, .refl z, rfl⟩

/-! ### What an ended order gives up -/

/-- Releases and reports after the order has left: its queue, counts, notices, carriage and the faults stand, and requests
are only asked for. -/
def releasesOnly (z t : Zone) : Prop := t.transfer = z.transfer ∧ t.faults = z.faults ∧ z.agenda <+: t.agenda

theorem releasesOnly.refl (z : Zone) : releasesOnly z z := ⟨rfl, rfl, List.prefix_refl _⟩

theorem releasesOnly.trans {z t u : Zone} (h : releasesOnly z t) (h' : releasesOnly t u) : releasesOnly z u := by
  obtain ⟨h1, h2, h3⟩ := h
  obtain ⟨h1', h2', h3'⟩ := h'
  exact ⟨h1'.trans h1, h2'.trans h2, h3.trans h3'⟩

theorem push_releasesOnly (z : Zone) (t : Task) : releasesOnly z (z.push t) := ⟨rfl, rfl, List.prefix_append _ _⟩

theorem release_releasesOnly (k : Nat) (z : Zone) : releasesOnly z (release k z) := by
  unfold release
  split
  · split
    · exact ⟨rfl, rfl, List.prefix_append _ _⟩
    · exact .refl z
  · exact .refl z

theorem release_track (k : Nat) (z : Zone) : (release k z).track = z.track := by
  unfold release
  split
  · split <;> rfl
  · rfl

theorem offer_releasesOnly (e : Env) (f : TxFrame) (z : Zone) : releasesOnly z (offer e f z) :=
  ⟨offer_transfer .., offer_faults .., by rw [offer_agenda]⟩

theorem endShipReservation_releasesOnly (e : Env) (ref : CallRef) (z : Zone) : releasesOnly z (endShipReservation e ref z) := by
  unfold endShipReservation
  split
  · exact (release_releasesOnly _ z).trans (offer_releasesOnly e _ _)
  · exact .refl z

theorem endShipReservation_track (e : Env) (ref : CallRef) (z : Zone) : (endShipReservation e ref z).track = z.track := by
  unfold endShipReservation
  split
  · rw [offer_track, release_track]
  · rfl

theorem endShipReservation_stock {e : Env} {ref : CallRef} {z : Zone} {k : Nat}
    (h : reservationKey z ref.station ref.call = some k) : (endShipReservation e ref z).stock = (release k z).stock := by
  simp only [endShipReservation, h, offer_stock]

/-- The reservation of an ended order is given up, or stays with the roll that the carriage grips. -/
def reservationEnded (e : Env) (o : Order) (why : Reason) (gripping : Bool) (z : Zone) : Zone :=
  if o.req.origin = .ship then releaseShip e o gripping (why ≠ .withdrawn) z else releaseServed o gripping z

theorem reservationEnded_frame (e : Env) (o : Order) (why : Reason) (gripping : Bool) (z : Zone) :
    releasesOnly z (reservationEnded e o why gripping z) ∧ (reservationEnded e o why gripping z).track = z.track := by
  unfold reservationEnded releaseShip releaseServed
  split
  · split
    · split
      · split
        · exact ⟨.refl z, rfl⟩
        · split
          · exact ⟨endShipReservation_releasesOnly .., endShipReservation_track ..⟩
          · exact ⟨release_releasesOnly .., release_track ..⟩
      · exact ⟨.refl z, rfl⟩
    · exact ⟨.refl z, rfl⟩
  · split
    · split
      · split
        · exact ⟨.refl z, rfl⟩
        · exact ⟨release_releasesOnly .., release_track ..⟩
      · exact ⟨.refl z, rfl⟩
    · exact ⟨.refl z, rfl⟩

theorem reservationEnded_gripped {e : Env} {o : Order} {why : Reason} {z : Zone} {ref : CallRef} {k : Nat}
    (hr : o.req.callRef = some ref) (hk : reservationKey z ref.station ref.call = some k) (hc : k = 1024) :
    reservationEnded e o why true z = z := by
  by_cases ho : o.req.origin = .ship
  · refine (if_pos ho).trans ?_
    simp only [releaseShip, hr, hk]
    exact if_pos ⟨trivial, hc⟩
  · refine (if_neg ho).trans ?_
    simp only [releaseServed, hr, hk]
    exact if_pos ⟨trivial, hc⟩

theorem reservationEnded_released {e : Env} {o : Order} {why : Reason} {gripping : Bool} {z : Zone} {ref : CallRef} {k : Nat}
    (hr : o.req.callRef = some ref) (hk : reservationKey z ref.station ref.call = some k) (hc : gripping = false ∨ k ≠ 1024) :
    (reservationEnded e o why gripping z).stock = (release k z).stock := by
  have hcond : ¬ (gripping = true ∧ k = Place.carriage.key) := fun ⟨hg, hk⟩ => hc.elim (by simp [hg]) (absurd hk)
  by_cases ho : o.req.origin = .ship
  · have hship : reservationEnded e o why gripping z =
        if decide (why ≠ .withdrawn) then endShipReservation e ref z else release k z := by
      refine (if_pos ho).trans ?_
      simp only [releaseShip, hr, hk, if_neg hcond]
    rw [hship]
    split
    · exact endShipReservation_stock hk
    · rfl
  · have hserved : reservationEnded e o why gripping z = release k z := by
      refine (if_neg ho).trans ?_
      simp only [releaseServed, hr, hk, if_neg hcond]
    rw [hserved]

/-- The vehicle that an ended order has captured is free of it. -/
def vehicleEnded (o : Order) (z : Zone) : Zone :=
  match o.vehicle with
  | some v => releaseVehicle v o.number z
  | none => z

theorem vehicleEnded_frame (o : Order) (z : Zone) : releasesOnly z (vehicleEnded o z) ∧ (vehicleEnded o z).stock = z.stock := by
  unfold vehicleEnded
  split
  · unfold releaseVehicle
    split
    · split
      · exact ⟨⟨rfl, rfl, List.prefix_append _ _⟩, rfl⟩
      · exact ⟨.refl z, rfl⟩
    · exact ⟨.refl z, rfl⟩
  · exact ⟨.refl z, rfl⟩

theorem vehicleEnded_freed {o : Order} {z : Zone} {v slot : Nat} {veh : Vehicle} (hv : o.vehicle = some v)
    (hf : findVehicle z v = some (slot, veh)) (ho : veh.order = some o.number) : vehicleEnded o z =
      (modVehicle slot (fun v => { v with order := none }) z).push (.offerVehicle v .released) := by
  simp only [vehicleEnded, hv]
  exact releaseVehicle_own hf ho

theorem releaseUnloading_frame (e : Env) (o : Order) (why : Reason) (gripping : Bool) (z : Zone) :
    releasesOnly z (releaseUnloading e o why gripping z) ∧ (releaseUnloading e o why gripping z).track = z.track ∧
      (releaseUnloading e o why gripping z).stock = z.stock := by
  unfold releaseUnloading
  split
  · split
    · exact ⟨.refl z, rfl, rfl⟩
    · split
      · exact ⟨⟨rfl, rfl, List.prefix_refl _⟩, rfl, rfl⟩
      · exact ⟨push_releasesOnly .., rfl, rfl⟩
  · split
    · exact ⟨.refl z, rfl, rfl⟩
    · exact ⟨push_releasesOnly .., rfl, rfl⟩
  · exact ⟨.refl z, rfl, rfl⟩

theorem tellLoadFailed_told {o : Order} {why : Reason} {z : Zone} {ref : CallRef}
    (ho : o.req.origin = .callLoad ∨ o.req.origin = .localLoad ∨ o.req.origin = .receive) (hr : o.req.callRef = some ref)
    (hw : why ≠ .withdrawn) : tellLoadFailed o why z = z.push (.loadFailed ref.call o.number o.serial) := by
  rcases ho with ho | ho | ho <;> simp only [tellLoadFailed, ho, hr] <;> exact if_neg hw

theorem tellLoadFailed_frame (o : Order) (why : Reason) (z : Zone) : releasesOnly z (tellLoadFailed o why z) ∧
    (tellLoadFailed o why z).track = z.track ∧ (tellLoadFailed o why z).stock = z.stock := by
  unfold tellLoadFailed
  split
  · split
    · exact ⟨.refl z, rfl, rfl⟩
    · exact ⟨push_releasesOnly .., rfl, rfl⟩
  · split
    · exact ⟨.refl z, rfl, rfl⟩
    · exact ⟨push_releasesOnly .., rfl, rfl⟩
  · split
    · exact ⟨.refl z, rfl, rfl⟩
    · exact ⟨push_releasesOnly .., rfl, rfl⟩
  · exact ⟨.refl z, rfl, rfl⟩

/-- The zone with a failed order counted, before anything is given up. -/
def failedCounted (o : Order) (why : Reason) (z : Zone) : Zone :=
  modStat o.req.queue (fun s => { s with failed := bump16 s.failed }) (orderLeft o (some why) z)

theorem endFailed_eq (e : Env) (o : Order) (why : Reason) (gripping : Bool) (z : Zone) : endFailed e o why gripping z =
    tellLoadFailed o why (releaseUnloading e o why gripping (vehicleEnded o
      (reservationEnded e o why gripping (failedCounted o why z)))) := rfl

/-! ### The limits of a step -/

theorem exec_stepLimitExpiry {s : State} (ha : s.isActive = true) :
    exec .stepLimitExpiry s = .next (s.endEvent (stepLimitDue s.env s.zone)) := congrArg _ (whenActive_active ha _)

theorem exec_holdLimitExpiry {s : State} (ha : s.isActive = true) :
    exec .holdLimitExpiry s = .next (s.endEvent (holdLimitDue s.env s.zone)) := congrArg _ (whenActive_active ha _)

theorem motionStep_iff {n : Nat} : motionStep n = true ↔ n ∈ [1, 3, 4, 6] := by simp [motionStep, or_assoc]

theorem waitStep_iff {n : Nat} : waitStep n = true ↔ n ∈ [2, 5] := by simp [waitStep]

section
variable {e : Env} {z : Zone} {o : Order} (ho : runningOrder z = some o)
include ho

theorem stepLimitDue_expired (hs : o.step ∈ [1, 3, 4, 6]) (ht : liesAfter (o.stepStart + 600) e.now = false) :
    stepLimitDue e z = limitExpired e o .stepLimit .stepLimit 600 z := by
  simp only [stepLimitDue, ho]
  exact if_pos ⟨motionStep_iff.mpr hs, reached_iff.mpr ht⟩

theorem stepLimitDue_running (h : o.step ∉ [1, 3, 4, 6] ∨ liesAfter (o.stepStart + 600) e.now = true) : stepLimitDue e z = z := by
  simp only [stepLimitDue, ho]
  exact if_neg fun ⟨hs, ht⟩ => h.elim (absurd (motionStep_iff.mp hs)) fun h => absurd ((reached_iff.mp ht).symm.trans h) nofun

theorem holdLimitDue_expired (hs : o.step ∈ [2, 5]) (ht : liesAfter (o.stepStart + 1200) e.now = false) :
    holdLimitDue e z = limitExpired e o .holdLimit .holdLimit 1200 z := by
  simp only [holdLimitDue, ho]
  exact if_pos ⟨waitStep_iff.mpr hs, reached_iff.mpr ht⟩

theorem holdLimitDue_running (h : o.step ∉ [2, 5] ∨ liesAfter (o.stepStart + 1200) e.now = true) : holdLimitDue e z = z := by
  simp only [holdLimitDue, ho]
  exact if_neg fun ⟨hs, ht⟩ => h.elim (absurd (waitStep_iff.mp hs)) fun h => absurd ((reached_iff.mp ht).symm.trans h) nofun
end

theorem limits_of_idle {e : Env} {z : Zone} (h : runningOrder z = none) : stepLimitDue e z = z ∧ holdLimitDue e z = z := by
  simp only [stepLimitDue, holdLimitDue, h, and_self]

/-- The zone with the carriage HALTED under an order, its command off. -/
def haltedUnder (o : Order) (z : Zone) : Zone :=
  { z with transfer := { z.transfer with command := none, carriage := .halted o } }

theorem limitExpired_leg1 {e : Env} {o : Order} {why : Reason} {code : FaultCode} {limit : Time} {z : Zone} (h : o.step < 4) :
    limitExpired e o why code limit z = failOrder e o why (raise e code
      ([.order o.number, .step o.step] ++ [.place (sourcePlace e o), .serial o.serial]) z) :=
  if_neg (by simpa [leg2] using h)

theorem limitExpired_leg2 {e : Env} {o : Order} {why : Reason} {code : FaultCode} {limit : Time} {n : Nat} {z : Zone}
    (h : 4 ≤ o.step) (hn : limit.toNat = n) : limitExpired e o why code limit z = endFailed e o why true (raise e .haltedGripping
      ([.order o.number, .step o.step] ++ (o.target.map CtxElem.place).toList ++ [.serial o.serial] ++ [.number n])
      (haltedUnder o z)) := by
  subst hn
  exact if_pos (by simpa [leg2] using h)

/-! ### The end of an order as a whole -/

/-- The zone with a served order counted, before its block is told. -/
def doneCounted (o : Order) (z : Zone) : Zone :=
  idleCarriage (modStat o.req.queue (fun s => { s with done := bump16 s.done, last := o.number }) (orderLeft o none z))

theorem endDone_eq (o : Order) (z : Zone) : endDone o z = tellLoadDone o (doneCounted o z) := rfl

/-- The block that asked for a load is told, and no one else. -/
theorem tellLoadDone_frame (o : Order) (z : Zone) : ∃ told, tellLoadDone o z = { z with agenda := z.agenda ++ told } ∧
    ∀ ref, o.req.origin = .callLoad ∨ o.req.origin = .localLoad ∨ o.req.origin = .receive → o.req.callRef = some ref →
      told = [.loadDone ref.call] := by
  unfold tellLoadDone
  split
  · rename_i ref _ hr
    exact ⟨[.loadDone ref.call], rfl, fun ref' _ hr' => by rw [Option.some.inj (hr.symm.trans hr')]⟩
  · rename_i ref _ hr
    exact ⟨[.loadDone ref.call], rfl, fun ref' _ hr' => by rw [Option.some.inj (hr.symm.trans hr')]⟩
  · rename_i ref _ hr
    exact ⟨[.loadDone ref.call], rfl, fun ref' _ hr' => by rw [Option.some.inj (hr.symm.trans hr')]⟩
  · rename_i h1 h2 h3
    refine ⟨[], by rw [List.append_nil], fun ref ho hr => ?_⟩
    rcases ho with ho | ho | ho
    · exact absurd hr (h1 ref ho)
    · exact absurd hr (h2 ref ho)
    · exact absurd hr (h3 ref ho)

theorem unheld_of_notices {n : Nat} {z t : Zone} (h : t.transfer.notices = z.transfer.notices) (hz : unheld n z) : unheld n t := by
  intro k x g hx
  rw [h] at hx
  exact hz k x g hx

theorem notesEnd_of_notices {note : DoneNotice} {k : Nat} {z t : Zone} (h : t.transfer.notices = z.transfer.notices)
    (hz : notesEnd note k z) : notesEnd note k t := by
  unfold notesEnd
  rw [h]
  exact hz

theorem doneCounted_spec (o : Order) (z : Zone) :
    ordersOf (doneCounted o z) o.req.queue = (ordersOf z o.req.queue).filter (fun x => x.number ≠ o.number) ∧
    ordersOf (doneCounted o z) (otherQueue o.req.queue) = ordersOf z (otherQueue o.req.queue) ∧
    statOf (doneCounted o z) o.req.queue = { statOf z o.req.queue with
      done := min 65535 ((statOf z o.req.queue).done + 1), last := o.number } ∧
    statOf (doneCounted o z) (otherQueue o.req.queue) = statOf z (otherQueue o.req.queue) ∧
    (doneCounted o z).agenda = z.agenda ++ [.invite o.req.queue] := by
  obtain ⟨hown, hother, hstat, -, hagenda⟩ := orderLeft_spec o none z
  have horders (q : Queue) (z' : Zone) : ordersOf (idleCarriage z') q = ordersOf z' q := by cases q <;> rfl
  have hstats (q : Queue) (z' : Zone) : statOf (idleCarriage z') q = statOf z' q := by cases q <;> rfl
  refine ⟨?_, ?_, ?_, ?_, (modStat_agenda ..).trans hagenda⟩
  · rw [doneCounted, horders, ordersOf_modStat, hown]
  · rw [doneCounted, horders, ordersOf_modStat, hother]
  · rw [doneCounted, hstats, statOf_modStat_same, hstat]
    rfl
  · rw [doneCounted, hstats, statOf_modStat_other, hstat]

theorem failedCounted_spec (o : Order) (why : Reason) (z : Zone) :
    ordersOf (failedCounted o why z) o.req.queue = (ordersOf z o.req.queue).filter (fun x => x.number ≠ o.number) ∧
    ordersOf (failedCounted o why z) (otherQueue o.req.queue) = ordersOf z (otherQueue o.req.queue) ∧
    statOf (failedCounted o why z) o.req.queue = { statOf z o.req.queue with
      failed := min 65535 ((statOf z o.req.queue).failed + 1) } ∧
    statOf (failedCounted o why z) (otherQueue o.req.queue) = statOf z (otherQueue o.req.queue) ∧
    queueOnly z (failedCounted o why z) ∧ (failedCounted o why z).agenda = z.agenda ++ [.invite o.req.queue] := by
  obtain ⟨hown, hother, hstat, hkept, hagenda⟩ := orderLeft_spec o (some why) z
  refine ⟨?_, ?_, ?_, ?_, hkept.trans (modStat_queueOnly ..), (modStat_agenda ..).trans hagenda⟩
  · rw [failedCounted, ordersOf_modStat, hown]
  · rw [failedCounted, ordersOf_modStat, hother]
  · rw [failedCounted, statOf_modStat_same, hstat]
    rfl
  · rw [failedCounted, statOf_modStat_other, hstat]

section
variable (e : Env) (o : Order) (why : Reason) (gripping : Bool) (z : Zone)

theorem endFailed_releases : releasesOnly (failedCounted o why z) (endFailed e o why gripping z) := by
  rw [endFailed_eq]
  exact (reservationEnded_frame e o why gripping _).1.trans ((vehicleEnded_frame o _).1.trans
    ((releaseUnloading_frame e o why gripping _).1.trans (tellLoadFailed_frame o why _).1))

theorem endFailed_stock :
    (endFailed e o why gripping z).stock = (reservationEnded e o why gripping (failedCounted o why z)).stock := by
  rw [endFailed_eq, (tellLoadFailed_frame o why _).2.2, (releaseUnloading_frame e o why gripping _).2.2, (vehicleEnded_frame o _).2]

theorem endFailed_track : (endFailed e o why gripping z).track =
    (vehicleEnded o (reservationEnded e o why gripping (failedCounted o why z))).track := by
  rw [endFailed_eq, (tellLoadFailed_frame o why _).2.1, (releaseUnloading_frame e o why gripping _).2.1]

/-- Requests that the vehicle's release has asked for stay asked for. -/
theorem endFailed_agenda :
    (vehicleEnded o (reservationEnded e o why gripping (failedCounted o why z))).agenda <+: (endFailed e o why gripping z).agenda := by
  obtain ⟨-, -, hfirst⟩ := (releaseUnloading_frame e o why gripping
    (vehicleEnded o (reservationEnded e o why gripping (failedCounted o why z)))).1
  obtain ⟨-, -, hthen⟩ := (tellLoadFailed_frame o why (releaseUnloading e o why gripping
    (vehicleEnded o (reservationEnded e o why gripping (failedCounted o why z))))).1
  exact hfirst.trans hthen
end

theorem reservationKey_of_stock {z t : Zone} (h : t.stock = z.stock) (station call : Nat) :
    reservationKey t station call = reservationKey z station call := by
  simp only [reservationKey, h]

/-- Settles O43: the limits by the step of the running order, and the end of an order stage by stage: queue, counts,
notices, reservation, vehicle and the block told. -/
theorem limitsExpire : Obligations.LimitsExpire := by
  refine ⟨?_, ?_, ?_, ?_⟩
  · intro s ha e z halted named
    have hstep {z' : Zone} (h : stepLimitDue e z = z') : exec .stepLimitExpiry s = .next (s.endEvent z') :=
      (exec_stepLimitExpiry ha).trans (event_congr h)
    have hhold {z' : Zone} (h : holdLimitDue e z = z') : exec .holdLimitExpiry s = .next (s.endEvent z') :=
      (exec_holdLimitExpiry ha).trans (event_congr h)
    refine ⟨fun h => ⟨hstep (limits_of_idle h).1, hhold (limits_of_idle h).2⟩, fun o ho => ?_⟩
    intro source target
    refine ⟨fun hs ht => hstep ?_, fun hs ht => hhold ?_, fun hs ht => hstep ?_, fun hs ht => hhold ?_,
      fun h => hstep (stepLimitDue_running ho h), fun h => hhold (holdLimitDue_running ho h)⟩
    · rw [stepLimitDue_expired (e := e) ho (by rcases hs with h | h <;> simp [h]) ht]
      exact limitExpired_leg1 (by rcases hs with h | h <;> omega)
    · rw [holdLimitDue_expired (e := e) ho (by simp [hs]) ht]
      exact limitExpired_leg1 (by omega)
    · rw [stepLimitDue_expired (e := e) ho (by rcases hs with h | h <;> simp [h]) ht]
      exact limitExpired_leg2 (by rcases hs with h | h <;> omega) (by decide)
    · rw [holdLimitDue_expired (e := e) ho (by simp [hs]) ht]
      exact limitExpired_leg2 (by omega) (by decide)
  · intro o z t q other
    obtain ⟨hown, hother, hstat, hstats, hagenda⟩ := doneCounted_spec o z
    obtain ⟨-, -, -, ⟨htrack, hstock, hsupply, hfaults, -⟩, -⟩ := orderLeft_spec o none z
    obtain ⟨mtrack, mstock, msupply, mfaults, -⟩ := modStat_queueOnly o.req.queue
      (fun s => { s with done := bump16 s.done, last := o.number }) (orderLeft o none z)
    have hnotices : (doneCounted o z).transfer.notices = (orderLeft o none z).transfer.notices := modStat_notices ..
    obtain ⟨told, htold, hwho⟩ := tellLoadDone_frame o (doneCounted o z)
    have ht : t = { doneCounted o z with agenda := (doneCounted o z).agenda ++ told } := (endDone_eq o z).trans htold
    rw [ht]
    refine ⟨(ordersOf_of_transfer rfl q).trans hown, (ordersOf_of_transfer rfl other).trans hother,
      (statOf_of_transfer rfl q).trans hstat, (statOf_of_transfer rfl other).trans hstats, rfl, rfl, mstock.trans hstock,
      mtrack.trans htrack, msupply.trans hsupply, mfaults.trans hfaults, ⟨told, ?_, hwho⟩,
      unheld_of_notices hnotices (orderLeft_unheld o none z), fun k hk => notesEnd_of_notices hnotices (orderLeft_notes hk)⟩
    rw [hagenda, List.append_assoc]
    rfl
  · intro e o why gripping z t q other
    obtain ⟨hown, hother, hstat, hstats, ⟨htrack, hstock, -, hfaults, hcarriage, hcommand⟩, hagenda⟩ := failedCounted_spec o why z
    obtain ⟨ttransfer, tfaults, tagenda⟩ := endFailed_releases e o why gripping z
    have hnotices : t.transfer.notices = (orderLeft o (some why) z).transfer.notices :=
      (congrArg Transfer.notices ttransfer).trans (modStat_notices ..)
    refine ⟨(ordersOf_of_transfer ttransfer q).trans hown, (ordersOf_of_transfer ttransfer other).trans hother,
      (statOf_of_transfer ttransfer q).trans hstat, (statOf_of_transfer ttransfer other).trans hstats,
      (congrArg Transfer.carriage ttransfer).trans hcarriage, (congrArg Transfer.command ttransfer).trans hcommand,
      tfaults.trans hfaults, tagenda.subset (by simp [hagenda, q]), unheld_of_notices hnotices (orderLeft_unheld o (some why) z),
      fun k hk => notesEnd_of_notices hnotices (orderLeft_notes hk), fun ref k r hr hk hget hres => ⟨fun hg => ?_, fun hg hc => ?_⟩,
      fun v slot veh hv hf ho => ?_, fun ref ho hr hw => ?_⟩
    · have hk' : reservationKey (failedCounted o why z) ref.station ref.call = some k :=
        (reservationKey_of_stock hstock ..).trans hk
      have hget' : (failedCounted o why z).stock.rolls.get? k = some r := by rw [hstock]; exact hget
      rw [endFailed_stock, reservationEnded_released hr hk' hg, release_of_reserved hget' hres, hstock]
      rfl
    · subst hg
      have hk' : reservationKey (failedCounted o why z) ref.station ref.call = some k :=
        (reservationKey_of_stock hstock ..).trans hk
      rw [endFailed_stock, reservationEnded_gripped hr hk' hc, hstock]
    · obtain ⟨-, hfree⟩ := reservationEnded_frame e o why gripping (failedCounted o why z)
      have hfound : findVehicle (reservationEnded e o why gripping (failedCounted o why z)) v = some (slot, veh) :=
        (findVehicle_of_track v (hfree.trans htrack)).trans hf
      have hended := vehicleEnded_freed hv hfound ho
      constructor
      · rw [endFailed_track, hended]
        exact congrArg (fun tr : Track => tr.vehicles.modify slot fun v => { v with order := none }) (hfree.trans htrack)
      · refine (endFailed_agenda e o why gripping z).subset ?_
        rw [hended]
        exact List.mem_append_right _ (List.mem_singleton_self _)
    · have htold := tellLoadFailed_told (z := releaseUnloading e o why gripping
        (vehicleEnded o (reservationEnded e o why gripping (failedCounted o why z)))) ho hr hw
      show _ ∈ (endFailed e o why gripping z).agenda
      rw [endFailed_eq, htold]
      exact List.mem_append_right _ (List.mem_singleton_self _)
  · intro e o why z idle
    refine congrArg (endFailed e o why false) ?_
    exact if_congr (by simp [orderRunning]) rfl rfl

end Sys2Proof.Machine

/-! PROOF. What a warm restart resumes on entering ACTIVE (R47, R95, R115, R116, R153), and the withdrawal of a call by its
state (R111). -/

namespace Sys2Proof.Machine

/-! ### The track read again (R47) -/

section
variable {e : Env} {k : Nat} {z : Zone}

theorem takeDifference_empty (h : occupied e k = false) : takeDifference e k z = clearSegment e k z := by
  simp [takeDifference, h]

variable (h : occupied e k = true)
include h

theorem takeDifference_kept {v : Nat} (hs : segState z k = some (.occupied v)) (hp : presentTag e k = v ∨ presentTag e k = 0) :
    takeDifference e k z = z := by
  simp only [takeDifference, h, if_true, hs]
  exact if_pos hp

theorem takeDifference_other {v : Nat} (hs : segState z k = some (.occupied v)) (hv : presentTag e k ≠ v)
    (h0 : presentTag e k ≠ 0) : takeDifference e k z = tagMismatch e k (presentTag e k) z := by
  simp only [takeDifference, h, if_true, hs]
  exact if_neg fun hp => hp.elim hv h0

theorem takeDifference_blocked (hs : segState z k = some .blocked) : takeDifference e k z = z := by
  simp only [takeDifference, h, if_true, hs]

theorem takeDifference_read {st : SegState} (hs : segState z k = some st)
    (hst : st = .free ∨ (∃ v, st = .granted v) ∨ ∃ v, st = .reserved v) :
    takeDifference e k z = readTag e k (presentTag e k) z := by
  rcases hst with rfl | ⟨v, rfl⟩ | ⟨v, rfl⟩ <;> simp only [takeDifference, h, if_true, hs]
end

section
variable {e : Env} {slot : Nat} {v : Vehicle} {z : Zone} (hv : vehicle? z slot = some v)
include hv

theorem resumeVehicle_incoming (h : v.state = .incoming) : resumeVehicle e slot z = z := by
  simp only [resumeVehicle, hv, h]

theorem resumeVehicle_stays (h : v.state = .stranded ∨ v.state = .parked) : resumeVehicle e slot z = computeRoute e slot z := by
  rcases h with h | h <;> simp only [resumeVehicle, hv, h]

theorem resumeVehicle_docked {d : Nat} (h : v.state = .docked) (hg : goalOf e v = .dock d) : resumeVehicle e slot z =
    computeRoute e slot (if atDock e d then z else modVehicle slot (fun v => { v with state := .held }) z) := by
  simp only [resumeVehicle, hv, h, hg]

theorem resumeVehicle_asks (h : v.state = .moving ∨ v.state = .held) (hg : v.granted = none) :
    resumeVehicle e slot z = proceed e slot (computeRoute e slot z) := by
  rcases h with h | h <;> simp only [resumeVehicle, hv, h, hg] <;> exact if_neg nofun

/-- The segment whose permit a vehicle under way turns on again. -/
def resumedPermit (z : Zone) (v : Vehicle) (blocked : Nat → Bool) : Option Nat :=
  (v.current.filter fun c => segState z c = some (.occupied v.number)) <|>
    (v.current.filter fun c => segState z c = some .blocked).filter blocked

/-- That permit turned on. -/
def permitOn (k : Option Nat) (z : Zone) : Zone :=
  match k with
  | some c => modSeg c (fun s => { s with permit := true }) z
  | none => z

omit hv in
theorem resumedPermit_on {c : Nat} {blocked : Nat → Bool} (hc : v.current = some c)
    (h : segState z c = some (.occupied v.number) ∨ segState z c = some .blocked ∧ blocked c = true) :
    resumedPermit z v blocked = some c := by
  rcases h with h | ⟨h, hb⟩
  · simp [resumedPermit, hc, h]
  · simp [resumedPermit, hc, h, Option.filter, hb]

omit hv in
theorem resumedPermit_none {c : Nat} {blocked : Nat → Bool} (hc : v.current = some c)
    (ho : segState z c ≠ some (.occupied v.number)) (hb : segState z c ≠ some .blocked) :
    resumedPermit z v blocked = none := by
  simp [resumedPermit, hc, ho, hb, Option.filter]

theorem resumeVehicle_passing (h : v.state = .passing) : resumeVehicle e slot z =
    permitOn (resumedPermit z v fun c => presentTag e c = v.number) z := by
  simp only [resumeVehicle, hv, h, resumedPermit]
  cases (v.current.filter fun c => segState z c = some (.occupied v.number)) <|>
    (v.current.filter fun c => segState z c = some .blocked).filter fun c => presentTag e c = v.number with
  | none => rfl
  | some c => rfl

theorem resumeVehicle_moves (h : v.state = .moving ∨ v.state = .held) (hg : v.granted ≠ none) : resumeVehicle e slot z =
    computeRoute e slot (modVehicle slot (fun v => { v with state := .moving })
      (permitOn (resumedPermit z v fun _ => true) z)) := by
  have hall : (v.current.filter fun c => segState z c = some .blocked).filter (fun _ => true) =
      v.current.filter fun c => segState z c = some .blocked := by
    cases v.current.filter fun c => segState z c = some .blocked <;> rfl
  unfold resumedPermit
  rw [hall]
  have hgranted : v.granted.isSome = true := Option.isSome_iff_ne_none.mpr hg
  rcases h with h | h <;> simp only [resumeVehicle, hv, h, hgranted, if_true] <;>
    cases (v.current.filter fun c => segState z c = some (.occupied v.number)) <|>
      v.current.filter fun c => segState z c = some .blocked <;> rfl
end

/-! ### The reelstands (R153) -/

/-- A standby roll read again by the standby ready input. -/
def standbyRead (ready : Bool) (w : Splice) : Splice :=
  if w.state = .loaded ∧ ready = true then { w with state := .prepared }
  else if w.state = .prepared ∧ ready = false then { w with state := .loaded } else w

/-- A change of the reelstands' records alone. -/
def withStands (t : Tbl Splice) (z : Zone) : Zone := { z with splice := { z.splice with stands := t } }

theorem resumeReelstand_frame (e : Env) (r : Nat) (z : Zone) : ∃ t, resumeReelstand e r z = withStands t z ∧
    ∀ j, t.get? j = if j = r then (z.splice.stands.get? r).map (standbyRead (reelIns e r).standbyReady)
      else z.splice.stands.get? j := by
  cases hw : z.splice.stands.get? r with
  | none =>
    have hstay : resumeReelstand e r z = z := by simp only [resumeReelstand, spliceState, splice?, hw, Option.map_none]
    refine ⟨z.splice.stands, hstay, fun j => ?_⟩
    by_cases hj : j = r
    · simp [hj, hw]
    · simp [hj]
  | some w =>
    have hset (st : SpliceState) (hs : w.state.splicing = false) :
        setSpliceState e r st z = withStands (z.splice.stands.modify r fun w => { w with state := st }) z :=
      setSpliceState_of_plain hw (.inl hs)
    have hstay (h : resumeReelstand e r z = z) (hread : standbyRead (reelIns e r).standbyReady w = w) :
        ∃ t, resumeReelstand e r z = withStands t z ∧
          ∀ j, t.get? j = if j = r then (some w).map (standbyRead (reelIns e r).standbyReady) else z.splice.stands.get? j := by
      refine ⟨z.splice.stands, h, fun j => ?_⟩
      by_cases hj : j = r
      · simp [hj, hw, hread]
      · simp [hj]
    have hgoes {st : SpliceState} (h : resumeReelstand e r z = setSpliceState e r st z) (hs : w.state.splicing = false)
        (hread : standbyRead (reelIns e r).standbyReady w = { w with state := st }) :
        ∃ t, resumeReelstand e r z = withStands t z ∧
          ∀ j, t.get? j = if j = r then (some w).map (standbyRead (reelIns e r).standbyReady) else z.splice.stands.get? j := by
      refine ⟨_, h.trans (hset st hs), fun j => ?_⟩
      rw [Tbl.get?_modify]
      by_cases hj : j = r
      · simp [hj, hw, hread]
      · simp [hj]
    have hstate : spliceState z r = some w.state := by simp [spliceState, splice?, hw]
    by_cases hl : w.state = .loaded
    · cases hr : (reelIns e r).standbyReady with
      | true =>
        rw [← hr]
        exact hgoes (st := .prepared) (by simp only [resumeReelstand, hstate, hl, hr, if_true]) (by rw [hl]; rfl)
          (by simp [standbyRead, hl, hr])
      | false =>
        rw [← hr]
        exact hstay (by simp [resumeReelstand, hstate, hl, hr]) (by simp [standbyRead, hl, hr])
    · by_cases hp : w.state = .prepared
      · cases hr : (reelIns e r).standbyReady with
        | true =>
          rw [← hr]
          exact hstay (by simp only [resumeReelstand, hstate, hp, hr, if_true]) (by simp [standbyRead, hp, hr])
        | false =>
          rw [← hr]
          exact hgoes (st := .loaded) (by simp [resumeReelstand, hstate, hp, hr]) (by rw [hp]; rfl)
            (by simp [standbyRead, hp, hr])
      · refine hstay ?_ (by simp [standbyRead, hl, hp])
        unfold resumeReelstand
        rw [hstate]
        split
        · exact absurd (Option.some.inj ‹_›) hl
        · exact absurd (Option.some.inj ‹_›) hp
        · rfl

theorem resumeAll_frame (e : Env) (n : Nat) (z : Zone) : ∃ t, (upTo n).foldl (fun z r => resumeReelstand e r z) z = withStands t z ∧
    ∀ j, t.get? j = if 1 ≤ j ∧ j ≤ n then (z.splice.stands.get? j).map (standbyRead (reelIns e j).standbyReady)
      else z.splice.stands.get? j := by
  induction n with
  | zero => exact ⟨z.splice.stands, rfl, fun j => (if_neg (by omega)).symm⟩
  | succ n ih =>
    obtain ⟨t, ht, hget⟩ := ih
    obtain ⟨u, hu, hlast⟩ := resumeReelstand_frame e (n + 1) (withStands t z)
    refine ⟨u, ?_, fun j => ?_⟩
    · rw [upTo_succ, List.foldl_append, ht]
      exact hu
    · rw [hlast j]
      show (if j = n + 1 then Option.map _ (t.get? (n + 1)) else t.get? j) = _
      by_cases hj : j = n + 1
      · subst hj
        rw [if_pos rfl, if_pos (by omega), hget, if_neg (by omega)]
      · rw [if_neg hj, hget]
        exact if_congr (by omega) rfl rfl

/-! ### Orders re-created, calls withdrawn and reservations confirmed (R95, R115, R116) -/

theorem offer_takeAnswer_room {e : Env} (d : Nat) (a : Byte) (b : Serial) (c : Byte) {z : Zone} (he : e.station = .active)
    (hw : z.line.waiting = []) (hq : z.line.queue.length < 16) : offer e ⟨d, .takeAnswer a b c⟩ z =
      { z with line := { z.line with queue := z.line.queue ++ [⟨d, .takeAnswer a b c⟩] } } := by
  have hcalls (z : Zone) : frameAccepted e ⟨d, .takeAnswer a b c⟩ z = z := by
    have hsame : (z.supply.calls.filterMap fun x => some (x.1, x.2)) = z.supply.calls := List.filterMap_some
    exact congrArg (fun t => ({ z with supply := { z.supply with calls := t } } : Zone)) hsame
  have hf : TxFrame.isProtocol ⟨d, .takeAnswer a b c⟩ = true := rfl
  rw [offer_active he]
  simp only [offerActive, hf, if_true, hw]
  refine (if_neg (by simp)).trans ((if_pos hq).trans ?_)
  exact hcalls _

/-- The confirmation that a roll record's peer reservation gets. -/
def confirmation (e : Env) (r : Roll) : Option TxFrame :=
  r.reservation.bind fun ref =>
    if ref.station = e.own then none else some ⟨ref.station, .takeAnswer (byte ref.call) r.serial 1⟩

theorem confirmation_sent {e : Env} {r : Roll} {f : TxFrame} {z : Zone} (hf : confirmation e r = some f)
    (he : e.station = .active) (hw : z.line.waiting = []) (hq : z.line.queue.length < 16) :
    offer e f z = { z with line := { z.line with queue := z.line.queue ++ [f] } } := by
  obtain ⟨ref, -, hf⟩ := Option.bind_eq_some_iff.mp hf
  split at hf
  · exact absurd hf nofun
  · obtain rfl := Option.some.inj hf
    exact offer_takeAnswer_room _ _ _ _ he hw hq

/-- A roll record's confirmation goes out. -/
def confirmed (e : Env) (z : Zone) (x : Nat × Roll) : Zone :=
  match confirmation e x.2 with
  | some f => offer e f z
  | none => z

theorem reconfirm_fold (e : Env) (z : Zone) : reconfirm e z = z.stock.rolls.foldl (confirmed e) z := by
  unfold reconfirm
  congr 1
  funext z x
  unfold confirmed confirmation
  cases x.2.reservation with
  | none => rfl
  | some ref =>
    by_cases ho : ref.station = e.own
    · simp [ho]
    · simp [ho, takeAnswerFrame]
      rfl

theorem confirmed_all {e : Env} (he : e.station = .active) (rolls : Tbl Roll) {z : Zone} (hw : z.line.waiting = [])
    (hq : z.line.queue.length + (rolls.filterMap fun x => confirmation e x.2).length ≤ 16) :
    rolls.foldl (confirmed e) z =
      { z with line := { z.line with queue := z.line.queue ++ rolls.filterMap fun x => confirmation e x.2 } } := by
  induction rolls generalizing z with
  | nil => simp
  | cons x rolls ih =>
    rw [List.foldl_cons]
    cases hc : confirmation e x.2 with
    | none =>
      have hstep : confirmed e z x = z := by simp only [confirmed, hc]
      simp only [List.filterMap_cons, hc] at hq ⊢
      rw [hstep]
      exact ih hw hq
    | some f =>
      simp only [List.filterMap_cons, hc, List.length_cons] at hq ⊢
      have hstep : confirmed e z x = { z with line := { z.line with queue := z.line.queue ++ [f] } } := by
        simp only [confirmed, hc]
        exact confirmation_sent hc he hw (by omega)
      rw [hstep]
      refine (ih (z := { z with line := { z.line with queue := z.line.queue ++ [f] } }) hw ?_).trans (by simp)
      rw [List.length_append]
      simpa [Nat.add_assoc, Nat.add_comm 1] using hq

/-- The RECEIVE request for a loaded vehicle docked at the receiving dock, with no known call. -/
def receiveAt (d v : Nat) (serial : Serial) : OrderReq :=
  { queue := .o, origin := .receive, serial := serial, source := .dock d, dest := .anyStock, dockTrigger := some d,
    armTrigger := none, vehicle := some v, callRef := none }

theorem recreations_eq (e : Env) (z : Zone) : recreations e z =
    (z.stock.rolls.filterMap fun x => x.2.reservation.bind fun ref => (laneOfKey x.1).bind fun l =>
      if ref.station = e.own then none else some (shipRequest e .p x.2.serial (.lane l.1 l.2) ref)) ++
    (z.stock.rolls.filterMap fun x => (placeOfKey x.1).bind fun p => match p with
      | .arm r a => if x.2.state = .butt then some (buttClearRequest r a x.2.serial) else none
      | _ => none) ++
    (z.track.vehicles.filterMap fun x => e.img.receivingDock.bind fun d =>
      if x.2.loaded = true ∧ dockedAt e z x.2.number d = true then
        some (receiveAt d x.2.number (((rollAt z (.vehicle x.1)).map Roll.serial).getD 0))
      else none) := by
  refine congrArg₂ (· ++ ·) (congrArg₂ (· ++ ·) ?_ ?_) ?_ <;> refine congrArg (List.filterMap · _) ?_
  · funext ⟨k, r⟩
    cases hr : r.reservation with
    | none => simp [hr]
    | some ref =>
      cases hl : laneOfKey k with
      | none => simp [hr, hl]
      | some l => simp [hr, hl, ite_not]
  · funext ⟨k, r⟩
    cases hp : placeOfKey k with
    | none => simp [hp]
    | some p => cases p <;> simp [hp]
  · funext ⟨slot, v⟩
    cases hd : e.img.receivingDock with
    | none => rfl
    | some d => simp [receiveRequest, receiveAt, hd]

/-! ### The withdrawal of a call (R111) -/

section
variable {e : Env} {n : Need} {c : Call} {z : Zone} (hc : call? z n = some c)
include hc

theorem withdrawCall_noStock (h : c.state = .noStock) : withdrawCall e n z = freeCall n z := by
  simp only [withdrawCall, hc, h]

theorem withdrawCall_withdrawn (h : c.state = .withdrawn) : withdrawCall e n z = z := by
  simp only [withdrawCall, hc, h]

theorem withdrawCall_collecting (h : c.state = .collecting) :
    withdrawCall e n z = freeCall n (withdrawWaiting (isRollCall c.number) z) := by
  simp only [withdrawCall, hc, h]

theorem withdrawCall_taking (h : c.state = .taking) (ht : c.takeTime = none) :
    withdrawCall e n z = freeCall n (withdrawWaiting (isRollTake c.number) z) := by
  simp only [withdrawCall, hc, h, ht]
  exact if_neg nofun

theorem withdrawCall_taken (h : c.state = .taking ∧ c.takeTime ≠ none ∨ c.state = .confirmed) :
    withdrawCall e n z = sendWithdraw e c z := by
  rcases h with ⟨h, ht⟩ | h <;> simp only [withdrawCall, hc, h]
  exact if_pos (Option.isSome_iff_ne_none.mpr ht)

theorem withdrawCall_localService (h : c.state = .localService) :
    withdrawCall e n z = freeCall n (endLoadOrder e c.number (releaseOwn e c.number z)) := by
  simp only [withdrawCall, hc, h]

theorem withdrawCall_delivered (h : c.state = .delivered) : withdrawCall e n z = freeCall n (endLoadOrder e c.number z) := by
  simp only [withdrawCall, hc, h]
end

theorem sendWithdraw_chosen {e : Env} {c : Call} {o : Offer} {z : Zone} (h : c.chosen = some o) :
    sendWithdraw e c z = offer e (callWithdrawFrame o.station c.number) (setCall { c with state := .withdrawn } z) := by
  simp only [sendWithdraw, h]

theorem isRollCall_iff {n : Nat} {f : TxFrame} :
    isRollCall n f = true ↔ ∃ k u g w m, f.body = .rollCall k u g w m ∧ k.toNat = n := by
  unfold isRollCall
  split
  · rename_i k u g w m hb
    simp only [decide_eq_true_eq, hb]
    exact ⟨fun h => ⟨k, u, g, w, m, rfl, h⟩, by rintro ⟨_, _, _, _, _, hb, h⟩; cases hb; exact h⟩
  · rename_i hb
    exact ⟨nofun, fun ⟨k, u, g, w, m, h, _⟩ => absurd h (hb k u g w m)⟩

theorem isRollTake_iff {n : Nat} {f : TxFrame} :
    isRollTake n f = true ↔ ∃ k x u d, f.body = .rollTake k x u d ∧ k.toNat = n := by
  unfold isRollTake
  split
  · rename_i k x u d hb
    simp only [decide_eq_true_eq, hb]
    exact ⟨fun h => ⟨k, x, u, d, rfl, h⟩, by rintro ⟨_, _, _, _, hb, h⟩; cases hb; exact h⟩
  · rename_i hb
    exact ⟨nofun, fun ⟨k, x, u, d, h, _⟩ => absurd h (hb k x u d)⟩

/-- A frame withdrawn from the waiting list, and the call's entry free. -/
theorem freeCall_withdrawWaiting {n : Need} {p : TxFrame → Bool} {P : Body → Prop} (hp : ∀ f, p f = true ↔ P f.body) (z : Zone) :
    (freeCall n (withdrawWaiting p z)).line.waiting.Sublist z.line.waiting ∧
    ∀ f, f ∈ (freeCall n (withdrawWaiting p z)).line.waiting ↔ f ∈ z.line.waiting ∧ ¬ P f.body := by
  refine ⟨List.filter_sublist, fun f => ?_⟩
  rw [← hp f]
  exact List.mem_filter.trans (by simp)

/-! ### The load order of a withdrawn call (R111) -/

/-- A request that loads for an own call. -/
def loadsCall (e : Env) (call : Nat) (r : OrderReq) : Prop :=
  (r.origin = .localLoad ∨ r.origin = .callLoad ∨ r.origin = .receive) ∧
    ∃ ref, r.callRef = some ref ∧ ref.station = e.own ∧ ref.call = call

/-- The order that loads for an own call, ended as the carriage has it. -/
def loadOrderEnded (e : Env) (o : Order) (z : Zone) : Zone :=
  if !gripsFor z o then failOrder e o .withdrawn z
  else if armDestination o.req.dest && o.step < 6 then redirectOrder e o z
  else modOrder o.number (fun o => { o with req := { o.req with callRef := none } }) z

/-- The requests that load for an own call, as the model tells them. -/
def loadsCallB (e : Env) (call : Nat) (r : OrderReq) : Bool :=
  (r.origin = .localLoad || r.origin = .callLoad || r.origin = .receive) &&
    r.callRef.any fun ref => ref.station = e.own && ref.call = call

theorem loadsCallB_iff {e : Env} {call : Nat} {r : OrderReq} : loadsCallB e call r = true ↔ loadsCall e call r := by
  simp [loadsCallB, loadsCall, or_assoc, Option.any_eq_true]

/-- The zone without the held requests of a kind. -/
def heldWithout (p : OrderReq → Bool) (z : Zone) : Zone :=
  { z with transfer := { z.transfer with
    heldP := z.transfer.heldP.filter fun r => !p r, heldO := z.transfer.heldO.filter fun r => !p r } }

/-- The first order that loads for an own call is ended, if there is one. -/
def loadEnded (e : Env) (call : Nat) (z : Zone) : Zone :=
  match (allOrders z).find? fun o => loadsCallB e call o.req with
  | none => z
  | some o => loadOrderEnded e o z

theorem endLoadOrder_eq (e : Env) (call : Nat) (z : Zone) : endLoadOrder e call z =
    loadEnded e call ((((z.transfer.heldP ++ z.transfer.heldO).filter (loadsCallB e call)).filterMap OrderReq.vehicle).foldl
      (fun z v => z.push (.unload v)) (heldWithout (loadsCallB e call) z)) := rfl

theorem endLoadOrder_of_none_held {e : Env} {call : Nat} {z : Zone}
    (h : ∀ r ∈ z.transfer.heldP ++ z.transfer.heldO, ¬ loadsCall e call r) :
    endLoadOrder e call z = loadEnded e call z := by
  have hnone (r : OrderReq) (hr : r ∈ z.transfer.heldP ++ z.transfer.heldO) : loadsCallB e call r = false := by
    simpa [← loadsCallB_iff] using h r hr
  have hheld : heldWithout (loadsCallB e call) z = z := by
    have hP : z.transfer.heldP.filter (fun r => !loadsCallB e call r) = z.transfer.heldP :=
      List.filter_eq_self.mpr fun r hr => by simp [hnone r (List.mem_append_left _ hr)]
    have hO : z.transfer.heldO.filter (fun r => !loadsCallB e call r) = z.transfer.heldO :=
      List.filter_eq_self.mpr fun r hr => by simp [hnone r (List.mem_append_right _ hr)]
    rw [heldWithout, hP, hO]
  have hV : (z.transfer.heldP ++ z.transfer.heldO).filter (loadsCallB e call) = [] :=
    List.filter_eq_nil_iff.mpr fun r hr => by simp [hnone r hr]
  rw [endLoadOrder_eq, hV, hheld]
  rfl

section
variable {e : Env} {o : Order} {z : Zone}

theorem loadOrderEnded_failed (h : ¬ (z.transfer.carriage = .running o.number ∧ 4 ≤ o.step)) :
    loadOrderEnded e o z = failOrder e o .withdrawn z :=
  if_pos (by simp [Bool.eq_false_iff.mpr (mt gripsFor_iff.mp h)])

variable (hg : z.transfer.carriage = .running o.number ∧ 4 ≤ o.step)
include hg

theorem loadOrderEnded_redirected {r : Nat} {x : Arm} (hd : o.req.dest = .place (.arm r x)) (hs : o.step < 6) :
    loadOrderEnded e o z = redirectOrder e o z :=
  (if_neg (by simp [gripsFor_iff.mpr hg])).trans (if_pos (by simp [hd, armDestination, hs]))

theorem loadOrderEnded_kept (h : 6 ≤ o.step ∨ ∀ r x, o.req.dest ≠ .place (.arm r x)) : loadOrderEnded e o z =
    modOrder o.number (fun o => { o with req := { o.req with callRef := none } }) z := by
  refine (if_neg (by simp [gripsFor_iff.mpr hg])).trans (if_neg fun hd => ?_)
  obtain ⟨harm, hs⟩ := Bool.and_eq_true_iff.mp hd
  have hs : o.step < 6 := of_decide_eq_true hs
  rcases h with h | h
  · omega
  · unfold armDestination at harm
    split at harm
    · exact h _ _ ‹_›
    · exact absurd harm nofun
end

/-- Settles O60: block by block in the order of the restart, and the withdrawal by the state of the call. -/
theorem warmRestartResumes : Obligations.WarmRestartResumes := by
  refine ⟨?_, ?_⟩
  · intro e z track stands orders withdrawn
    refine ⟨rfl, fun k => ⟨takeDifference_empty, fun st ho hs => ⟨?_, ?_, takeDifference_read ho hs⟩⟩, fun slot v hv => ?_,
      ?_, ?_, ?_⟩
    · rintro v rfl
      exact ⟨takeDifference_kept ho hs, takeDifference_other ho hs⟩
    · rintro rfl
      exact takeDifference_blocked ho hs
    · intro on goes
      refine ⟨resumeVehicle_incoming hv, resumeVehicle_stays hv, fun d hd hg => ?_, fun hm => ⟨resumeVehicle_asks hv hm, ?_⟩, ?_⟩
      · rw [resumeVehicle_docked hv hd hg]
        split <;> rfl
      · intro c hg hc
        refine ⟨fun h => ?_, fun ho hb => ?_⟩
        · rw [resumeVehicle_moves hv hm hg, resumedPermit_on hc (h.imp_right fun h => ⟨h, rfl⟩)]
          rfl
        · rw [resumeVehicle_moves hv hm hg, resumedPermit_none hc ho hb]
          rfl
      · intro c hp hc
        refine ⟨fun h => ?_, fun ho hb => ?_⟩
        · rw [resumeVehicle_passing hv hp, resumedPermit_on hc (h.imp_right fun ⟨h, ht⟩ => ⟨h, decide_eq_true ht⟩)]
          rfl
        · rw [resumeVehicle_passing hv hp, resumedPermit_none hc ho hb]
          rfl
    · obtain ⟨t, ht, hget⟩ := resumeAll_frame e e.img.reels.length { z with splice := { z.splice with watch := [] } }
      have hall : resumeReelstands e z = withStands t { z with splice := { z.splice with watch := [] } } := ht
      rw [hall]
      refine ⟨rfl, rfl, rfl, fun r w h1 hn hw => (hget r).trans ?_⟩
      rw [if_pos ⟨h1, hn⟩]
      exact congrArg (Option.map _) hw
    · exact recreations_eq e z
    · intro answers he hw hq
      rw [reconfirm_fold]
      exact confirmed_all he z.stock.rolls hw hq
  · intro e n c z hc hn free drop leaves released
    have hleaves (h : c.state = .taking ∧ c.takeTime ≠ none ∨ c.state = .confirmed) : leaves := fun o ho => by
      rw [withdrawCall_taken hc h, sendWithdraw_chosen ho]
      subst hn
      rfl
    refine ⟨withdrawCall_noStock hc, fun h => ?_, fun h ht => ?_, fun h ht => hleaves (.inl ⟨h, ht⟩), fun h => hleaves (.inr h),
      fun h => ?_, withdrawCall_delivered hc, withdrawCall_withdrawn hc, ?_⟩
    · rw [withdrawCall_collecting hc h]
      obtain ⟨hsub, hmem⟩ := freeCall_withdrawWaiting (n := n) (p := isRollCall c.number)
        (P := fun f => ∃ k u g w m, f = .rollCall k u g w m ∧ k.toNat = c.number) (fun _ => isRollCall_iff) z
      exact ⟨hsub, hmem, rfl⟩
    · rw [withdrawCall_taking hc h ht]
      obtain ⟨hsub, hmem⟩ := freeCall_withdrawWaiting (n := n) (p := isRollTake c.number)
        (P := fun f => ∃ k x u d, f = .rollTake k x u d ∧ k.toNat = c.number) (fun _ => isRollTake_iff) z
      exact ⟨hsub, hmem, rfl⟩
    · rw [withdrawCall_localService hc h]
      refine congrArg (fun z => freeCall n (endLoadOrder e c.number z)) ?_
      show releaseOwn e c.number z = released
      unfold released releaseOwn reservationKey
      cases z.stock.rolls.find? fun x => x.2.reservation.any fun r => r.station = e.own && r.call = c.number <;> rfl
    · intro serves hheld
      have hended := endLoadOrder_of_none_held hheld
      refine ⟨fun hnone => ?_, fun o before after hall ho hbefore => ?_⟩
      · have hfound : (allOrders z).find? (fun o => loadsCallB e c.number o.req) = none :=
          List.find?_eq_none.mpr fun o hmem h => hnone o hmem (loadsCallB_iff.mp h)
        rw [hended, loadEnded, hfound]
      · have hfound : (allOrders z).find? (fun o => loadsCallB e c.number o.req) = some o :=
          List.find?_eq_some_iff_append.mpr ⟨loadsCallB_iff.mpr ho, before, after, hall, fun x hx => by
            simpa using mt loadsCallB_iff.mp (hbefore x hx)⟩
        rw [loadEnded, hfound] at hended
        intro gripped
        exact ⟨fun h => hended.trans (loadOrderEnded_failed h),
          fun r x hg hd hs => hended.trans (loadOrderEnded_redirected hg hd hs),
          fun hg h => hended.trans (loadOrderEnded_kept hg h)⟩

end Sys2Proof.Machine

/-! PROOF. Carriage-done (R72, R79): what the end of a TRAVEL, a PICK and a SET does, and what a PICK and a SET move
(R54, R58, R82, R85, R136, R137). -/

namespace Sys2Proof.Machine

/-! ### What a lane shows (R54, R58) -/

theorem heldPositions_empty_iff {z : Zone} {l n : Nat} :
    (heldPositions z l n).length = 0 ↔ ¬ ∃ p, 1 ≤ p ∧ p ≤ n ∧ rollAt z (.lane l p) ≠ none := by
  rw [List.length_eq_zero_iff, heldPositions, List.filter_eq_nil_iff]
  constructor
  · rintro h ⟨p, h1, hn, hp⟩
    exact h p (mem_upTo.mpr ⟨h1, hn⟩) (Option.isSome_iff_ne_none.mpr hp)
  · rintro h p hp hsome
    obtain ⟨h1, hn⟩ := mem_upTo.mp hp
    exact h ⟨p, h1, hn, Option.isSome_iff_ne_none.mp hsome⟩

theorem heldPositions_full_iff {z : Zone} {l n : Nat} :
    (heldPositions z l n).length = n ↔ ∀ p, 1 ≤ p → p ≤ n → rollAt z (.lane l p) ≠ none := by
  have hlen : (upTo n).length = n := by simp [upTo]
  have hall := List.length_filter_eq_length_iff (l := upTo n) (p := fun p => (rollAt z (.lane l p)).isSome)
  rw [hlen] at hall
  refine hall.trans ⟨fun h p h1 hn => Option.isSome_iff_ne_none.mp (h p (mem_upTo.mpr ⟨h1, hn⟩)), fun h p hp => ?_⟩
  obtain ⟨h1, hn⟩ := mem_upTo.mp hp
  exact Option.isSome_iff_ne_none.mpr (h p h1 hn)

/-- One position of a THROUGH lane shifts toward position 1. -/
def shiftPosition (l : Nat) (z : Zone) (p : Nat) : Zone :=
  if p = 1 then z
  else
    match rollAt z (.lane l p), rollAt z (.lane l (p - 1)) with
    | some r, none => setRoll (.lane l (p - 1)) r (eraseRoll (.lane l p) z)
    | _, _ => z

theorem shiftLane_eq (e : Env) (l : Nat) (z : Zone) :
    shiftLane e l z = (upTo (lanePositions e l)).foldl (shiftPosition l) z := rfl

theorem shiftPosition_empty {l p : Nat} {z : Zone} (h : rollAt z (.lane l p) = none) : shiftPosition l z p = z := by
  unfold shiftPosition
  rw [h]
  split <;> rfl

theorem shiftPosition_moves {l p : Nat} {z : Zone} {r : Roll} (h : rollAt z (.lane l (p + 2)) = some r)
    (hf : rollAt z (.lane l (p + 1)) = none) :
    shiftPosition l z (p + 2) = setRoll (.lane l (p + 1)) r (eraseRoll (.lane l (p + 2)) z) := by
  refine (if_neg (by omega)).trans ?_
  rw [show p + 2 - 1 = p + 1 from rfl, h, hf]

/-- The first positions of a lane have shifted: each holds the next one's record, and the last of them none. -/
structure ShiftedTo (l n : Nat) (z t : Zone) : Prop where
  inner : ∀ p, 1 ≤ p → p < n → rollAt t (.lane l p) = rollAt z (.lane l (p + 1))
  last : rollAt t (.lane l n) = none
  others : ∀ k, (∀ p, 1 ≤ p → p ≤ n → k ≠ (Place.lane l p).key) → t.stock.rolls.get? k = z.stock.rolls.get? k

theorem ShiftedTo.step {l n : Nat} {z t : Zone} (h : ShiftedTo l (n + 1) z t) (hn : n + 2 < 16) :
    ShiftedTo l (n + 2) z (shiftPosition l t (n + 2)) := by
  obtain ⟨hinner, hlast, hothers⟩ := h
  have hnext : rollAt t (.lane l (n + 2)) = rollAt z (.lane l (n + 2)) :=
    hothers _ fun p _ hp => lane_key_ne (by omega) (by omega) (by omega)
  cases hr : rollAt z (.lane l (n + 2)) with
  | none =>
    rw [shiftPosition_empty (hnext.trans hr)]
    refine ⟨fun p h1 hp => ?_, hnext.trans hr, fun k hk => hothers k fun p h1 hp => hk p h1 (by omega)⟩
    rcases Nat.lt_or_ge p (n + 1) with hlt | hge
    · exact hinner p h1 hlt
    · obtain rfl : p = n + 1 := by omega
      exact hlast.trans hr.symm
  | some r =>
    rw [shiftPosition_moves (hnext.trans hr) hlast]
    have hkey : (Place.lane l (n + 2)).key ≠ (Place.lane l (n + 1)).key := lane_key_ne (by omega) (by omega) (by omega)
    refine ⟨fun p h1 hp => ?_, ?_, fun k hk => ?_⟩
    · rcases Nat.lt_or_ge p (n + 1) with hlt | hge
      · rw [rollAt_setRoll_ne (lane_key_ne (by omega) (by omega) (by omega)),
          rollAt_eraseRoll_ne (lane_key_ne (by omega) (by omega) (by omega))]
        exact hinner p h1 hlt
      · obtain rfl : p = n + 1 := by omega
        rw [rollAt_setRoll_same, hr]
    · rw [rollAt_setRoll_ne hkey, rollAt_eraseRoll_same]
    · have h1 := hk (n + 1) (by omega) (by omega)
      have h2 := hk (n + 2) (by omega) (by omega)
      simp only [setRoll, eraseRoll, Tbl.get?_set, Tbl.get?_erase, h1, h2, if_false]
      exact hothers k fun p h1 hp => hk p h1 (by omega)

theorem shifted {l : Nat} {z : Zone} (h : rollAt z (.lane l 1) = none) (n : Nat) (hn : n + 1 < 16) :
    ShiftedTo l (n + 1) z ((upTo (n + 1)).foldl (shiftPosition l) z) := by
  induction n with
  | zero => exact ⟨fun p h1 hp => by omega, h, fun k _ => rfl⟩
  | succ n ih =>
    rw [upTo_succ, List.foldl_append]
    exact (ih (by omega)).step hn

/-! ### What a move does (R51) -/

theorem moveRoll_from {e : Env} {src dst : Place} {x : Serial} {f : Roll → Roll} {z : Zone} {r : Roll}
    (hdst : rollAt z dst = none) (hsrc : rollAt z src = some r) : moveRoll e src dst x f z =
      (setRoll dst (f r) (eraseRoll src (if r.serial = x then z
        else raiseMismatch e src [.place src, .serial x, .serial r.serial] z)), .moved r.serial) := by
  simp only [moveRoll, hdst, hsrc]

theorem moveRoll_occupied {e : Env} {src dst : Place} {x : Serial} {f : Roll → Roll} {z : Zone} {d : Roll}
    (hdst : rollAt z dst = some d) : moveRoll e src dst x f z =
      (raiseMismatch e dst [.place dst, .serial x, .serial d.serial] z, .occupied) := by
  simp only [moveRoll, hdst]

section
variable {e : Env} {src dst : Place} {x : Serial} {f : Roll → Roll} {z : Zone} (hdst : rollAt z dst = none)
  (hsrc : rollAt z src = none)
include hdst hsrc

theorem moveRoll_unseen (hd : sourceDetector e src = false) : moveRoll e src dst x f z =
    (raiseMismatch e src [.place src, .serial x, .serial 0] z, .nothing) := by
  simp only [moveRoll, hdst, hsrc, hd]
  exact if_neg nofun

theorem moveRoll_seen (hd : sourceDetector e src = true) : moveRoll e src dst x f z =
    (setRoll dst (f (unidentified .inTransfer)) (raiseMismatch e src [.place src, .serial x, .serial 0] z), .moved 0) := by
  simp only [moveRoll, hdst, hsrc, hd, if_true]
end

/-! ### The end of a PICK (R82) -/

/-- A record is on the carriage, and its order has its serial. -/
def picked (n : Nat) (src : Place) (r : Roll) (z : Zone) : Zone :=
  modOrder n (fun o => { o with serial := r.serial }) (setRoll .carriage { r with state := .inTransfer } (eraseRoll src z))

/-- The carriage goes on to the destination from a source that shows what is left. -/
def onward (e : Env) (o : Order) (z : Zone) : Zone := beginLeg2 e o.number o.req.dest (sourceLeft e o z)

theorem pickCompleted_no_place {e : Env} {o : Order} {z : Zone} (h : tablePlace z o (sourcePlace e o) = none) :
    pickCompleted e o z = failUnderrun e o z := by
  simp only [pickCompleted, h]

section
variable {e : Env} {o : Order} {z : Zone} {src : Place} (hsrc : tablePlace z o (sourcePlace e o) = some src)
include hsrc

theorem pickCompleted_occupied {d : Roll} (h : rollAt z .carriage = some d) : pickCompleted e o z =
    failUnderrun e o (raise e .mismatch [.place .carriage, .serial o.serial, .serial d.serial] z) := by
  simp only [pickCompleted, hsrc, moveRoll_occupied h]
  rfl

variable (hc : rollAt z .carriage = none)
include hc

theorem pickCompleted_same {r : Roll} (hr : rollAt z src = some r) (hs : r.serial = o.serial) :
    pickCompleted e o z = onward e o (picked o.number src r z) := by
  simp only [pickCompleted, hsrc, moveRoll_from hc hr, if_pos hs]
  rfl

theorem pickCompleted_other {r : Roll} (hr : rollAt z src = some r) (hs : r.serial ≠ o.serial) :
    pickCompleted e o z = onward e o (failRobbed e o.number r.serial (picked o.number src r
      (raiseMismatch e src [.place src, .serial o.serial, .serial r.serial] z))) := by
  simp only [pickCompleted, hsrc, moveRoll_from hc hr, if_neg hs]
  rfl

theorem pickCompleted_nothing (hr : rollAt z src = none) (hd : sourceDetector e src = false) :
    pickCompleted e o z = failUnderrun e o (raiseMismatch e src [.place src, .serial o.serial, .serial 0] z) := by
  simp only [pickCompleted, hsrc, moveRoll_unseen hc hr hd]

theorem pickCompleted_seen (hr : rollAt z src = none) (hd : sourceDetector e src = true) :
    pickCompleted e o z = onward e o (modOrder o.number (fun o => { o with serial := 0 })
      (setRoll .carriage (unidentified .inTransfer) (raiseMismatch e src [.place src, .serial o.serial, .serial 0] z))) := by
  simp only [pickCompleted, hsrc, moveRoll_seen hc hr hd]
  refine congrArg (onward e o) ?_
  split
  · rfl
  · exact if_pos rfl
end

theorem failRobbed_none {e : Env} {n : Nat} {x : Serial} {z : Zone}
    (h : x = 0 ∨ ∀ y ∈ allOrders z, y.number = n ∨ y.serial ≠ x) : failRobbed e n x z = z := by
  by_cases hx : x = 0
  · exact if_pos hx
  · have hnone : (allOrders z).filter (fun y => y.number ≠ n && y.serial = x) = [] :=
      List.filter_eq_nil_iff.mpr fun y hy => by simpa [Classical.or_iff_not_imp_left] using (h.resolve_left hx) y hy
    refine (if_neg hx).trans ?_
    rw [hnone, List.foldl_nil]

theorem failRobbed_one {e : Env} {n : Nat} {x : Serial} {z : Zone} {y : Order} (hx : x ≠ 0)
    (h : (allOrders z).filter (fun y => y.number ≠ n ∧ y.serial = x) = [y]) : failRobbed e n x z = failUnderrun e y z := by
  have hone : (allOrders z).filter (fun y => y.number ≠ n && y.serial = x) = [y] := by
    rw [← h]
    exact List.filter_congr fun y _ => by simp
  refine (if_neg hx).trans ?_
  rw [hone, List.foldl_cons, List.foldl_nil]

/-! ### What the source shows after a PICK (R82, R137) -/

theorem sourceLeft_lane {e : Env} {o : Order} {l p : Nat} (z : Zone) (h : sourcePlace e o = .lane l p) :
    sourceLeft e o z = laneLeft e l (if laneMode? e l = some .through then shiftLane e l z else z) := by
  simp only [sourceLeft, h]

theorem sourceLeft_arm {e : Env} {o : Order} {r : Nat} {x : Arm} (z : Zone) (h : sourcePlace e o = .arm r x) :
    sourceLeft e o z = recordLeft e r x z := by
  simp only [sourceLeft, h]

theorem sourceLeft_dock {e : Env} {o : Order} {d slot : Nat} {v : Vehicle} {z : Zone} (h : sourcePlace e o = .dock d)
    (hv : o.vehicle.bind (findVehicle z) = some (slot, v)) : sourceLeft e o z =
      (modVehicle slot (fun v => { v with loaded := false }) z).push (.offerVehicle v.number .emptied) := by
  simp only [sourceLeft, h, hv]

theorem recordLeft_eq {e : Env} {r : Nat} {x : Arm} {z : Zone} {w : Splice} (hw : splice? z r = some w) :
    recordLeft e r x z = if (w.state = .loaded ∨ w.state = .prepared) ∧ w.running ≠ some x then
      modSplice r (fun w => { w with inhibited := false, state := .single }) (withdrawButtClear r x z)
    else withdrawButtClear r x z := by
  have hw' : splice? (withdrawButtClear r x z) r = some w := hw
  simp only [recordLeft, hw']
  refine if_ctx_congr .rfl (fun h => ?_) fun _ => rfl
  have hsplicing : w.state.splicing = false := by rcases h.1 with h | h <;> rw [h] <;> rfl
  have hcleared : splice? (modSplice r (fun s => { s with inhibited := false }) (withdrawButtClear r x z)) r =
      some { w with inhibited := false } := by rw [splice?_modSplice, hw']; rfl
  rw [setSpliceState_of_plain hcleared (.inl hsplicing), modSplice_modSplice]

/-! ### The second leg (R76, R83) -/

theorem beginLeg2_found {e : Env} {n : Nat} {d : Dest} {z : Zone} {p : Place} (h : targetOf e z d = some p) :
    beginLeg2 e n d z = command .travel p (modOrder n (fun o =>
      { o with target := some p, step := 4, stepStart := e.now, holding := false, overrunRaised := false }) z) := by
  simp only [beginLeg2, h, beginStep]
  rw [modOrder_modOrder]
  exact fun _ => rfl

theorem beginLeg2_none {e : Env} {n : Nat} {d : Dest} {z : Zone} (h : targetOf e z d = none) :
    beginLeg2 e n d z = withdrawCommand (modOrder n (fun o =>
      { o with target := none, step := 5, stepStart := e.now, holding := false, overrunRaised := false }) z) := by
  simp only [beginLeg2, h, beginStep]
  rw [modOrder_modOrder]
  · rfl
  · exact fun _ => rfl

/-! ### The end of a SET (R85) -/

/-- The move from the carriage has its fault where another roll than the order's is gripped. -/
def gripTold (e : Env) (o : Order) (r : Roll) (z : Zone) : Zone :=
  if r.serial = o.serial then z else raise e .mismatch [.place .carriage, .serial o.serial, .serial r.serial] z

/-- The gripped record, as a move makes it, stands at a place. -/
def setAt (e : Env) (o : Order) (r : Roll) (q : Place) (y : Roll) (z : Zone) : Zone :=
  setRoll q y (eraseRoll .carriage (gripTold e o r z))

/-- A reservation released by the move asks for the restock check. -/
def reservationGone (r : Roll) (z : Zone) : Zone := if r.reservation = none then z else z.push .restock

/-- The record that a SET found no place for is gone with the carriage's reservation. -/
def gripGone (z : Zone) : Zone := eraseRoll .carriage (releaseCarried z)

/-- The end of a SET into a place that holds a record. -/
def setRefused (e : Env) (o : Order) (q : Place) (y : Roll) (z : Zone) : Zone :=
  gripGone (failOrder e o .underrun (raiseMismatch e q [.place q, .serial o.serial, .serial y.serial] z))

section
variable {e : Env} {o : Order} {z : Zone} {p : Place} (hp : o.target = some p)
include hp

theorem setCompleted_done {t : Zone} {x : Serial} (h : setDown e o p z = (t, .moved x)) : setCompleted e o z = endDone o t := by
  simp only [setCompleted, hp, h]

theorem setCompleted_occupied {q : Place} {y : Roll}
    (h : setDown e o p z = (raiseMismatch e q [.place q, .serial o.serial, .serial y.serial] z, .occupied)) :
    setCompleted e o z = setRefused e o q y z := by
  simp only [setCompleted, hp, h]
  rfl
end

section
variable {e : Env} {o : Order} {z : Zone} {q : Place} {r : Roll} {f : Roll → Roll}

theorem setReleased_occupied {y : Roll} (hq : rollAt z q = some y) : setReleased e o q f z =
    (raiseMismatch e q [.place q, .serial o.serial, .serial y.serial] z, .occupied) := by
  simp only [setReleased, moveRoll_occupied hq]

theorem setReleased_free (hr : rollAt z .carriage = some r) (hq : rollAt z q = none) : setReleased e o q f z =
    (reservationGone r (setAt e o r q (f { r with reservation := none }) z), .moved r.serial) := by
  simp only [setReleased, moveRoll_from hq hr, hr, Option.any_some]
  cases hres : r.reservation with
  | none =>
    refine Prod.ext ?_ rfl
    simp only [reservationGone, hres, if_true]
    exact if_neg nofun
  | some ref =>
    refine Prod.ext ?_ rfl
    simp only [reservationGone, hres, reduceCtorEq, if_false]
    exact if_pos rfl
end

theorem laneState_eq (e : Env) (l : Nat) (r : Roll) : laneState e l r =
    if laneRole? e l = some .butt then .butt else if r.reservation = none then .stock else .reserved := by
  unfold laneState
  split
  · rename_i hb
    exact (if_pos hb).symm
  · rename_i hb
    refine Eq.trans ?_ (if_neg hb).symm
    cases r.reservation <;> rfl

section
variable {e : Env} {o : Order} {z : Zone} {l q : Nat}

theorem setDown_lane_occupied {y : Roll} (hq : rollAt z (.lane l q) = some y) : setDown e o (.lane l q) z =
    (raiseMismatch e (.lane l q) [.place (.lane l q), .serial o.serial, .serial y.serial] z, .occupied) := by
  simp only [setDown, setIntoLane, setReleased_occupied hq, moveRoll_occupied hq, ite_self]

variable {r : Roll} (hr : rollAt z .carriage = some r) (hq : rollAt z (.lane l q) = none)
include hr hq

theorem setDown_lane_reserved (ho : o.req.origin = .operator ∨ o.req.origin = .buttClear) : setDown e o (.lane l q) z =
    (laneEntered e l (setAt e o r (.lane l q) { r with state := laneState e l r } z), .moved r.serial) := by
  simp only [setDown, setIntoLane, if_pos ho, moveRoll_from hq hr]
  rfl

theorem setDown_lane_released (ho : ¬ (o.req.origin = .operator ∨ o.req.origin = .buttClear)) : setDown e o (.lane l q) z =
    (laneEntered e l (reservationGone r (setAt e o r (.lane l q)
      { r with reservation := none, state := laneState e l { r with reservation := none } } z)), .moved r.serial) := by
  simp only [setDown, setIntoLane, if_neg ho, setReleased_free hr hq]
end

section
variable {e : Env} {o : Order} {z : Zone} {n : Nat} {x : Arm}

theorem setDown_arm_occupied {y : Roll} (hq : rollAt z (.arm n x) = some y) : setDown e o (.arm n x) z =
    (raiseMismatch e (.arm n x) [.place (.arm n x), .serial o.serial, .serial y.serial] z, .occupied) := by
  simp only [setDown, setReleased_occupied hq]

theorem setDown_arm {r : Roll} (hr : rollAt z .carriage = some r) (hq : rollAt z (.arm n x) = none) :
    setDown e o (.arm n x) z = (rollSet e n x (ownLoad e z o n) (reservationGone r (setAt e o r (.arm n x)
      { r with reservation := none, state := .standby } z)), .moved r.serial) := by
  simp only [setDown, setReleased_free hr hq]
end

section
variable {e : Env} {o : Order} {z : Zone} {d : Nat} {c : DockCfg} (hd : e.img.dock? d = some c)
include hd

theorem setDown_scrap (h : c.role = .scrap) : setDown e o (.dock d) z = (gripGone z, .moved o.serial) := by
  simp only [setDown, hd, Option.any_some]
  exact if_pos (decide_eq_true h)

variable (h : c.role ≠ .scrap)
include h

theorem setDown_vehicle_gone (hv : o.vehicle.bind (findVehicle z) = none) :
    setDown e o (.dock d) z = (gripGone z, .moved o.serial) := by
  have hslot : orderSlot z o = none := by rw [orderSlot, hv]; rfl
  simp only [setDown, hd, Option.any_some, hslot]
  exact if_neg (by simpa using h)

variable {slot : Nat} {v : Vehicle} (hv : o.vehicle.bind (findVehicle z) = some (slot, v))
include hv

theorem setDown_vehicle_occupied {y : Roll} (hq : rollAt z (.vehicle slot) = some y) : setDown e o (.dock d) z =
    (raiseMismatch e (.vehicle slot) [.place (.vehicle slot), .serial o.serial, .serial y.serial] z, .occupied) := by
  have hslot : orderSlot z o = some slot := by rw [orderSlot, hv]; rfl
  simp only [setDown, hd, Option.any_some, hslot, setReleased_occupied hq]
  exact if_neg (by simpa using h)

theorem setDown_vehicle {r : Roll} (hr : rollAt z .carriage = some r) (hq : rollAt z (.vehicle slot) = none) :
    setDown e o (.dock d) z = (startVehicle e slot (loadedPurpose e o) (reservationGone r (setAt e o r (.vehicle slot)
      { r with reservation := none, state := .shipping } z)), .moved r.serial) := by
  have hslot : orderSlot z o = some slot := by rw [orderSlot, hv]; rfl
  simp only [setDown, hd, Option.any_some, hslot, setReleased_free hr hq]
  exact if_neg (by simpa using h)
end

theorem ownLoad_iff {e : Env} {z : Zone} {o : Order} {n : Nat} : ownLoad e z o n = true ↔
    (o.req.origin = .callLoad ∨ o.req.origin = .localLoad) ∧ ∃ ref c, o.req.callRef = some ref ∧ ref.station = e.own ∧
      z.supply.calls.get? (Need.runout n).key = some c ∧ c.number = ref.call := by
  simp only [ownLoad, Bool.and_eq_true, Bool.or_eq_true, decide_eq_true_eq, Option.any_eq_true]
  refine and_congr_right fun _ => ?_
  constructor
  · rintro ⟨ref, hr, hs, c, hc, hn⟩
    exact ⟨ref, c, hr, hs, hc, hn⟩
  · rintro ⟨ref, c, hr, hs, hc, hn⟩
    exact ⟨ref, hr, hs, c, hc, hn⟩

/-! ### A roll set on an arm (R136) -/

theorem Tbl.set_self {α : Type} {t : Tbl α} {k : Nat} {v : α} (hs : t.sorted = true) (h : t.get? k = some v) : t.set k v = t := by
  induction t with
  | nil => exact absurd h nofun
  | cons x t ih =>
    obtain ⟨a, b⟩ := x
    obtain ⟨hall, hs⟩ := Bool.and_eq_true_iff.mp hs
    by_cases hk : k = a
    · subst hk
      obtain rfl : b = v := by simpa [Tbl.get?] using h
      simp [Tbl.set]
    · have ht : Tbl.get? t k = some v := by simpa [Tbl.get?, hk] using h
      have hlt : a < k := by simpa using List.all_eq_true.mp hall (k, v) (Tbl.mem_of_get? ht)
      simp [Tbl.set, hk, Nat.lt_asymm hlt, ih hs ht]

/-- A standby roll set as STANDBY leaves the table as it is. -/
theorem setArmState_kept {e : Env} {r : Nat} {x : Arm} {z : Zone} {k : Roll} (hk : rollAt z (.arm r x) = some k)
    (hs : z.stock.rolls.sorted = true) : setArmState e r x k.state z = z := by
  rw [setArmState_of_roll hk]
  have hset : z.stock.rolls.set (Place.arm r x).key k = z.stock.rolls := Tbl.set_self hs hk
  exact congrArg (fun t => ({ z with stock := { z.stock with rolls := t } } : Zone)) hset

section
variable {e : Env} {r : Nat} {x : Arm} {z : Zone} {w : Splice} (hw : splice? z r = some w)
include hw

theorem rollOnArm_empty (h : w.state = .empty) : rollOnArm e r x z = threadRunning e r x z := by
  simp only [rollOnArm, hw]
  exact if_pos h

variable {k : Roll} (hk : rollAt z (.arm r x) = some k) (hstate : k.state = .standby) (hs : z.stock.rolls.sorted = true)
include hk hstate hs

theorem rollOnArm_kept (he : w.state ≠ .empty) (h : w.state ≠ .single ∨ w.running = some x) : rollOnArm e r x z = z := by
  have hkept := setArmState_kept (e := e) hk hs
  rw [hstate] at hkept
  simp only [rollOnArm, hw]
  refine (if_neg he).trans ((if_neg fun ⟨h1, h2⟩ => h.elim (absurd h1) h2).trans hkept)

theorem rollOnArm_loads (h : w.state = .single) (hr : w.running ≠ some x) : rollOnArm e r x z =
    if (reelIns e r).standbyReady then
      evalSplice e r (modSplice r (fun w => { w with inhibited := false, state := .prepared }) z)
    else modSplice r (fun w => { w with inhibited := false, state := .loaded }) z := by
  have hkept := setArmState_kept (e := e) hk hs
  rw [hstate] at hkept
  have hcleared : splice? (modSplice r (fun s => { s with inhibited := false }) z) r = some { w with inhibited := false } := by
    rw [splice?_modSplice, hw]; rfl
  have hloaded : setSpliceState e r .loaded (modSplice r (fun s => { s with inhibited := false }) z) =
      modSplice r (fun w => { w with inhibited := false, state := .loaded }) z := by
    rw [setSpliceState_of_plain hcleared (.inl (congrArg SpliceState.splicing h)), modSplice_modSplice]
  have hprepared : setSpliceState e r .prepared (modSplice r (fun w => { w with inhibited := false, state := .loaded }) z) =
      modSplice r (fun w => { w with inhibited := false, state := .prepared }) z := by
    have hw' : splice? (modSplice r (fun w => { w with inhibited := false, state := .loaded }) z) r =
        some { w with inhibited := false, state := .loaded } := by rw [splice?_modSplice, hw]; rfl
    rw [setSpliceState_of_plain hw' (.inl rfl), modSplice_modSplice]
  simp only [rollOnArm, hw]
  refine (if_neg (by rw [h]; nofun)).trans ((if_pos ⟨h, hr⟩).trans ?_)
  rw [becomeLoaded, hkept, hloaded, enterPrepared, hprepared]
end

/-! ### Carriage-done taken (R72, R79) -/

/-- The carriage inputs as carriage-done has risen at a place. -/
def carriageInputs (place : Option Place) (z : Zone) : Zone :=
  { z with transfer := { z.transfer with doneInput := true, placeInput := place } }

section
variable {place : Option Place} {s : State}

theorem carriageRose_level (h : s.zone.transfer.doneInput = true ∨ s.isActive = false) :
    s.carriageRose place = { s with zone := carriageInputs place s.zone } := by
  unfold State.carriageRose
  by_cases hd : s.zone.transfer.doneInput = true
  · exact if_pos hd
  · refine (if_neg hd).trans (whenActive_idle (s := { s with zone := carriageInputs place s.zone }) ?_ _)
    exact h.resolve_left hd

theorem carriageRose_done (hd : s.zone.transfer.doneInput = false) (ha : s.isActive = true) :
    s.carriageRose place = s.endEvent (carriageDone s.env (carriageInputs place s.zone)) := by
  have hd' : ¬ s.zone.transfer.doneInput = true := by simp [hd]
  unfold State.carriageRose
  exact (if_neg hd').trans (whenActive_active (s := { s with zone := carriageInputs place s.zone }) ha _)

theorem exec_carriage {c : Instr} (h : c = .travelComplete place ∨ c = .pickComplete place ∨ c = .setComplete place) :
    exec c s = .next (s.carriageRose place) := by
  rcases h with rfl | rfl | rfl <;> rfl
end

theorem carriageDone_idle {e : Env} {z : Zone} (h : runningOrder z = none) : carriageDone e z = z := by
  simp only [carriageDone, h]

section
variable {e : Env} {z : Zone} {o : Order} (ho : runningOrder z = some o)
include ho

theorem carriageDone_travel (h : o.step = 1 ∨ o.step = 4) :
    carriageDone e z = beginStep e o.number (o.step + 1) (withdrawCommand z) := by
  rcases h with h | h <;> simp only [carriageDone, ho, h]

theorem carriageDone_pick (h : o.step = 3) : carriageDone e z = pickCompleted e o (withdrawCommand z) := by
  simp only [carriageDone, ho, h]

theorem carriageDone_set (h : o.step = 6) : carriageDone e z = setCompleted e o (withdrawCommand z) := by
  simp only [carriageDone, ho, h]

theorem carriageDone_wait (h : o.step = 2 ∨ o.step = 5) : carriageDone e z = withdrawCommand z := by
  rcases h with h | h <;> simp only [carriageDone, ho, h]
end

/-- A record taken from a PICK lane goes to the carriage, and the lane's notices follow. -/
theorem pickCompleted_lane {e : Env} {o : Order} {z : Zone} {l p : Nat} {r : Roll} (hp : sourcePlace e o = .lane l p)
    (hm : laneMode? e l = some .pick) (hc : rollAt z .carriage = none) (hr : rollAt z (.lane l p) = some r)
    (hs : r.serial = o.serial) : pickCompleted e o z =
      beginLeg2 e o.number o.req.dest (laneLeft e l (picked o.number (.lane l p) r z)) := by
  have hsrc : tablePlace z o (sourcePlace e o) = some (.lane l p) := by rw [hp]; rfl
  have hpick : ¬ laneMode? e l = some .through := by rw [hm]; nofun
  rw [pickCompleted_same hsrc hc hr hs, onward, sourceLeft_lane _ hp, if_neg hpick]

theorem gripTold_same {e : Env} {o : Order} {r : Roll} {z : Zone} (h : r.serial = o.serial) : gripTold e o r z = z := if_pos h

/-- A record of the order set into a lane for the operator enters it in the lane's state. -/
theorem setCompleted_lane {e : Env} {o : Order} {z : Zone} {l p : Nat} {r : Roll} (ht : o.target = some (.lane l p))
    (ho : o.req.origin = .operator) (hp : rollAt z (.lane l p) = none) (hr : rollAt z .carriage = some r)
    (hs : r.serial = o.serial) : setCompleted e o z =
      endDone o (laneEntered e l (setRoll (.lane l p) { r with state := laneState e l r } (eraseRoll .carriage z))) := by
  rw [setCompleted_done ht (setDown_lane_reserved hr hp (.inl ho)), setAt, gripTold_same hs]

theorem sourcePlace_lane {e : Env} {o : Order} {l p : Nat} (h : o.req.source = .lane l p) :
    sourcePlace e o = .lane l (if laneMode? e l = some .through then 1 else p) := by
  simp only [sourcePlace, h]
  split <;> rfl

/-- The place of the roll table at which an order's PICK is made. -/
def pickPlace (e : Env) (o : Order) (z : Zone) : Option Place :=
  match sourcePlace e o with
  | .dock _ => (o.vehicle.bind (findVehicle z)).map fun x => Place.vehicle x.1
  | p => some p

theorem tablePlace_source (e : Env) (o : Order) (z : Zone) : tablePlace z o (sourcePlace e o) = pickPlace e o z := by
  unfold pickPlace
  cases sourcePlace e o with
  | dock d => exact Option.map_map ..
  | lane l p => rfl
  | arm r x => rfl
  | vehicle k => rfl
  | carriage => rfl

theorem sourceDetector_tablePlace {e : Env} {o : Order} {z : Zone} {p src : Place} (h : tablePlace z o p = some src) :
    sourceDetector e src = sourceDetector e p := by
  cases p with
  | dock d =>
    obtain ⟨slot, -, rfl⟩ := Option.map_eq_some_iff.mp h
    rfl
  | lane l q => cases h; rfl
  | arm r x => cases h; rfl
  | vehicle k => cases h; rfl
  | carriage => cases h; rfl

/-- Settles O42: carriage-done by the step of the running order, then what a PICK moves and shows, what a THROUGH lane
shifts, where the second leg goes, and what a SET puts down by its place. -/
theorem carriageDoneTaken : Obligations.CarriageDoneTaken := by
  refine ⟨?_, ?_, ?_, ?_, ?_, ?_, ?_⟩
  · intro c place s hc z off e
    have hexec := exec_carriage (s := s) hc
    refine ⟨fun h => hexec.trans (congrArg _ (carriageRose_level h)), fun hd ha => ?_⟩
    have hdone {t : Zone} (h : carriageDone e z = t) : exec c s = .next (s.endEvent t) :=
      hexec.trans ((congrArg _ (carriageRose_done hd ha)).trans (event_congr h))
    refine ⟨fun h => hdone (carriageDone_idle h), fun o ho => ⟨fun h => hdone (carriageDone_travel ho h),
      fun h => hdone (carriageDone_pick ho h), fun h => hdone (carriageDone_set ho h), ?_, ?_,
      fun h => hdone (carriageDone_wait ho h)⟩⟩
    · exact fun h l p r hp hm hcar hr hs =>
        hdone ((carriageDone_pick ho h).trans (pickCompleted_lane (z := off) hp hm hcar hr hs))
    · exact fun h l p r ht hop hp hr hs =>
        hdone ((carriageDone_set ho h).trans (setCompleted_lane (z := off) ht hop hp hr hs))
  · intro e o z place at' shown t picked onward
    have hat : tablePlace z o (sourcePlace e o) = at' := tablePlace_source e o z
    refine ⟨fun l p h => sourcePlace_lane h, fun h => pickCompleted_no_place (hat.trans h),
      fun src d h hd => pickCompleted_occupied (hat.trans h) hd, fun src h hc => ⟨?_, ?_, fun hr => ⟨?_, ?_⟩⟩⟩
    · exact fun r hr hs => pickCompleted_same (hat.trans h) hc hr hs
    · intro r hr hs m
      have hother : t = Machine.onward e o (failRobbed e o.number r.serial m) := pickCompleted_other (hat.trans h) hc hr hs
      exact ⟨fun hnone => hother.trans (congrArg (Machine.onward e o) (failRobbed_none hnone)),
        fun x hx hone => hother.trans (congrArg (Machine.onward e o) (failRobbed_one hx hone))⟩
    · exact fun hd => pickCompleted_nothing (hat.trans h) hc hr ((sourceDetector_tablePlace (hat.trans h)).trans hd)
    · exact fun hd => pickCompleted_seen (hat.trans h) hc hr ((sourceDetector_tablePlace (hat.trans h)).trans hd)
  · intro e o z
    refine ⟨fun l p h => sourceLeft_lane z h, fun r x w h hw => ?_, fun d slot v h hv => sourceLeft_dock h hv⟩
    exact (sourceLeft_arm z h).trans (recordLeft_eq hw)
  · intro e l z hn n
    refine ⟨fun hfirst => ?_, ?_⟩
    · rw [shiftLane_eq]
      rcases Nat.eq_zero_or_pos n with h0 | hpos
      · rw [show lanePositions e l = 0 from h0]
        exact ⟨fun p h1 hp => by omega, fun h => by omega, fun k _ => rfl⟩
      · obtain ⟨m, hm⟩ : ∃ m, n = m + 1 := ⟨n - 1, by omega⟩
        obtain ⟨hinner, hlast, hothers⟩ := shifted hfirst m (by omega)
        rw [show lanePositions e l = m + 1 from hm, hm]
        exact ⟨hinner, fun _ => hlast, hothers⟩
    · intro some' all lane
      exact ⟨fun h => if_neg (mt heldPositions_empty_iff.mp (not_not.mpr h)), fun h => if_pos (heldPositions_empty_iff.mpr h),
        fun h => if_neg (mt heldPositions_full_iff.mp h), fun h => if_pos (heldPositions_full_iff.mpr h)⟩
  · intro e n d z leg found
    have htarget : targetOf e z d = found := by
      cases d with
      | place p => cases p <;> rfl
      | lane l => rfl
      | anyStock => rfl
      | anyButt => rfl
      | anyStockOrButt =>
        show (storageChoice e z .stock <|> storageChoice e z .butt) = _
        simp only [found]
        cases storageChoice e z .stock <;> rfl
    exact ⟨fun p h => beginLeg2_found (htarget.trans h), fun h => beginLeg2_none (htarget.trans h)⟩
  · intro e o z p r hp hr t told bare put free gone taken
    refine ⟨fun l q h => ?_, fun n x h => ?_, fun d c h hd => ⟨fun hs => ?_, fun hs hv => ?_, fun slot v hs hv => ?_⟩,
      fun n => ownLoad_iff⟩
    · subst h
      refine ⟨fun y hy => setCompleted_occupied hp (setDown_lane_occupied hy), fun hq => ⟨fun ho => ?_, fun ho hb => ?_⟩⟩
      · refine (setCompleted_done hp (setDown_lane_reserved hr hq ho)).trans ?_
        rw [laneState_eq]
        rfl
      · refine (setCompleted_done hp (setDown_lane_released hr hq (not_or.mpr ⟨ho, hb⟩))).trans ?_
        rw [laneState_eq]
        rfl
    · subst h
      exact ⟨fun y hy => setCompleted_occupied hp (setDown_arm_occupied hy),
        fun hq => setCompleted_done hp (setDown_arm hr hq)⟩
    · subst h
      exact setCompleted_done hp (setDown_scrap hd hs)
    · subst h
      exact setCompleted_done hp (setDown_vehicle_gone hd hs hv)
    · subst h
      exact ⟨fun y hy => setCompleted_occupied hp (setDown_vehicle_occupied hd hs hv hy),
        fun hq => setCompleted_done hp (setDown_vehicle hd hs hv hr hq)⟩
  · intro e r x own z w k hw hk hstate hs withdrawn loaded t
    have hset {y : Zone} (h : rollOnArm e r x z = y) : t = withdrawn y := congrArg withdrawn h
    refine ⟨fun h => hset (rollOnArm_empty hw h), fun h hr => ?_, fun h1 h2 => hset (rollOnArm_kept hw hk hstate hs h1 h2)⟩
    have hloads := rollOnArm_loads (e := e) hw hk hstate hs h hr
    exact ⟨fun hready => hset (hloads.trans (if_neg (by simp [hready]))), fun hready => hset (hloads.trans (if_pos hready))⟩

end Sys2Proof.Machine

/-! PROOF. The carriage handed out (R78, R80, R86 to R88), the checks of the WAIT steps (R79, R81, R83, R84), and the
storage choice (R76). -/

namespace Sys2Proof.Machine

/-! ### Triggers, selection and preemption (R78, R86, R87) -/

theorem refreshTriggers_mem {e : Env} {z : Zone} {o : Order} (ho : o ∈ allOrders z)
    (h : o.state = .waitingTrigger ∨ o.state = .ready) :
    { o with state := if triggerHolds e z o then .ready else .waitingTrigger } ∈ allOrders (refreshTriggers e z) := by
  have hall : allOrders (refreshTriggers e z) = (allOrders z).map (Order.refreshed e z) := List.map_append.symm
  have hone : Order.refreshed e z o = { o with state := if triggerHolds e z o then .ready else .waitingTrigger } := by
    rcases h with h | h <;> simp only [Order.refreshed, h]
  rw [hall, ← hone]
  exact List.mem_map_of_mem ho

/-- An order is the first of its state in a list. -/
def firstIn (st : OrderState) (l : List Order) (o : Order) : Prop :=
  o.state = st ∧ ∃ older younger, l = older ++ o :: younger ∧ ∀ x ∈ older, x.state ≠ st

theorem find?_state_first {st : OrderState} {l : List Order} {o : Order} (h : firstIn st l o) :
    l.find? (fun o => o.state = st) = some o := by
  obtain ⟨hst, older, younger, hl, hold⟩ := h
  exact List.find?_eq_some_iff_append.mpr ⟨by simpa using hst, older, younger, hl, fun x hx => by simpa using hold x hx⟩

theorem find?_state_none {st : OrderState} {l : List Order} (h : ∀ x ∈ l, x.state ≠ st) :
    l.find? (fun o => o.state = st) = none :=
  List.find?_eq_none.mpr fun x hx => by simpa using h x hx

section
variable {e : Env} {z : Zone}

theorem house_halted {o : Order} (h : z.transfer.carriage = .halted o) : house e z = refreshTriggers e z := by
  have h' : (refreshTriggers e z).transfer.carriage = .halted o := h
  simp only [house, h']

theorem house_idle (h : z.transfer.carriage = .idle) : house e z = select e (refreshTriggers e z) := by
  have h' : (refreshTriggers e z).transfer.carriage = .idle := h
  simp only [house, h']

theorem select_ready {p : Order} (h : firstIn .ready z.transfer.ordersP p) : select e z = beginOrder e p z := by
  simp only [select, oldestReady, find?_state_first h]

variable (hP : ∀ x ∈ z.transfer.ordersP, x.state ≠ .ready)
include hP

theorem select_suspended {o : Order} (h : firstIn .suspended z.transfer.ordersO o) : select e z = resumeOrder e o z := by
  simp only [select, oldestReady, suspendedOrder, find?_state_none hP, find?_state_first h]

variable (hS : ∀ x ∈ z.transfer.ordersO, x.state ≠ .suspended)
include hS

theorem select_ready_other {o : Order} (h : firstIn .ready z.transfer.ordersO o) : select e z = beginOrder e o z := by
  simp only [select, oldestReady, suspendedOrder, find?_state_none hP, find?_state_none hS, find?_state_first h]

theorem select_none (h : ∀ x ∈ z.transfer.ordersO, x.state ≠ .ready) : select e z = z := by
  simp only [select, oldestReady, suspendedOrder, find?_state_none hP, find?_state_none hS, find?_state_none h]
end

/-- The order that the carriage runs makes the carriage a running one. -/
theorem carriage_of_runningOrder {z : Zone} {o : Order} (h : runningOrder z = some o) : ∃ n, z.transfer.carriage = .running n := by
  unfold runningOrder at h
  split at h
  · exact ⟨_, ‹_›⟩
  · exact absurd h nofun

section
variable {e : Env} {z : Zone} {o : Order} (ho : runningOrder (refreshTriggers e z) = some o)
include ho

theorem house_preempts {p : Order} (hp : firstIn .ready (refreshTriggers e z).transfer.ordersP p) (hq : o.req.queue = .o)
    (hs : o.step ≤ 2) : house e z = preempt e o p (refreshTriggers e z) := by
  obtain ⟨n, hn⟩ := carriage_of_runningOrder ho
  simp only [house, hn, ho, oldestReady, find?_state_first hp]
  exact if_pos ⟨hq, hs⟩

theorem house_waits (h : (∀ x ∈ (refreshTriggers e z).transfer.ordersP, x.state ≠ .ready) ∨ o.req.queue = .p ∨ 2 < o.step) :
    house e z = wait e o (refreshTriggers e z) := by
  obtain ⟨n, hn⟩ := carriage_of_runningOrder ho
  cases hp : oldestReady (refreshTriggers e z).transfer.ordersP with
  | none => simp only [house, hn, ho, hp]
  | some p =>
    simp only [house, hn, ho, hp]
    refine if_neg fun ⟨hq, hs⟩ => ?_
    rcases h with h | h | h
    · exact absurd (hp.symm.trans (find?_state_none h)) nofun
    · exact absurd (hq.symm.trans h) nofun
    · omega
end

theorem wait_source {e : Env} {o : Order} (z : Zone) (h : o.step = 2) : wait e o z = waitSource e o z := if_pos h

theorem wait_dest {e : Env} {o : Order} (z : Zone) (h : o.step = 5) : wait e o z = waitDest e o z :=
  (if_neg (by omega)).trans (if_pos h)

theorem wait_motion {e : Env} {o : Order} (z : Zone) (h2 : o.step ≠ 2) (h5 : o.step ≠ 5) : wait e o z = z :=
  (if_neg h2).trans (if_neg h5)

/-! ### An order begins (R80) -/

/-- An order takes the carriage. -/
def running (o : Order) (z : Zone) : Zone :=
  setCarriage (.running o.number) (modOrder o.number (fun o => { o with state := .running, step := 1 }) z)

/-- The carriage travels to the source of an order, its record changed. -/
def travelsFor (e : Env) (o : Order) (f : Order → Order) (z : Zone) : Zone :=
  command .travel (sourcePlace e o) (modOrder o.number (fun o =>
    { f o with step := 1, stepStart := e.now, holding := false, overrunRaised := false }) z)

section
variable {e : Env} {o : Order} {z : Zone}

theorem beginOrder_serial {x : Serial} (h : resolve e (running o z) o = .serial x) :
    beginOrder e o z = travelsFor e o (fun o => { o with serial := x }) (running o z) := by
  have hbegin : beginOrder e o z =
      beginTravel e { o with serial := x } (modOrder o.number (fun o => { o with serial := x }) (running o z)) := by
    simp only [beginOrder]
    rw [show resolve e (setCarriage (.running o.number) (modOrder o.number (fun o => { o with state := .running, step := 1 }) z))
      o = .serial x from h]
    rfl
  rw [hbegin, beginTravel, beginStep, modOrder_modOrder]
  · rfl
  · exact fun _ => rfl

theorem beginOrder_noRecord (h : resolve e (running o z) o = .noRecord) :
    beginOrder e o z = failUnderrun e { o with step := 1 } (flagUnderrun o.req.source (running o z)) := by
  simp only [beginOrder]
  rw [show resolve e (setCarriage (.running o.number) (modOrder o.number (fun o => { o with state := .running, step := 1 }) z))
    o = .noRecord from h]
  rfl

theorem beginOrder_duplicate (h : resolve e (running o z) o = .duplicate) :
    beginOrder e o z = failOrder e o .duplicate (bumpOverrun o.req.queue (running o z)) := by
  simp only [beginOrder]
  rw [show resolve e (setCarriage (.running o.number) (modOrder o.number (fun o => { o with state := .running, step := 1 }) z))
    o = .duplicate from h]
  rfl

theorem resolve_named (h : o.req.serial ≠ 0) : resolve e z o = .serial o.req.serial := if_pos h

variable (h0 : o.req.serial = 0)
include h0

theorem resolve_elsewhere (ht : throughLane e o.req.source = none) : resolve e z o = .serial 0 := by
  simp only [resolve, ht]
  exact if_neg (by simpa using h0)

variable {l : Nat} (ht : throughLane e o.req.source = some l)
include ht

theorem resolve_head {r : Roll} (hr : rollAt z (.lane l 1) = some r) : resolve e z o =
    if r.serial ≠ 0 ∧ (allOrders z).any (fun x => x.number ≠ o.number && x.serial = r.serial) then .duplicate
    else .serial r.serial := by
  simp only [resolve, ht, hr]
  exact if_neg (by simpa using h0)

theorem resolve_headless (hr : rollAt z (.lane l 1) = none) : resolve e z o =
    if (heldPositions z l (lanePositions e l)).isEmpty then .noRecord else .serial 0 := by
  simp only [resolve, ht, hr]
  exact if_neg (by simpa using h0)
end

theorem heldPositions_isEmpty_iff {z : Zone} {l n : Nat} :
    (heldPositions z l n).isEmpty = true ↔ ¬ ∃ p, 1 ≤ p ∧ p ≤ n ∧ rollAt z (.lane l p) ≠ none := by
  rw [List.isEmpty_iff_length_eq_zero]
  exact heldPositions_empty_iff

/-! ### A SUSPENDED order resumes (R88) -/

/-- The carriage is handed back to an order. -/
def resumed (o : Order) (z : Zone) : Zone :=
  setCarriage (.running o.number) (modOrder o.number (fun o => { o with state := .running }) z)

section
variable {e : Env} {o : Order} {z : Zone}

theorem resumeOrder_restarts (h : e.img.resume = .restartOrder) : resumeOrder e o z = beginOrder e o z := by
  simp only [resumeOrder, h]

variable (h : e.img.resume = .resumeStep)
include h

theorem resumeOrder_held (hs : sourceHolds e z o = true) : resumeOrder e o z = travelsFor e o id (resumed o z) := by
  have hs' : sourceHolds e (resumed o z) o = true := hs
  simp only [resumeOrder, h]
  exact if_pos hs'

theorem resumeOrder_lost (hs : sourceHolds e z o = false) : resumeOrder e o z =
    failUnderrun e o (if (throughLane e o.req.source).isSome then flagUnderrun o.req.source (resumed o z) else resumed o z) := by
  have hs' : ¬ sourceHolds e (resumed o z) o = true := by
    rw [show sourceHolds e (resumed o z) o = sourceHolds e z o from rfl, hs]
    nofun
  simp only [resumeOrder, h]
  refine (if_neg hs').trans (congrArg (failUnderrun e o) ?_)
  cases throughLane e o.req.source <;> rfl
end

/-- A record of a serial stands at a place. -/
def serialAt (z : Zone) (p : Place) (x : Serial) : Prop := ∃ r, rollAt z p = some r ∧ r.serial = x

theorem serialAt_iff {z : Zone} {p : Place} {x : Serial} : (rollAt z p).any (fun r => r.serial = x) = true ↔ serialAt z p x := by
  simp [Option.any_eq_true, serialAt]

theorem serialAt_false {z : Zone} {p : Place} {x : Serial} (h : ¬ serialAt z p x) :
    (rollAt z p).any (fun r => r.serial = x) = false := Bool.eq_false_iff.mpr (mt serialAt_iff.mp h)

theorem serialAt_lane_iff {e : Env} {z : Zone} {l : Nat} {x : Serial} :
    (upTo (lanePositions e l)).any (fun p => (rollAt z (.lane l p)).any fun r => r.serial = x) = true ↔
      ∃ p, 1 ≤ p ∧ p ≤ lanePositions e l ∧ serialAt z (.lane l p) x := by
  simp only [List.any_eq_true, serialAt_iff, mem_upTo, and_assoc]

section
variable {e : Env} {z : Zone} {o : Order}

theorem sourceHolds_through {l : Nat} (ht : throughLane e o.req.source = some l) :
    sourceHolds e z o = true ↔ ∃ p, 1 ≤ p ∧ p ≤ lanePositions e l ∧ serialAt z (.lane l p) o.serial := by
  simp only [sourceHolds, ht]
  exact serialAt_lane_iff

variable (ht : throughLane e o.req.source = none)
include ht

theorem sourceHolds_place {p : Place} (hp : tablePlace z o (sourcePlace e o) = some p) :
    sourceHolds e z o = true ↔ serialAt z p o.serial := by
  simp only [sourceHolds, ht, hp]
  exact serialAt_iff

theorem sourceHolds_nowhere (hp : tablePlace z o (sourcePlace e o) = none) : sourceHolds e z o = false := by
  simp only [sourceHolds, ht, hp]
end

theorem sourcePlace_elsewhere {e : Env} {o : Order} (h : throughLane e o.req.source = none) : sourcePlace e o = o.req.source := by
  cases hs : o.req.source with
  | lane l p =>
    have hm : ¬ laneMode? e l = some .through := fun hm => throughLane_none.mp h ⟨l, p, hs, hm⟩
    simp only [sourcePlace, hs]
    exact if_neg hm
  | arm n x => simp only [sourcePlace, hs]
  | dock d => simp only [sourcePlace, hs]
  | vehicle k => simp only [sourcePlace, hs]
  | carriage => simp only [sourcePlace, hs]

theorem resumeOrder_at {e : Env} {o : Order} {z : Zone} {p : Place} (h : e.img.resume = .resumeStep)
    (ht : throughLane e o.req.source = none) (hp : tablePlace z o o.req.source = some p) :
    ((∃ r, rollAt z p = some r ∧ r.serial = o.serial) → resumeOrder e o z = travelsFor e o id (resumed o z)) ∧
    ((∀ r, rollAt z p = some r → r.serial ≠ o.serial) → resumeOrder e o z = failUnderrun e o (resumed o z)) := by
  have hholds : sourceHolds e z o = true ↔ serialAt z p o.serial :=
    sourceHolds_place ht (by rw [sourcePlace_elsewhere ht]; exact hp)
  refine ⟨fun hr => resumeOrder_held h (hholds.mpr hr), fun hr => ?_⟩
  have hlost : sourceHolds e z o = false := Bool.eq_false_iff.mpr fun hs => by
    obtain ⟨r, hr', hx⟩ := hholds.mp hs
    exact hr r hr' hx
  rw [resumeOrder_lost h hlost, ht]
  rfl

theorem resumeOrder_nowhere {e : Env} {o : Order} {z : Zone} (h : e.img.resume = .resumeStep)
    (ht : throughLane e o.req.source = none) (hp : tablePlace z o o.req.source = none) :
    resumeOrder e o z = failUnderrun e o (resumed o z) := by
  have hlost : sourceHolds e z o = false := sourceHolds_nowhere ht (by rw [sourcePlace_elsewhere ht]; exact hp)
  rw [resumeOrder_lost h hlost, ht]
  rfl

theorem throughLane_lane {e : Env} {p : Place} {l : Nat} (h : (∃ k, p = .lane l k) ∧ laneMode? e l = some .through) :
    throughLane e p = some l := by
  obtain ⟨⟨k, hk⟩, hm⟩ := h
  exact throughLane_iff.mpr ⟨k, hk, hm⟩

theorem throughLane_elsewhere {e : Env} {p : Place} (h : ∀ l, ¬ ((∃ k, p = .lane l k) ∧ laneMode? e l = some .through)) :
    throughLane e p = none := by
  refine throughLane_none.mpr fun ht => ?_
  obtain ⟨l, k, hk, hm⟩ := ht
  exact h l ⟨⟨k, hk⟩, hm⟩

/-- How a selected order whose source is a THROUGH lane, and which names no serial, begins. -/
theorem beginOrder_through {e : Env} {o : Order} {z : Zone} {l : Nat} (h0 : o.req.serial = 0)
    (ht : throughLane e o.req.source = some l) :
    (∀ r, rollAt (running o z) (.lane l 1) = some r →
      (r.serial ≠ 0 ∧ ∃ x ∈ allOrders (running o z), x.number ≠ o.number ∧ x.serial = r.serial) →
      beginOrder e o z = failOrder e o .duplicate (bumpOverrun o.req.queue (running o z))) ∧
    (∀ r, rollAt (running o z) (.lane l 1) = some r →
      ¬ (r.serial ≠ 0 ∧ ∃ x ∈ allOrders (running o z), x.number ≠ o.number ∧ x.serial = r.serial) →
      beginOrder e o z = travelsFor e o (fun o => { o with serial := r.serial }) (running o z)) ∧
    (rollAt (running o z) (.lane l 1) = none →
      (∃ p, 1 ≤ p ∧ p ≤ lanePositions e l ∧ rollAt (running o z) (.lane l p) ≠ none) →
      beginOrder e o z = travelsFor e o (fun o => { o with serial := 0 }) (running o z)) ∧
    (rollAt (running o z) (.lane l 1) = none →
      ¬ (∃ p, 1 ≤ p ∧ p ≤ lanePositions e l ∧ rollAt (running o z) (.lane l p) ≠ none) →
      beginOrder e o z = failUnderrun e { o with step := 1 } (flagUnderrun o.req.source (running o z))) := by
  have hany (x : Serial) : (allOrders (running o z)).any (fun y => y.number ≠ o.number && y.serial = x) = true ↔
      ∃ y ∈ allOrders (running o z), y.number ≠ o.number ∧ y.serial = x := by simp
  refine ⟨fun r hr h => ?_, fun r hr h => ?_, fun hr h => ?_, fun hr h => ?_⟩
  · exact beginOrder_duplicate ((resolve_head h0 ht hr).trans (if_pos ⟨h.1, (hany r.serial).mpr h.2⟩))
  · exact beginOrder_serial ((resolve_head h0 ht hr).trans (if_neg fun hc => h ⟨hc.1, (hany r.serial).mp hc.2⟩))
  · exact beginOrder_serial ((resolve_headless h0 ht hr).trans (if_neg fun hc => heldPositions_isEmpty_iff.mp hc h))
  · exact beginOrder_noRecord ((resolve_headless h0 ht hr).trans (if_pos (heldPositions_isEmpty_iff.mpr h)))

end Sys2Proof.Machine

/-! PROOF. The checks of the WAIT steps (R79, R81, R83, R84), the storage choice (R76), and the carriage handed out as a
whole. -/

namespace Sys2Proof.Machine

/-! ### The lowest of the numbers 1 to n -/

theorem find?_upTo {n a : Nat} {p : Nat → Bool} (h : (upTo n).find? p = some a) :
    1 ≤ a ∧ a ≤ n ∧ p a = true ∧ ∀ m, 1 ≤ m → m < a → p m = false := by
  obtain ⟨hp, i, hi, ha, hbefore⟩ := List.find?_eq_some_iff_getElem.mp h
  have hget (j : Nat) (hj : j < (upTo n).length) : (upTo n)[j] = j + 1 := by simp [upTo]
  have hlen : (upTo n).length = n := by simp [upTo]
  rw [hget] at ha
  subst ha
  refine ⟨by omega, by omega, hp, fun m h1 hm => ?_⟩
  have hm' := hbefore (m - 1) (by omega)
  rw [hget, Nat.sub_add_cancel h1] at hm'
  simpa using hm'

theorem find?_upTo_none {n : Nat} {p : Nat → Bool} (h : (upTo n).find? p = none) {m : Nat} (h1 : 1 ≤ m) (hn : m ≤ n) :
    p m = false := by
  simpa using List.find?_eq_none.mp h m (mem_upTo.mpr ⟨h1, hn⟩)

theorem find?_upTo_least {n a : Nat} {p : Nat → Bool} (h1 : 1 ≤ a) (hn : a ≤ n) (ha : p a = true)
    (hmin : ∀ m, 1 ≤ m → m < a → p m = false) : (upTo n).find? p = some a := by
  cases h : (upTo n).find? p with
  | none => exact absurd (ha.symm.trans (find?_upTo_none h h1 hn)) nofun
  | some b =>
    obtain ⟨hb1, hbn, hb, hbmin⟩ := find?_upTo h
    rcases Nat.lt_trichotomy a b with hlt | rfl | hgt
    · exact absurd (ha.symm.trans (hbmin a h1 hlt)) nofun
    · rfl
    · exact absurd (hb.symm.trans (hmin b hb1 hgt)) nofun

theorem findSome?_upTo {β : Type} {n : Nat} {f : Nat → Option β} {b : β} (h : (upTo n).findSome? f = some b) :
    ∃ a, 1 ≤ a ∧ a ≤ n ∧ f a = some b ∧ ∀ m, 1 ≤ m → m < a → f m = none := by
  induction n with
  | zero => exact absurd h nofun
  | succ n ih =>
    rw [upTo_succ, List.findSome?_append] at h
    cases hf : (upTo n).findSome? f with
    | some c =>
      rw [hf] at h
      obtain ⟨a, h1, hn, ha, hmin⟩ := ih (hf.trans (by simpa using h))
      exact ⟨a, h1, by omega, ha, hmin⟩
    | none =>
      rw [hf] at h
      refine ⟨n + 1, by omega, by omega, by simpa using h, fun m h1 hm => ?_⟩
      exact List.findSome?_eq_none_iff.mp hf m (mem_upTo.mpr ⟨h1, by omega⟩)

/-! ### The storage choice (R76) -/

/-- A position that the storage choice for a role may take. -/
def storageFits (e : Env) (z : Zone) (role : LaneRole) (l p : Nat) : Prop :=
  ∃ c k, e.img.lane? l = some k ∧ k.role = role ∧ laneRec z l = some c ∧ c.inService = true ∧ c.mismatch = false ∧ 1 ≤ p ∧
    p ≤ k.positions ∧ rollAt z (.lane l p) = none ∧ laneDetector e l p = false ∧
    (k.mode = .through → ∀ j, 1 ≤ j → j < p → rollAt z (.lane l j) ≠ none)

/-- What the storage choice finds in one lane. -/
def roleStorage (e : Env) (z : Zone) (role : LaneRole) (l : Nat) : Option Place :=
  if (e.img.lane? l).any (fun c => c.role = role) then storageIn e z l else none

theorem storageChoice_eq (e : Env) (z : Zone) (role : LaneRole) :
    storageChoice e z role = (upTo e.img.lanes.length).findSome? (roleStorage e z role) := rfl

/-- The lowest position of a lane that fits, if one does. -/
def lowestFit (e : Env) (z : Zone) (role : LaneRole) (l : Nat) (found : Option Place) : Prop :=
  (found = none ∧ ∀ p, ¬ storageFits e z role l p) ∨
    ∃ p, found = some (.lane l p) ∧ storageFits e z role l p ∧ ∀ j, j < p → ¬ storageFits e z role l j

section
variable {e : Env} {z : Zone} {l : Nat} {c : Lane} {k : LaneCfg} (hk : e.img.lane? l = some k) (hc : laneRec z l = some c)
  (hin : c.inService = true) (hmis : c.mismatch = false)
include hk hc hin hmis

theorem storageIn_through (hm : k.mode = .through) : storageIn e z l =
    ((upTo k.positions).find? fun p => (rollAt z (.lane l p)).isNone).bind fun p =>
      if laneDetector e l p then none else some (.lane l p) := by
  have hopen : (laneRec z l).any (fun c => c.inService && !c.mismatch) = true := by simp [hc, hin, hmis]
  have hmode : laneMode? e l = some .through := by simp [laneMode?, hk, hm]
  have hpos : lanePositions e l = k.positions := by simp [lanePositions, hk]
  simp only [storageIn, hopen, if_true, hmode, lowestFree, hpos]
  cases (upTo k.positions).find? fun p => (rollAt z (.lane l p)).isNone <;> rfl

theorem storageIn_pick (hm : k.mode = .pick) : storageIn e z l =
    ((upTo k.positions).find? fun p => (rollAt z (.lane l p)).isNone && !laneDetector e l p).map (Place.lane l) := by
  have hopen : (laneRec z l).any (fun c => c.inService && !c.mismatch) = true := by simp [hc, hin, hmis]
  have hmode : laneMode? e l = some .pick := by simp [laneMode?, hk, hm]
  have hpos : lanePositions e l = k.positions := by simp [lanePositions, hk]
  simp only [storageIn, hopen, if_true, hmode, hpos]

theorem storageIn_through_lowest {role : LaneRole} (hm : k.mode = .through) (hr : k.role = role) :
    lowestFit e z role l (storageIn e z l) := by
  rw [storageIn_through hk hc hin hmis hm]
  have hfree {p : Nat} (h : storageFits e z role l p) : (1 ≤ p ∧ p ≤ k.positions) ∧ rollAt z (.lane l p) = none ∧
      laneDetector e l p = false ∧ ∀ j, 1 ≤ j → j < p → rollAt z (.lane l j) ≠ none := by
    obtain ⟨_, _, hk', -, -, -, -, h1, hp, hnone, hd, hbefore⟩ := h
    obtain rfl := Option.some.inj (hk.symm.trans hk')
    exact ⟨⟨h1, hp⟩, hnone, hd, hbefore hm⟩
  cases hf : (upTo k.positions).find? fun p => (rollAt z (.lane l p)).isNone with
  | none =>
    refine .inl ⟨rfl, fun p hfit => ?_⟩
    obtain ⟨⟨h1, hp⟩, hnone, -⟩ := hfree hfit
    simpa [hnone] using find?_upTo_none hf h1 hp
  | some p =>
    obtain ⟨h1, hp, hnone, hbefore⟩ := find?_upTo hf
    have honly {j : Nat} (hfit : storageFits e z role l j) : j = p := by
      obtain ⟨⟨hj1, hj⟩, hjnone, -, hjbefore⟩ := hfree hfit
      rcases Nat.lt_trichotomy j p with hlt | heq | hgt
      · simpa [hjnone] using hbefore j hj1 hlt
      · exact heq
      · exact absurd (Option.isNone_iff_eq_none.mp hnone) (hjbefore p h1 hgt)
    cases hd : laneDetector e l p with
    | true =>
      refine .inl ⟨by simp [hd], fun j hfit => ?_⟩
      obtain ⟨-, -, hoff, -⟩ := hfree hfit
      rw [honly hfit, hd] at hoff
      exact absurd hoff nofun
    | false =>
      refine .inr ⟨p, by simp [hd], ⟨c, k, hk, hr, hc, hin, hmis, h1, hp, Option.isNone_iff_eq_none.mp hnone, hd,
        fun _ j hj1 hj hempty => ?_⟩, fun j hj hfit => absurd (honly hfit) (by omega)⟩
      simpa [hempty] using hbefore j hj1 hj

theorem storageIn_pick_lowest {role : LaneRole} (hm : k.mode = .pick) (hr : k.role = role) :
    lowestFit e z role l (storageIn e z l) := by
  rw [storageIn_pick hk hc hin hmis hm]
  have hfree {p : Nat} (h : storageFits e z role l p) : (1 ≤ p ∧ p ≤ k.positions) ∧
      ((rollAt z (.lane l p)).isNone && !laneDetector e l p) = true := by
    obtain ⟨_, _, hk', -, -, -, -, h1, hp, hnone, hd, -⟩ := h
    obtain rfl := Option.some.inj (hk.symm.trans hk')
    exact ⟨⟨h1, hp⟩, by simp [hnone, hd]⟩
  cases hf : (upTo k.positions).find? fun p => (rollAt z (.lane l p)).isNone && !laneDetector e l p with
  | none =>
    refine .inl ⟨rfl, fun p hfit => ?_⟩
    obtain ⟨⟨h1, hp⟩, hyes⟩ := hfree hfit
    exact absurd (hyes.symm.trans (find?_upTo_none hf h1 hp)) nofun
  | some p =>
    obtain ⟨h1, hp, hyes, hbefore⟩ := find?_upTo hf
    obtain ⟨hnone, hd⟩ := Bool.and_eq_true_iff.mp hyes
    refine .inr ⟨p, rfl, ⟨c, k, hk, hr, hc, hin, hmis, h1, hp, Option.isNone_iff_eq_none.mp hnone, by simpa using hd,
      fun h => absurd (hm.symm.trans h) nofun⟩, fun j hj hfit => ?_⟩
    obtain ⟨⟨hj1, -⟩, hjyes⟩ := hfree hfit
    exact absurd (hjyes.symm.trans (hbefore j hj1 hj)) nofun
end

theorem storageIn_closed {e : Env} {z : Zone} {l : Nat}
    (h : ∀ c, laneRec z l = some c → ¬ (c.inService = true ∧ c.mismatch = false)) : storageIn e z l = none := by
  refine if_neg fun ho => ?_
  rw [Option.any_eq_true] at ho
  obtain ⟨c, hc, hopen⟩ := ho
  exact h c hc (by simpa using hopen)

theorem roleStorage_lowest (e : Env) (z : Zone) (role : LaneRole) (l : Nat) : lowestFit e z role l (roleStorage e z role l) := by
  by_cases h : ∃ c k, e.img.lane? l = some k ∧ k.role = role ∧ laneRec z l = some c ∧ c.inService = true ∧ c.mismatch = false
  · obtain ⟨c, k, hk, hr, hc, hin, hmis⟩ := h
    have hrole : roleStorage e z role l = storageIn e z l := if_pos (by simp [hk, hr])
    rw [hrole]
    cases hm : k.mode with
    | through => exact storageIn_through_lowest hk hc hin hmis hm hr
    | pick => exact storageIn_pick_lowest hk hc hin hmis hm hr
  · refine .inl ⟨?_, fun p ⟨c, k, hk, hr, hc, hin, hmis, _⟩ => h ⟨c, k, hk, hr, hc, hin, hmis⟩⟩
    by_cases hrole : (e.img.lane? l).any (fun c => c.role = role) = true
    · refine (if_pos hrole).trans (storageIn_closed fun c hc ⟨hin, hmis⟩ => ?_)
      rw [Option.any_eq_true] at hrole
      obtain ⟨k, hk, hr⟩ := hrole
      exact h ⟨c, k, hk, of_decide_eq_true hr, hc, hin, hmis⟩
    · exact if_neg hrole

theorem storageFits_lane {e : Env} {z : Zone} {role : LaneRole} {l p : Nat} (h : storageFits e z role l p) : 1 ≤ l := by
  obtain ⟨_, k, hk, -⟩ := h
  cases l with
  | zero => exact absurd hk nofun
  | succ l => omega

theorem storageChoice_none_iff {e : Env} {z : Zone} {role : LaneRole} : storageChoice e z role = none ↔
    ∀ l p, 1 ≤ l → l ≤ e.img.lanes.length → ¬ storageFits e z role l p := by
  rw [storageChoice_eq, List.findSome?_eq_none_iff]
  constructor
  · intro h l p h1 hl hfit
    rcases roleStorage_lowest e z role l with ⟨-, hnone⟩ | ⟨q, hq, -⟩
    · exact hnone p hfit
    · exact absurd ((h l (mem_upTo.mpr ⟨h1, hl⟩)).symm.trans hq) nofun
  · intro h l hl
    obtain ⟨h1, hlen⟩ := mem_upTo.mp hl
    rcases roleStorage_lowest e z role l with ⟨hnone, -⟩ | ⟨p, -, hfit, -⟩
    · exact hnone
    · exact absurd hfit (h l p h1 hlen)

theorem storageChoice_some {e : Env} {z : Zone} {role : LaneRole} {q : Place} (h : storageChoice e z role = some q) :
    ∃ l p, q = .lane l p ∧ storageFits e z role l p ∧ (∀ j, j < p → ¬ storageFits e z role l j) ∧
      ∀ m j, m < l → ¬ storageFits e z role m j := by
  rw [storageChoice_eq] at h
  obtain ⟨l, h1, hl, hq, hbefore⟩ := findSome?_upTo h
  rcases roleStorage_lowest e z role l with ⟨hnone, -⟩ | ⟨p, hp, hfit, hmin⟩
  · exact absurd (hnone.symm.trans hq) nofun
  · refine ⟨l, p, Option.some.inj (hq.symm.trans hp), hfit, hmin, fun m j hm hfits => ?_⟩
    rcases roleStorage_lowest e z role m with ⟨-, hnone⟩ | ⟨i, hi, -⟩
    · exact hnone j hfits
    · exact absurd ((hbefore m (storageFits_lane hfits) hm).symm.trans hi) nofun

theorem storageChoice_of_stock {e : Env} {z t : Zone} (h : t.stock = z.stock) (role : LaneRole) :
    storageChoice e t role = storageChoice e z role := by
  have hown : storageChoice e t role = storageChoice e { z with stock := t.stock } role := rfl
  rw [hown, h]

/-! ### The WAIT of step 2 (R55, R81) -/

/-- The WAIT of an order ends with a new step and its command. -/
def waitEnds (e : Env) (n step : Nat) (m : Motion) (p : Place) (f : Order → Order) (z : Zone) : Zone :=
  command m p (modOrder n (fun o => { f o with step := step, stepStart := e.now, holding := false, overrunRaised := false })
    (clearHold n z))

section
variable {e : Env} {z : Zone} {o : Order}

theorem waitSource_ready (h : checkSource e z o = .ready) :
    waitSource e o z = waitEnds e o.number 3 .pick (sourcePlace e o) id z := by
  simp only [waitSource, h]
  rfl

theorem waitSource_holds (h : checkSource e z o = .notReady) : waitSource e o z = hold e o (some (sourcePlace e o)) z := by
  simp only [waitSource, h]

theorem waitSource_underrun (h : checkSource e z o = .underrun) :
    waitSource e o z = failUnderrun e o (flagUnderrun (sourcePlace e o) z) := by
  simp only [waitSource, h]

section
variable {l p : Nat} {c : Lane} (hp : sourcePlace e o = .lane l p) (hc : laneRec z l = some c)
include hp hc

theorem checkSource_lane_out (h : c.inService = false) : checkSource e z o = .notReady := by
  simp only [checkSource, hp, hc, Option.any_some, h]
  exact if_neg nofun

theorem checkSource_lane (h : c.inService = true) : checkSource e z o = takeCheck e z l p o.serial := by
  simp only [checkSource, hp, hc, Option.any_some, h, if_true]
end

theorem takeCheck_pick {l p : Nat} {x : Serial} (hm : laneMode? e l = some .pick) (hs : serialAt z (.lane l p) x) :
    takeCheck e z l p x = if laneDetector e l p then .ready else .notReady := by
  simp only [takeCheck, hm, serialAt_iff.mpr hs, if_true]

theorem takeCheck_pick_lost {l p : Nat} {x : Serial} (hm : laneMode? e l = some .pick) (hs : ¬ serialAt z (.lane l p) x) :
    takeCheck e z l p x = .underrun := by
  simp only [takeCheck, hm, serialAt_false hs]
  exact if_neg nofun

theorem takeCheck_through {l p : Nat} {x : Serial} (hm : laneMode? e l = some .through) (hs : serialAt z (.lane l 1) x) :
    takeCheck e z l p x = if laneDetector e l 1 then .ready else .notReady := by
  simp only [takeCheck, hm, serialAt_iff.mpr hs, if_true]

section
variable {l p : Nat} {x : Serial} (hm : laneMode? e l = some .through) (hs : ¬ serialAt z (.lane l 1) x)
include hm hs

theorem takeCheck_through_behind (hb : ∃ q, 1 ≤ q ∧ q ≤ lanePositions e l ∧ serialAt z (.lane l q) x) :
    takeCheck e z l p x = .notReady := by
  simp only [takeCheck, hm, serialAt_false hs, serialAt_lane_iff.mpr hb]
  rfl

theorem takeCheck_through_lost (hb : ¬ ∃ q, 1 ≤ q ∧ q ≤ lanePositions e l ∧ serialAt z (.lane l q) x) :
    takeCheck e z l p x = .underrun := by
  simp only [takeCheck, hm, serialAt_false hs, Bool.eq_false_iff.mpr (mt serialAt_lane_iff.mp hb)]
  rfl
end

theorem checkSource_arm {n : Nat} {x : Arm} (hp : sourcePlace e o = .arm n x) (hs : serialAt z (.arm n x) o.serial) :
    checkSource e z o = if mayEmpty e z n x then .ready else .notReady := by
  simp only [checkSource, hp, serialAt_iff.mpr hs, if_true]

theorem checkSource_arm_lost {n : Nat} {x : Arm} (hp : sourcePlace e o = .arm n x) (hs : ¬ serialAt z (.arm n x) o.serial) :
    checkSource e z o = .underrun := by
  simp only [checkSource, hp, serialAt_false hs]
  exact if_neg nofun

theorem checkSource_dock_gone {d : Nat} (hp : sourcePlace e o = .dock d) (hv : o.vehicle.bind (findVehicle z) = none) :
    checkSource e z o = .underrun := by
  simp only [checkSource, hp, hv]

section
variable {d slot : Nat} {v : Vehicle} (hp : sourcePlace e o = .dock d)
  (hv : o.vehicle.bind (findVehicle z) = some (slot, v))
include hp hv

theorem checkSource_dock_away (hd : dockedAt e z v.number d = false) : checkSource e z o = .notReady := by
  simp only [checkSource, hp, hv, hd]
  rfl

variable (hd : dockedAt e z v.number d = true)
include hd

theorem checkSource_dock (hs : serialAt z (.vehicle slot) o.serial) : checkSource e z o = .ready := by
  simp only [checkSource, hp, hv, hd, serialAt_iff.mpr hs]
  rfl

theorem checkSource_dock_lost (hs : ¬ serialAt z (.vehicle slot) o.serial) : checkSource e z o = .underrun := by
  simp only [checkSource, hp, hv, hd, serialAt_false hs]
  rfl
end
end

/-! ### The WAIT of step 5 (R56, R83, R84) -/

/-- The place at which a SET begins: the lowest free position of a THROUGH lane. -/
def setPlace (e : Env) (z : Zone) : Place → Place
  | .lane l q => .lane l ((putPosition e z l q).getD q)
  | p => p

/-- The roll that the carriage grips is quarantined at an arm. -/
def quarantinedAtArm (z : Zone) : Place → Bool
  | .arm _ _ => quarantined z (grippedSerial z)
  | _ => false

section
variable {e : Env} {z : Zone} {o : Order} {p : Place}

theorem beginSet_eq (e : Env) (o : Order) (p : Place) (z : Zone) : beginSet e o p z =
    waitEnds e o.number 6 .set (setPlace e z p) (fun o => { o with target := some (setPlace e z p) }) z := by
  have hset : beginSet e o p z = command .set (setPlace e z p) (beginStep e o.number 6
      (modOrder o.number (fun o => { o with target := some (setPlace e z p) }) (clearHold o.number z))) := by
    cases p <;> rfl
  rw [hset, beginStep, modOrder_modOrder]
  · rfl
  · exact fun _ => rfl

theorem waitDest_target (ht : o.target = some p) : waitDest e o z = waitTarget e o p z := by
  simp only [waitDest, ht]

section
variable (ht : o.target = some p) (hq : quarantinedAtArm z p = false)
include ht hq

theorem waitDest_ready (h : checkDest e z o p = .ready) : waitDest e o z =
    waitEnds e o.number 6 .set (setPlace e z p) (fun o => { o with target := some (setPlace e z p) }) z := by
  have hq' : ¬ quarantinedAtArm z p = true := by simp [hq]
  rw [waitDest_target ht, ← beginSet_eq]
  simp only [waitTarget, h]
  exact if_neg hq'

theorem waitDest_holds (h : checkDest e z o p = .notReady) : waitDest e o z = hold e o (some p) z := by
  have hq' : ¬ quarantinedAtArm z p = true := by simp [hq]
  rw [waitDest_target ht]
  simp only [waitTarget, h]
  exact if_neg hq'

theorem waitDest_overrun (h : checkDest e z o p = .overrun) :
    waitDest e o z = hold e o (some p) (raiseOverrun e o p (flagOverrun p z)) := by
  have hq' : ¬ quarantinedAtArm z p = true := by simp [hq]
  rw [waitDest_target ht]
  simp only [waitTarget, h]
  exact if_neg hq'
end

/-- The call of an order redirected is told. -/
def redirectTold (o : Order) (z : Zone) : Zone :=
  { z with agenda := z.agenda ++ (o.req.callRef.map fun ref => Task.loadRedirected ref.call).toList }

theorem waitDest_redirected {n : Nat} {x : Arm} (ht : o.target = some (.arm n x)) (hq : quarantined z (grippedSerial z) = true) :
    waitDest e o z = redirectOrder e o (redirectTold o z) := by
  rw [waitDest_target ht]
  refine (if_pos hq).trans (congrArg (redirectOrder e o) ?_)
  unfold redirectTold
  cases o.req.callRef with
  | some ref => rfl
  | none => simp

section
variable {l q : Nat} {c : Lane} (hc : laneRec z l = some c)
include hc

theorem checkDest_lane_out (h : c.inService = false) : checkDest e z o (.lane l q) = .notReady := by
  simp only [checkDest, hc, Option.any_some, h]
  exact if_neg nofun

variable (hin : c.inService = true)
include hin

theorem checkDest_lane {k : Nat} (hk : putPosition e z l q = some k) :
    checkDest e z o (.lane l q) = if laneDetector e l k then .overrun else .ready := by
  simp only [checkDest, hc, Option.any_some, hin, if_true, putCheck, hk]

theorem checkDest_lane_full (hk : putPosition e z l q = none) : checkDest e z o (.lane l q) = .overrun := by
  simp only [checkDest, hc, Option.any_some, hin, if_true, putCheck, hk]
end

theorem putPosition_pick {l q : Nat} (hm : laneMode? e l = some .pick) :
    putPosition e z l q = if (rollAt z (.lane l q)).isNone then some q else none := by
  simp only [putPosition, hm]

theorem putPosition_through {l q : Nat} (hm : laneMode? e l = some .through) : putPosition e z l q = lowestFree e z l := by
  simp only [putPosition, hm]

theorem putPosition_pick_some {l q k : Nat} (hm : laneMode? e l = some .pick) (hk : putPosition e z l q = some k) :
    rollAt z (.lane l q) = none ∧ q = k := by
  rw [putPosition_pick hm] at hk
  split at hk
  · exact ⟨Option.isNone_iff_eq_none.mp ‹_›, Option.some.inj hk⟩
  · exact absurd hk nofun

theorem lowestFree_least {l k : Nat} (h1 : 1 ≤ k) (hk : k ≤ lanePositions e l) (hnone : rollAt z (.lane l k) = none)
    (hbefore : ∀ j, 1 ≤ j → j < k → rollAt z (.lane l j) ≠ none) : lowestFree e z l = some k :=
  find?_upTo_least h1 hk (by simp [hnone]) fun j hj1 hj => by simpa [Option.isSome_iff_ne_none] using hbefore j hj1 hj

section
variable {l q : Nat} {c : Lane} (ht : o.target = some (.lane l q)) (hc : laneRec z l = some c) (hin : c.inService = true)
include ht hc hin

theorem waitDest_lane_ready {k : Nat} (hk : putPosition e z l q = some k) (hd : laneDetector e l k = false) :
    waitDest e o z = waitEnds e o.number 6 .set (.lane l k) (fun o => { o with target := some (.lane l k) }) z := by
  have hplace : setPlace e z (.lane l q) = .lane l k := by simp only [setPlace, hk, Option.getD_some]
  rw [waitDest_ready ht rfl ((checkDest_lane hc hin hk).trans (if_neg (by simp [hd]))), hplace]

theorem waitDest_lane_overrun (h : ∀ k, putPosition e z l q = some k → laneDetector e l k = true) :
    waitDest e o z = hold e o (some (.lane l q)) (raiseOverrun e o (.lane l q) (flagOverrun (.lane l q) z)) := by
  refine waitDest_overrun ht rfl ?_
  cases hk : putPosition e z l q with
  | none => exact checkDest_lane_full hc hin hk
  | some k => exact (checkDest_lane hc hin hk).trans (if_pos (h k hk))
end

theorem checkDest_arm {n : Nat} {x : Arm} : checkDest e z o (.arm n x) =
    if (rollAt z (.arm n x)).isNone && mayLoad e z n x then .ready else .notReady := rfl

section
variable {d : Nat} {c : DockCfg} (hd : e.img.dock? d = some c)
include hd

theorem checkDest_scrap (h : c.role = .scrap) : checkDest e z o (.dock d) = .ready := by
  simp only [checkDest, hd, Option.any_some]
  exact if_pos (decide_eq_true h)

variable (h : c.role ≠ .scrap)
include h

theorem checkDest_vehicle {slot : Nat} {v : Vehicle} (hv : o.vehicle.bind (findVehicle z) = some (slot, v)) :
    checkDest e z o (.dock d) = if dockedAt e z v.number d && !v.loaded then .ready else .notReady := by
  simp only [checkDest, hd, Option.any_some, hv]
  exact if_neg (by simpa using h)

theorem checkDest_vehicle_gone (hv : o.vehicle.bind (findVehicle z) = none) : checkDest e z o (.dock d) = .notReady := by
  simp only [checkDest, hd, Option.any_some, hv]
  exact if_neg (by simpa using h)
end
end

theorem waitDest_chosen {e : Env} {o : Order} {z : Zone} {q : Place} (ht : o.target = none)
    (h : targetOf e z o.req.dest = some q) :
    waitDest e o z = beginLeg2 e o.number o.req.dest (clearHold o.number z) := by
  simp only [waitDest, ht, h]

theorem waitDest_unchosen {e : Env} {o : Order} {z : Zone} (ht : o.target = none) (h : targetOf e z o.req.dest = none) :
    waitDest e o z = hold e o z.transfer.placeInput z := by
  simp only [waitDest, ht, h]

/-- How a SUSPENDED order resumes under RESUME_STEP from a THROUGH lane. -/
theorem resumeOrder_through {e : Env} {o : Order} {z : Zone} {l : Nat} (h : e.img.resume = .resumeStep)
    (ht : (∃ k, o.req.source = .lane l k) ∧ laneMode? e l = some .through) :
    ((∃ p, 1 ≤ p ∧ p ≤ lanePositions e l ∧ serialAt z (.lane l p) o.serial) →
      resumeOrder e o z = travelsFor e o id (resumed o z)) ∧
    (¬ (∃ p, 1 ≤ p ∧ p ≤ lanePositions e l ∧ serialAt z (.lane l p) o.serial) →
      resumeOrder e o z = failUnderrun e o (modLane l (fun c => { c with underrun := true }) (resumed o z))) := by
  have hlane := throughLane_lane ht
  obtain ⟨⟨k, hk⟩, -⟩ := ht
  refine ⟨fun hs => resumeOrder_held h ((sourceHolds_through hlane).mpr hs), fun hs => ?_⟩
  rw [resumeOrder_lost h (Bool.eq_false_iff.mpr (mt (sourceHolds_through hlane).mp hs)), hlane, hk]
  rfl

/-- Settles O59: the carriage by its state, an order begun and resumed by its source, the two WAIT steps by their places, and
the storage choice by the lowest lane and position that fit. -/
theorem ordersSelected : Obligations.OrdersSelected := by
  refine ⟨?_, ?_⟩
  · intro e z t first none'
    refine ⟨fun o ho h => refreshTriggers_mem ho h, fun o h => house_halted h, fun h => ⟨fun p hp => ?_, fun o hP ho => ?_,
      fun o hP hS ho => ?_, fun hP hS hO => ?_⟩, fun o ho => ⟨?_, fun h => ⟨fun h2 => ?_, fun h5 => ?_, fun h2 h5 => ?_⟩⟩,
      fun o => ?_⟩
    · exact (house_idle h).trans (select_ready hp)
    · exact (house_idle h).trans (select_suspended hP ho)
    · exact (house_idle h).trans (select_ready_other hP hS ho)
    · exact (house_idle h).trans (select_none hP hS hO)
    · exact fun p hp hq hs => house_preempts ho hp hq hs
    · exact (house_waits ho h).trans (wait_source t h2)
    · exact (house_waits ho h).trans (wait_dest t h5)
    · exact (house_waits ho h).trans (wait_motion t h2 h5)
    · intro taken running src travel go through
      refine ⟨fun l ⟨⟨p, hp⟩, hm⟩ => ?_, fun h => sourcePlace_elsewhere (throughLane_elsewhere h),
        fun h => beginOrder_serial (resolve_named h),
        fun h0 h => beginOrder_serial (resolve_elsewhere h0 (throughLane_elsewhere h)), fun l h0 ht => ?_,
        resumeOrder_restarts, fun h => ?_⟩
      · exact (sourcePlace_lane hp).trans (by rw [if_pos hm])
      · obtain ⟨hdup, hhead, hbehind, hempty⟩ := beginOrder_through (z := z) h0 (throughLane_lane ht)
        refine ⟨fun r hr hs hx => hdup r hr ⟨hs, hx⟩, fun r hr hx => hhead r hr ?_, hbehind, ?_⟩
        · rintro ⟨hs, x, hmem, hnum, hser⟩
          exact hx.elim hs fun h => h x hmem hnum hser
        · intro hall hn flagged
          obtain ⟨⟨p, hp⟩, -⟩ := ht
          refine (hempty (hall 1 (Nat.le_refl 1) hn) fun ⟨p, h1, hp, hsome⟩ => hsome (hall p h1 hp)).trans ?_
          rw [hp]
          rfl
      · intro back again lost
        refine ⟨fun l ht => ⟨?_, fun hnone => ?_⟩, fun l p hs hm => ?_, fun n x hs => ?_, fun d hs => ⟨?_, fun hnone => ?_⟩⟩
        · rintro ⟨p, r, h1, hn, hr, hx⟩
          exact (resumeOrder_through h ht).1 ⟨p, h1, hn, r, hr, hx⟩
        · exact (resumeOrder_through h ht).2 fun ⟨p, h1, hn, r, hr, hx⟩ => hnone p r h1 hn hr hx
        · refine resumeOrder_at h (throughLane_elsewhere fun m ⟨⟨k, hk⟩, hm'⟩ => hm ?_) (by rw [hs]; rfl)
          obtain ⟨rfl, -⟩ := Place.lane.inj (hs.symm.trans hk)
          exact hm'
        · exact resumeOrder_at h (throughLane_elsewhere fun m ⟨⟨k, hk⟩, _⟩ => absurd (hs.symm.trans hk) nofun) (by rw [hs]; rfl)
        · rintro ⟨slot, v, r, hv, hr, hx⟩
          have hslot : tablePlace z o o.req.source = some (.vehicle slot) := by
            rw [hs, tablePlace, orderSlot, hv]
            rfl
          exact (resumeOrder_at h (throughLane_elsewhere fun m ⟨⟨k, hk⟩, _⟩ => absurd (hs.symm.trans hk) nofun) hslot).1 ⟨r, hr, hx⟩
        · have ht : throughLane e o.req.source = none :=
            throughLane_elsewhere fun m ⟨⟨k, hk⟩, _⟩ => absurd (hs.symm.trans hk) nofun
          cases hv : o.vehicle.bind (findVehicle z) with
          | none =>
            have hslot : tablePlace z o o.req.source = none := by
              rw [hs, tablePlace, orderSlot, hv]
              rfl
            exact resumeOrder_nowhere h ht hslot
          | some x =>
            have hslot : tablePlace z o o.req.source = some (.vehicle x.1) := by
              rw [hs, tablePlace, orderSlot, hv]
              rfl
            exact (resumeOrder_at h ht hslot).2 fun r hr => hnone x.1 x.2 r hv hr
  · intro e o z src begins holds ready2 hold2 under2 is
    refine ⟨fun l p c hp hc => ⟨?_, fun hin hm => ⟨fun hs hd => ?_, fun hs hd => ?_, fun hs => ?_⟩,
      fun hin hm => ⟨fun hs hd => ?_, fun hs hd => ?_, fun hs hb => ?_, fun hs hb => ?_⟩⟩,
      fun n x hp => ?_,
      fun d hp => ⟨?_, fun slot v hv => ⟨?_, fun hd hs => ?_, fun hd hs => ?_⟩⟩, fun p ht => ?_, fun ht hd => ?_, fun role => ?_⟩
    · exact fun h => waitSource_holds (checkSource_lane_out hp hc h)
    · exact waitSource_ready ((checkSource_lane hp hc hin).trans ((takeCheck_pick hm hs).trans (if_pos hd)))
    · exact waitSource_holds ((checkSource_lane hp hc hin).trans ((takeCheck_pick hm hs).trans (if_neg (by simp [hd]))))
    · exact waitSource_underrun ((checkSource_lane hp hc hin).trans (takeCheck_pick_lost hm hs))
    · exact waitSource_ready ((checkSource_lane hp hc hin).trans ((takeCheck_through hm hs).trans (if_pos hd)))
    · exact waitSource_holds ((checkSource_lane hp hc hin).trans ((takeCheck_through hm hs).trans (if_neg (by simp [hd]))))
    · exact waitSource_holds ((checkSource_lane hp hc hin).trans (takeCheck_through_behind hm hs hb))
    · exact waitSource_underrun ((checkSource_lane hp hc hin).trans
        (takeCheck_through_lost hm hs fun ⟨q, h1, hn, hq⟩ => hb q h1 hn hq))
    · have hat : is src ↔ serialAt z (.arm n x) o.serial := iff_of_eq (congrArg is hp)
      exact ⟨fun hs hm => waitSource_ready ((checkSource_arm hp (hat.mp hs)).trans (if_pos hm)),
        fun hs hm => waitSource_holds ((checkSource_arm hp (hat.mp hs)).trans (if_neg (by simp [hm]))),
        fun hs => waitSource_underrun (checkSource_arm_lost hp (mt hat.mpr hs))⟩
    · exact fun hv => waitSource_underrun (checkSource_dock_gone hp hv)
    · exact fun hd => waitSource_holds (checkSource_dock_away hp hv hd)
    · exact waitSource_ready (checkSource_dock hp hv hd hs)
    · exact waitSource_underrun (checkSource_dock_lost hp hv hd hs)
    · intro hold5 over5 set5
      refine ⟨fun l q c hp hc => ⟨?_, fun hin hm => ⟨fun hnone hoff => ?_, fun h => ?_⟩,
        fun hin hm => ⟨fun k h1 hk hnone hbefore => ⟨fun hoff => ?_, fun hon => ?_⟩, fun hall => ?_⟩⟩, fun n x hp => ?_, fun d c hp hd => ?_⟩
      · subst hp
        exact fun h => waitDest_holds ht rfl (checkDest_lane_out hc h)
      · subst hp
        exact waitDest_lane_ready ht hc hin ((putPosition_pick hm).trans (if_pos (by simp [hnone]))) hoff
      · intro m j hmj flagged
        subst hp
        obtain ⟨rfl, rfl⟩ := Place.lane.inj hmj
        refine waitDest_lane_overrun ht hc hin fun k hk => ?_
        obtain ⟨hnone, rfl⟩ := putPosition_pick_some hm hk
        exact h.resolve_left (not_not.mpr hnone)
      · subst hp
        exact waitDest_lane_ready ht hc hin ((putPosition_through hm).trans (lowestFree_least h1 hk hnone hbefore)) hoff
      · intro m j hmj flagged
        subst hp
        obtain ⟨rfl, rfl⟩ := Place.lane.inj hmj
        refine waitDest_lane_overrun ht hc hin fun i hi => ?_
        obtain rfl : k = i := Option.some.inj ((lowestFree_least h1 hk hnone hbefore).symm.trans ((putPosition_through hm).symm.trans hi))
        exact hon
      · intro m j hmj flagged
        subst hp
        obtain ⟨rfl, rfl⟩ := Place.lane.inj hmj
        refine waitDest_lane_overrun ht hc hin fun i hi => ?_
        obtain ⟨h1, hn, hfree, -⟩ := find?_upTo ((putPosition_through hm).symm.trans hi)
        exact absurd (Option.isNone_iff_eq_none.mp hfree) (hall i h1 hn)
      · subst hp
        intro gripped
        refine ⟨fun hq => ⟨fun hnone hm => ?_, fun h => ?_⟩, fun hq => ?_⟩
        · exact waitDest_ready ht hq (checkDest_arm.trans (if_pos (by simp [hnone, hm])))
        · exact waitDest_holds ht hq (checkDest_arm.trans (if_neg (by
            rcases h with h | h
            · simp [h]
            · simp [h])))
        · intro told sent leg found
          have hsent : waitDest e o z = beginLeg2 e o.number .anyStockOrButt sent := waitDest_redirected ht hq
          have htarget : targetOf e sent .anyStockOrButt = found := by
            refine (congrArg₂ (fun a b : Option Place => a <|> b) (storageChoice_of_stock (t := sent) (z := z) rfl .stock)
              (storageChoice_of_stock (t := sent) (z := z) rfl .butt)).trans ?_
            simp only [found]
            cases storageChoice e z .stock <;> rfl
          exact ⟨fun q h => hsent.trans (beginLeg2_found (htarget.trans h)),
            fun h => hsent.trans (beginLeg2_none (htarget.trans h))⟩
      · subst hp
        refine ⟨fun hs => waitDest_ready ht rfl (checkDest_scrap hd hs), fun hs => ⟨fun slot v hv hdock hl => ?_, fun h => ?_⟩⟩
        · exact waitDest_ready ht rfl ((checkDest_vehicle hd hs hv).trans (if_pos (by simp [hdock, hl])))
        · refine waitDest_holds ht rfl ?_
          cases hv : o.vehicle.bind (findVehicle z) with
          | none => exact checkDest_vehicle_gone hd hs hv
          | some x =>
            refine (checkDest_vehicle hd hs hv).trans (if_neg ?_)
            rcases h x.1 x.2 hv with h | h <;> simp [h]
    · intro role
      have htarget (t : Zone) (hstock : t.stock = z.stock) : targetOf e t o.req.dest = storageChoice e z role := by
        rw [← storageChoice_of_stock hstock]
        rcases hd with h | h <;> simp only [role, h] <;> rfl
      refine ⟨fun hnone => ?_, fun q hq => ?_⟩
      · rw [waitDest_unchosen ht ((htarget z rfl).trans hnone)]
        cases z.transfer.placeInput <;> rfl
      · exact (waitDest_chosen ht ((htarget z rfl).trans hq)).trans
          (beginLeg2_found ((htarget (clearHold o.number z) rfl).trans hq))
    · exact ⟨storageChoice_none_iff, fun q h => storageChoice_some h⟩

end Sys2Proof.Machine
